-- ==== Sys2Proof/Word.lean ====
section
/-!
DEFINITION. The word types of the LD-640 and their plainest arithmetic.
-/
namespace Sys2Proof

/-- A byte, the smallest addressable unit (R8, R166). -/
abbrev Byte := BitVec 8
/-- A 64-bit scalar word (R109). -/
abbrev Word := BitVec 64
/-- A 72-bit address register or stream address (R109, R199). -/
abbrev Addr := BitVec 72
/-- A 64-byte element word, a geometry register (R8, R198). -/
abbrev Vec := BitVec 512

end Sys2Proof
end

