-- ==== Sys2Proof/Config.lean ====
section
/-!
DEFINITION. What the spec leaves to the part, as free values: constants without a body, so that no proof can rest on
any value of them. A claim about one holds whatever it is.
-/
namespace Sys2Proof

/-- SHA3-256 of a byte string (R407 to R409, R415): named by the spec and not defined by it (log entry 10). -/
opaque Config.sha3 : List Byte → BitVec 256
/-- ML-DSA-44 verification of a signature of a digest with a key (R407, R409, R413, R424; log entry 10). -/
opaque Config.mldsaVerify : (key : List Byte) → (digest : BitVec 256) → (sig : List Byte) → Bool
/-- ML-DSA-44 signing with the device key (R410, R421; log entry 10). -/
opaque Config.mldsaSign : (digest : BitVec 256) → List Byte
/-- The vendor key in the fuses (R409, R424; log entry 10). -/
opaque Config.vendorKey : List Byte
/-- The device's own public key, against which a seedbank entry is checked (R421, R422; log entry 10). -/
opaque Config.deviceKey : List Byte
/-- The device identity of an attestation report (R410; log entry 10). -/
opaque Config.deviceId : List Byte
/-- The order in which elements of an axis are combined, by their indices: the left side of a node stands before the right (R419). -/
inductive Fold where
  | leaf (i : Nat)
  | node (a b : Fold)
  deriving DecidableEq, Repr

/-- What translation keeps of a pattern's order (R419): nothing of a map; how each output of a reduction or a scan is combined; the order
in which the kept elements of a filter come out, by their input indices; the children of a sequence, each of which writes before the next
one reads. -/
inductive Kept where
  | none
  | folds (outputs : List (Option Fold))
  | order (inputs : List Nat)
  | children (records : List Nat)
  deriving DecidableEq, Repr

/-- A pattern of a GPF section with its tensors, and the order that its translation keeps (R419). -/
structure Pattern where
  kind : Nat
  op : Nat
  axis : Nat
  inputs : List Nat
  output : Nat
  kept : Kept
  deriving DecidableEq, Repr

/-- What a 32-byte record of a GPF section is, and its fields: 0 a pattern; 1 a tensor with its type, its dimension count and four
sizes; 2 a factor with its id, its bounds and its size; 3 a relocation with 1 for a grove sequencer's code, the target, the bundle and the
slot. The spec gives the layout of patterns alone (R419; log entry 20). -/
opaque Config.gpfRecord : (record : List Byte) → Nat × List Nat
/-- What `dzistan` goes by when it chooses a value of a factor of an object's n-th section (R420; log entry 10). -/
opaque Config.factorChoice : (object : List Byte) → (placement : List Byte) → (graftver : BitVec 256) → (n : Nat) → (id : Nat) → Nat
/-- The `dzistan` translation of the patterns of an object's n-th section under a placement: sections as (kind, place, bytes), kind 0
being a datum and kind 10 a configuration image placed in HBM (R416, R420; log entry 10). -/
opaque Config.translate : (object : List Byte) → (placement : List Byte) → (graftver : BitVec 256) → (n : Nat) →
  (patterns : List Pattern) → List (Nat × Nat × List Byte)
/-- A data section of a code object: panes by first, count and engine ownership, and bytes by address; none where it is
malformed. The spec does not give the section's layout (R413, R160; log entry 20). -/
opaque Config.dataSection : List Byte → Option (List (Nat × Nat × Bool) × List (Nat × List Byte))
/-- A barrier section of a code object: barriers and counts (R413; log entry 20). -/
opaque Config.barrierSection : List Byte → Option (List (Nat × Nat))
/-- A symbol table of a code object: name, whether the symbol is of a grove sequencer's code, target, kind and value (R413, R416; log
entry 20). -/
opaque Config.symbolSection : List Byte → Option (List (List Byte × Bool × Nat × Nat × Nat))
/-- A relocation table of a code object: whether the code is a grove sequencer's, its target, the bundle and the slot
(R413, R419; log entry 20). -/
opaque Config.relocationSection : List Byte → Option (List (Bool × Nat × Nat × Nat))
/-- The bytes of an attestation report from its items in the order of R410 and its signature; the spec does not give the
layout (R410; log entry 20). -/
opaque Config.reportBytes : (items : List (List Byte)) → (signature : List Byte) → List Byte
/-- The identity of the running firmware image a bank holds, its security version (R409; log entry 10). -/
opaque Config.bankVersion : List Byte → BitVec 8
/-- Whether the n-th read of a copy, of a byte the same copy has written earlier in visit order, returns the new
value (R232; log entry 8). -/
opaque Config.freeBit : Nat → Bool
/-- The n-th value the spec leaves open and gives no other source for (log entry 3). -/
opaque Config.freeWord : Nat → BitVec 64
/-- Whether the bytes of input a (0) or b (1) of an `idot4` that no header has typed are signed (R87; log entry 16). -/
opaque Config.idotSigned : (input : Nat) → Bool
/-- What a Read command of a store port returns: the byte at an offset of a namespace after n writes (R406; log
entry 15). -/
opaque Config.flashByte : (port : Nat) → (nsid : Nat) → (offset : Nat) → Byte
/-- The cause in the n-th answer of another package, 0 where the request performed there (R432 to R434; log entry 21). -/
opaque Config.farCause : Nat → BitVec 8
/-- Byte i of the n-th array state that scan-out writes to a save slot, in the device's own arrangement (R373; log entry 9). -/
opaque Config.scanByte : (n : Nat) → (i : Nat) → Byte
/-- What a scanned item reads back as from 64 bytes that have been altered in the save slot, a slot's kind in the two highest bits
(R373; log entry 9). -/
opaque Config.scanWord : List Byte → BitVec 514
/-- The number of this package in its pod (R428; log entry 21). -/
opaque Config.package : BitVec 10
/-- The word in the n-th reply of another package (R433; log entry 21). -/
opaque Config.farWord : Nat → BitVec 512

end Sys2Proof
end

