-- ==== Sys2Proof/Syntax.lean ====
section
/-!
DEFINITION. The instruction set: one constructor for each row of the opcode table (R69, R70, R144 to R156, R328,
R441 and the steps of the agents). A slot word carries its header (R138) and its operand fields, highest bits first;
an element or router operation carries the physical tile and the element that fires; an event carries the numbers of
what it acts on and the value a writer supplies.
-/
namespace Sys2Proof

/-- The fields every slot word has beside its opcode: `Y`, the predicate register and its sense (R138). -/
structure Hdr where
  y : BitVec 1
  pq : BitVec 3
  ps : BitVec 1
  deriving DecidableEq, Repr

/-- The header of an unpredicated word with `Y` clear. -/
def Hdr.plain : Hdr := ⟨0, 0, 0⟩

/-- One constructor for each row of the opcode table, in the table's order, but that rows without fields and steps that come
from outside stand last. -/
inductive Instr where
  /-- SCOREBOARD_REPLY (R116). The reply of an ldg, ldgn or atomic arrives and writes its destination, releasing a stalled dispatch. -/
  | scoreboardReply (i : Nat)
  /-- FIREBREAK_FORWARD (R34). Once firebreaks stand at every used input, a node consumes them, sends one on each output and freezes. -/
  | firebreakForward (t : Nat) (n : Nat)
  /-- CONTEXT_SAVE (R269). Once the region is drained and engine accesses have settled, the tile context is written to grove shadow storage. -/
  | contextSave (t : Nat)
  /-- HEADER_FIRING (R32). An element fires on header words, reconfigures its decoders and sends one header on each non-carry destination. -/
  | headerFiring (t : Nat) (n : Nat)
  /-- STEER (R23). The steer operator sends the data head to output T or F by the control token. -/
  | opSteer (t : Nat) (n : Nat)
  /-- MERGE (R23). The merge operator takes the head of the input that the control token names and sends it. -/
  | opMerge (t : Nat) (n : Nat)
  /-- CARRY (R23). The carry operator sends the initial input in phase idle and loops its L input while tokens are 1. -/
  | opCarry (t : Nat) (n : Nat)
  /-- REPEAT (R23). The repeat operator sends a copy of its held word for each token and releases it on token 0. -/
  | opRepeat (t : Nat) (n : Nat)
  /-- SINK (R23). The sink operator consumes and discards the head of its input whatever its kind. -/
  | opSink (t : Nat) (n : Nat)
  /-- GATE (R23). The gate operator sends the data head on token 1 and discards it on token 0. -/
  | opGate (t : Nat) (n : Nat)
  /-- PASS (R85). Element data firing that passes input a formed by class V. -/
  | elPass (t : Nat) (n : Nat)
  /-- IADD (R86). Element integer add of a and b, wrapping or saturating by the saturate bit. -/
  | iadd (t : Nat) (n : Nat)
  /-- ISUB (R86). Element integer subtract a minus b. -/
  | isub (t : Nat) (n : Nat)
  /-- IADDS (R86). Element saturating integer add. -/
  | iadds (t : Nat) (n : Nat)
  /-- ISUBS (R86). Element saturating integer subtract. -/
  | isubs (t : Nat) (n : Nat)
  /-- IMUL (R86). Element integer multiply. -/
  | imul (t : Nat) (n : Nat)
  /-- IMULH (R86). Element integer multiply returning the high w bits. -/
  | imulh (t : Nat) (n : Nat)
  /-- IMAC (R86). Element integer multiply-accumulate a times b plus c. -/
  | imac (t : Nat) (n : Nat)
  /-- IDOT4 (R87). Element four-byte dot product added to accumulator c in each i32 lane. -/
  | idot4 (t : Nat) (n : Nat)
  /-- IMIN (R86). Element integer minimum. -/
  | imin (t : Nat) (n : Nat)
  /-- IMAX (R86). Element integer maximum. -/
  | imax (t : Nat) (n : Nat)
  /-- IABS (R86). Element integer absolute value. -/
  | iabs (t : Nat) (n : Nat)
  /-- INEG (R86). Element integer negation. -/
  | ineg (t : Nat) (n : Nat)
  /-- ICLIP (R86). Element integer clip of a to the range b to c. -/
  | iclip (t : Nat) (n : Nat)
  /-- ISHL (R86). Element shift left, or saturating shift when saturate is set. -/
  | ishl (t : Nat) (n : Nat)
  /-- ISHR (R86). Element logical shift right. -/
  | ishr (t : Nat) (n : Nat)
  /-- ISRA (R86). Element arithmetic shift right. -/
  | isra (t : Nat) (n : Nat)
  /-- IAND (R86). Element bitwise and. -/
  | iand (t : Nat) (n : Nat)
  /-- IOR (R86). Element bitwise or. -/
  | ior (t : Nat) (n : Nat)
  /-- IXOR (R86). Element bitwise exclusive-or. -/
  | ixor (t : Nat) (n : Nat)
  /-- INOT (R86). Element bitwise complement. -/
  | inot (t : Nat) (n : Nat)
  /-- ICMP (R88). Element integer compare producing a lane mask. -/
  | icmp (t : Nat) (n : Nat)
  /-- ISCALE (R89). Element fixed-point rescale of a times b by 2 to the minus (16 + mod), rounded in mode rnd. -/
  | iscale (t : Nat) (n : Nat)
  /-- FADD (R90). Element floating add with one rounding. -/
  | fadd (t : Nat) (n : Nat)
  /-- FSUB (R90). Element floating subtract. -/
  | fsub (t : Nat) (n : Nat)
  /-- FMUL (R90). Element floating multiply. -/
  | fmul (t : Nat) (n : Nat)
  /-- FMA (R90). Element fused multiply-add with one rounding. -/
  | fma (t : Nat) (n : Nat)
  /-- FNMA (R90). Element fused negated multiply-add c minus a times b. -/
  | fnma (t : Nat) (n : Nat)
  /-- FMIN (R90). Element floating minimum. -/
  | fmin (t : Nat) (n : Nat)
  /-- FMAX (R90). Element floating maximum. -/
  | fmax (t : Nat) (n : Nat)
  /-- FABS (R90). Element floating absolute value. -/
  | fabs (t : Nat) (n : Nat)
  /-- FNEG (R90). Element floating negation. -/
  | fneg (t : Nat) (n : Nat)
  /-- FCMP (R88). Element floating compare producing a lane mask. -/
  | fcmp (t : Nat) (n : Nat)
  /-- FRCP (R101). Element reciprocal by table and polynomial. -/
  | frcp (t : Nat) (n : Nat)
  /-- FRSQ (R102). Element reciprocal square root by table and polynomial. -/
  | frsq (t : Nat) (n : Nat)
  /-- FEXP2 (R103). Element base-2 exponential by table and polynomial. -/
  | fexp2 (t : Nat) (n : Nat)
  /-- FLOG2 (R104). Element base-2 logarithm by table and polynomial. -/
  | flog2 (t : Nat) (n : Nat)
  /-- FTANH (R105). Element hyperbolic tangent composed from fexp2 and frcp. -/
  | ftanh (t : Nat) (n : Nat)
  /-- FSIG (R105). Element logistic sigmoid composed from fexp2 and frcp. -/
  | fsig (t : Nat) (n : Nat)
  /-- FSILU (R105). Element SiLU, x times fsig(x). -/
  | fsilu (t : Nat) (n : Nat)
  /-- FADD_C2 (R92). Element compensated-pair add writing a normalised hi and lo pair. -/
  | faddC2 (t : Nat) (n : Nat)
  /-- FMA_C2 (R92). Element compensated-pair fused multiply-add writing a normalised hi and lo pair. -/
  | fmaC2 (t : Nat) (n : Nat)
  /-- CVT (R93). Element conversion of one part of a to the configured type. -/
  | cvt (t : Nat) (n : Nat)
  /-- CVT_SC (R93). Element conversion with an immediate power-of-two scale. -/
  | cvtSc (t : Nat) (n : Nat)
  /-- QRND (R94). Element rounding to the grid of a narrower floating format, kept in the wider type. -/
  | qrnd (t : Nat) (n : Nat)
  /-- ELEMENT_SEL (R95). Element per-lane select of b or c by the nonzero pattern of a. -/
  | elementSel (t : Nat) (n : Nat)
  /-- LPERM (R95). Element lane permutation by index, rotation, reversal or xor. -/
  | lperm (t : Nat) (n : Nat)
  /-- LBCAST (R95). Element broadcast of one lane to all lanes. -/
  | lbcast (t : Nat) (n : Nat)
  /-- LRED (R96). Element reduction across the lanes of one word. -/
  | lred (t : Nat) (n : Nat)
  /-- LSCAN (R96). Element prefix scan across the lanes of one word. -/
  | lscan (t : Nat) (n : Nat)
  /-- RACC (R97). Element running accumulation across firings in its S5 registers. -/
  | racc (t : Nat) (n : Nat)
  /-- CNT (R97). Element running count of nonzero lanes across firings. -/
  | elCnt (t : Nat) (n : Nat)
  /-- CMASK (R98). Element lane mask built from the lane-0 bounds and offset. -/
  | cmask (t : Nat) (n : Nat)
  /-- TAGCK (R99). Element tag check that compares header tags with the expected sequence and raises 0x18 on a mismatch. -/
  | tagck (t : Nat) (n : Nat)
  /-- TAGSET (R99). Element that rewrites outgoing header tags to the expected sequence. -/
  | tagset (t : Nat) (n : Nat)
  /-- EXT (R141). Prefixes the same slot of the next bundle with a 24-bit payload that lengthens its immediate. -/
  | ext (x : BitVec 24)
  /-- ADD (R163). Scalar add. -/
  | add (h : Hdr) (d : BitVec 6) (a : BitVec 6) (b : BitVec 6)
  /-- SUB (R163). Scalar subtract. -/
  | sub (h : Hdr) (d : BitVec 6) (a : BitVec 6) (b : BitVec 6)
  /-- ADDI (R163). Scalar add of a signed immediate. -/
  | addi (h : Hdr) (d : BitVec 6) (a : BitVec 6) (i : BitVec 8)
  /-- MUL (R163). Low 64 bits of a product, with latency 3. -/
  | mul (h : Hdr) (d : BitVec 6) (a : BitVec 6) (b : BitVec 6)
  /-- MULH (R163). High 64 bits of a signed product. -/
  | mulh (h : Hdr) (d : BitVec 6) (a : BitVec 6) (b : BitVec 6)
  /-- MULHN (R163). High 64 bits of an unsigned product. -/
  | mulhn (h : Hdr) (d : BitVec 6) (a : BitVec 6) (b : BitVec 6)
  /-- AND (R163). Bitwise and. -/
  | and (h : Hdr) (d : BitVec 6) (a : BitVec 6) (b : BitVec 6)
  /-- OR (R163). Bitwise or. -/
  | or (h : Hdr) (d : BitVec 6) (a : BitVec 6) (b : BitVec 6)
  /-- XOR (R163). Bitwise exclusive-or. -/
  | xor (h : Hdr) (d : BitVec 6) (a : BitVec 6) (b : BitVec 6)
  /-- ANDN (R163). a and not b. -/
  | andn (h : Hdr) (d : BitVec 6) (a : BitVec 6) (b : BitVec 6)
  /-- SHL (R163). Shift left by register. -/
  | shl (h : Hdr) (d : BitVec 6) (a : BitVec 6) (b : BitVec 6)
  /-- SHR (R163). Logical shift right by register. -/
  | shr (h : Hdr) (d : BitVec 6) (a : BitVec 6) (b : BitVec 6)
  /-- SRA (R163). Arithmetic shift right by register. -/
  | sra (h : Hdr) (d : BitVec 6) (a : BitVec 6) (b : BitVec 6)
  /-- SHLI (R163). Shift left by immediate. -/
  | shli (h : Hdr) (d : BitVec 6) (a : BitVec 6) (i : BitVec 6)
  /-- SHRI (R163). Logical shift right by immediate. -/
  | shri (h : Hdr) (d : BitVec 6) (a : BitVec 6) (i : BitVec 6)
  /-- SRAI (R163). Arithmetic shift right by immediate. -/
  | srai (h : Hdr) (d : BitVec 6) (a : BitVec 6) (i : BitVec 6)
  /-- MIN (R163). Signed minimum. -/
  | min (h : Hdr) (d : BitVec 6) (a : BitVec 6) (b : BitVec 6)
  /-- MAX (R163). Signed maximum. -/
  | max (h : Hdr) (d : BitVec 6) (a : BitVec 6) (b : BitVec 6)
  /-- MINN (R163). Unsigned minimum. -/
  | minn (h : Hdr) (d : BitVec 6) (a : BitVec 6) (b : BitVec 6)
  /-- MAXN (R163). Unsigned maximum. -/
  | maxn (h : Hdr) (d : BitVec 6) (a : BitVec 6) (b : BitVec 6)
  /-- CLZ (R163). Count of leading zero bits. -/
  | clz (h : Hdr) (d : BitVec 6) (a : BitVec 6)
  /-- POPC (R163). Count of one bits. -/
  | popc (h : Hdr) (d : BitVec 6) (a : BitVec 6)
  /-- SEXT (R163). Sign-extends the low 8, 16 or 32 bits. -/
  | sext (h : Hdr) (d : BitVec 6) (a : BitVec 6) (i : BitVec 2)
  /-- ZEXT (R163). Zero-extends the low 8, 16 or 32 bits. -/
  | zext (h : Hdr) (d : BitVec 6) (a : BitVec 6) (i : BitVec 2)
  /-- LI (R163). Loads a sign-extended immediate. -/
  | li (h : Hdr) (d : BitVec 6) (i : BitVec 8)
  /-- MOV (R163). Register copy. -/
  | mov (h : Hdr) (d : BitVec 6) (a : BitVec 6)
  /-- CMP (R164). Writes a predicate with the comparison of two registers. -/
  | cmp (h : Hdr) (t : BitVec 3) (k : BitVec 2) (a : BitVec 6) (b : BitVec 6)
  /-- CMPI (R164). Writes a predicate with the comparison of a register and a signed immediate. -/
  | cmpi (h : Hdr) (t : BitVec 3) (k : BitVec 2) (a : BitVec 6) (i : BitVec 8)
  /-- SEL (R164). Selects a or b by a predicate. -/
  | sel (h : Hdr) (d : BitVec 6) (a : BitVec 6) (b : BitVec 5) (c : BitVec 3)
  /-- QOP (R164). Combines two predicates by and, or, xor or andn. -/
  | qop (h : Hdr) (t : BitVec 3) (u : BitVec 3) (v : BitVec 3) (o : BitVec 2)
  /-- LD (R166). TSP load, sign-extended, with latency 4. -/
  | ld (h : Hdr) (d : BitVec 6) (b : BitVec 4) (z : BitVec 2) (i : BitVec 8)
  /-- LDN (R166). TSP load, zero-extended. -/
  | ldn (h : Hdr) (d : BitVec 6) (b : BitVec 4) (z : BitVec 2) (i : BitVec 8)
  /-- ST (R166). TSP store. -/
  | st (h : Hdr) (r : BitVec 6) (b : BitVec 4) (z : BitVec 2) (i : BitVec 8)
  /-- LDG (R167). Scoreboarded GSP load, sign-extended, merged with the task log in a task. -/
  | ldg (h : Hdr) (d : BitVec 6) (b : BitVec 4) (z : BitVec 2) (i : BitVec 8)
  /-- LDGN (R167). Scoreboarded GSP load, zero-extended. -/
  | ldgn (h : Hdr) (d : BitVec 6) (b : BitVec 4) (z : BitVec 2) (i : BitVec 8)
  /-- STG (R168). GSP store, performed at once or buffered in the open task's log. -/
  | stg (h : Hdr) (r : BitVec 6) (b : BitVec 4) (z : BitVec 2) (i : BitVec 8)
  /-- AMO_ADD (R169). Indivisible GSP add, returning the old value. -/
  | amoAdd (h : Hdr) (d : BitVec 6) (b : BitVec 4) (z : BitVec 1) (c : BitVec 6)
  /-- AMO_MIN (R169). Indivisible GSP signed minimum. -/
  | amoMin (h : Hdr) (d : BitVec 6) (b : BitVec 4) (z : BitVec 1) (c : BitVec 6)
  /-- AMO_MAX (R169). Indivisible GSP signed maximum. -/
  | amoMax (h : Hdr) (d : BitVec 6) (b : BitVec 4) (z : BitVec 1) (c : BitVec 6)
  /-- AMO_AND (R169). Indivisible GSP and. -/
  | amoAnd (h : Hdr) (d : BitVec 6) (b : BitVec 4) (z : BitVec 1) (c : BitVec 6)
  /-- AMO_OR (R169). Indivisible GSP or. -/
  | amoOr (h : Hdr) (d : BitVec 6) (b : BitVec 4) (z : BitVec 1) (c : BitVec 6)
  /-- AMO_XOR (R169). Indivisible GSP exclusive-or. -/
  | amoXor (h : Hdr) (d : BitVec 6) (b : BitVec 4) (z : BitVec 1) (c : BitVec 6)
  /-- AMO_SWAP (R169). Indivisible GSP swap. -/
  | amoSwap (h : Hdr) (d : BitVec 6) (b : BitVec 4) (z : BitVec 1) (c : BitVec 6)
  /-- AMO_CAS (R169). Indivisible GSP compare-and-swap against d read at dispatch. -/
  | amoCas (h : Hdr) (d : BitVec 6) (b : BitVec 4) (z : BitVec 1) (c : BitVec 6)
  /-- BR (R170). Branch by a signed bundle offset. -/
  | br (h : Hdr) (i : BitVec 20)
  /-- JMP (R170). Jump to the bundle in a register. -/
  | jmp (h : Hdr) (a : BitVec 6)
  /-- CALL (R170). Branch by offset, linking to s30. -/
  | call (h : Hdr) (i : BitVec 20)
  /-- CALLR (R170). Jump to a register target, linking to s30. -/
  | callr (h : Hdr) (a : BitVec 6)
  /-- RET (R170). Return to the bundle in a register. -/
  | ret (h : Hdr) (a : BitVec 6)
  /-- TRAP (R171). Raises software trap 0x0E after the bundle's other words. -/
  | trap (h : Hdr) (i : BitVec 8)
  /-- BRK (R171). Raises break 0x0D after the bundle's other words. -/
  | brk (h : Hdr) (i : BitVec 8)
  /-- LOOP (R172). Pushes a loop level with its count taken from a register. -/
  | loop (h : Hdr) (l : BitVec 11) (c : BitVec 6)
  /-- LOOPI (R172). Pushes a loop level with an immediate count. -/
  | loopi (h : Hdr) (l : BitVec 11) (i : BitVec 8)
  /-- LEXIT (R174). Pops the innermost loop level. -/
  | lexit (h : Hdr)
  /-- LNEXT (R174). Ends the current iteration of the innermost loop. -/
  | lnext (h : Hdr)
  /-- AADD (R175). 72-bit address add. -/
  | aadd (h : Hdr) (d : BitVec 4) (a : BitVec 6) (b : BitVec 6)
  /-- AADDI (R175). 72-bit address add of a signed immediate. -/
  | aaddi (h : Hdr) (d : BitVec 4) (a : BitVec 6) (i : BitVec 8)
  /-- AMOV (R175). Address register copy. -/
  | amov (h : Hdr) (d : BitVec 4) (a : BitVec 4)
  /-- ASET (R175). Sets an address register from a scalar, zero-extended. -/
  | aset (h : Hdr) (d : BitVec 4) (a : BitVec 6)
  /-- AGET (R175). Reads bits 63-0 of an address register into a scalar. -/
  | aget (h : Hdr) (d : BitVec 5) (a : BitVec 4)
  /-- AHI (R175). Replaces bits 71-64 of an address. -/
  | ahi (h : Hdr) (d : BitVec 4) (a : BitVec 4) (i : BitVec 8)
  /-- GEO_LD (R176). Loads a 512-bit geometry record from the TSP. -/
  | geoLd (h : Hdr) (g : BitVec 4) (b : BitVec 4) (i : BitVec 8)
  /-- GEO_ST (R176). Stores a geometry record to the TSP. -/
  | geoSt (h : Hdr) (g : BitVec 4) (b : BitVec 4) (i : BitVec 8)
  /-- GEO_BASE (R176). Replaces a geometry's base field with an address register. -/
  | geoBase (h : Hdr) (g : BitVec 4) (b : BitVec 4)
  /-- GEO_ADV (R176). Advances a geometry's base by a stride times a scalar. -/
  | geoAdv (h : Hdr) (g : BitVec 4) (k : BitVec 2) (b : BitVec 6)
  /-- SL_AFF_PORT (R209). Streams a geometry into an input port as packets. -/
  | slAffPort (h : Hdr) (st : BitVec 6) (g : BitVec 4) (n : BitVec 4)
  /-- SL_AFF_COPY (R209). Copies a source geometry to a target geometry element by element. -/
  | slAffCopy (h : Hdr) (st : BitVec 6) (g : BitVec 4) (t : BitVec 4)
  /-- SS_AFF_PORT (R209). Drains an output port into a target geometry. -/
  | ssAffPort (h : Hdr) (st : BitVec 6) (g : BitVec 4) (n : BitVec 4)
  /-- SS_AFF_COPY (R209). Copy form with the target geometry in bits 13-10. -/
  | ssAffCopy (h : Hdr) (st : BitVec 6) (g : BitVec 4) (t : BitVec 4)
  /-- SL_IND_PORT (R210). Gathers rows by an index stream into an input port. -/
  | slIndPort (h : Hdr) (st : BitVec 6) (g : BitVec 4) (n : BitVec 4) (x : BitVec 4)
  /-- SL_IND_COPY (R210). Gathers indexed rows into a target geometry. -/
  | slIndCopy (h : Hdr) (st : BitVec 6) (g : BitVec 4) (t : BitVec 4) (x : BitVec 4)
  /-- SS_IND_PORT (R210). Scatters rows drained from an output port by an index stream. -/
  | ssIndPort (h : Hdr) (st : BitVec 6) (g : BitVec 4) (n : BitVec 4) (x : BitVec 4)
  /-- SS_IND_COPY (R210). Scatters rows from a source geometry by an index stream. -/
  | ssIndCopy (h : Hdr) (st : BitVec 6) (g : BitVec 4) (t : BitVec 4) (x : BitVec 4)
  /-- S_REC (R211). Recirculates every word of an output port into an input port until killed. -/
  | sRec (h : Hdr) (st : BitVec 6) (m : BitVec 4) (n : BitVec 4)
  /-- S_CONST (R212). Sends one read word repeatedly into an input port. -/
  | sConst (h : Hdr) (st : BitVec 6) (g : BitVec 4) (n : BitVec 4)
  /-- S_DROP (R213). Discards data words from an output port. -/
  | sDrop (h : Hdr) (st : BitVec 6) (g : BitVec 4) (n : BitVec 4)
  /-- S_MC_PORT (R214). Multicasts a source geometry into an input port of every group member. -/
  | sMcPort (h : Hdr) (st : BitVec 6) (g : BitVec 4) (n : BitVec 4)
  /-- S_MC_GEO (R214). Multicasts a source geometry into each member's TSP or weight buffer. -/
  | sMcGeo (h : Hdr) (st : BitVec 6) (g : BitVec 4) (t : BitVec 4)
  /-- S_CHW (R217). Drains an output port into a channel, setting presence. -/
  | sChw (h : Hdr) (st : BitVec 6) (g : BitVec 4) (n : BitVec 4)
  /-- S_CHR (R217). Feeds an input port from a channel, waiting on absent words. -/
  | sChr (h : Hdr) (st : BitVec 6) (g : BitVec 4) (n : BitVec 4)
  /-- S_BAR (R219). Orders stream writes to a region before later stream reads of it. -/
  | sBar (h : Hdr) (st : BitVec 6) (g : BitVec 4)
  /-- S_WB (R220). Loads the weight buffer with a descriptor and source words. -/
  | sWb (h : Hdr) (st : BitVec 6) (g : BitVec 4)
  /-- S_KILL (R221). Stops the command on one handle before its next access. -/
  | sKill (h : Hdr) (st : BitVec 6)
  /-- S_KILL_ALL (R221). Stops every busy handle of the tile. -/
  | sKillAll (h : Hdr)
  /-- S_TOK (R218). After earlier commands complete, writes a token word to a channel. -/
  | sTok (h : Hdr) (st : BitVec 6) (g : BitVec 4)
  /-- S_RES_OUT (R222). Exports a residue register as 17 words. -/
  | sResOut (h : Hdr) (st : BitVec 6) (g : BitVec 4) (r : BitVec 4)
  /-- S_RES_IN (R222). Imports a residue register from 17 words. -/
  | sResIn (h : Hdr) (st : BitVec 6) (g : BitVec 4) (r : BitVec 4)
  /-- STREAM_WORD_DELIVER (R202). A running command reads its next elements and places a header, data or firebreak word into a port when room and a bucket token allow. -/
  | streamWordDeliver (t : Nat) (h : Nat)
  /-- STREAM_WORD_DRAIN (R205). A running command takes the next word of an output port and writes its elements, encoded, to memory. -/
  | streamWordDrain (t : Nat) (h : Nat)
  /-- STREAM_COMPLETION (R196). A command completes, freeing its handle, making one barrier arrival and setting uipend if requested. -/
  | streamCompletion (t : Nat) (h : Nat)
  /-- MULTICAST_DETACH (R215). A member lagging at mclag for replylimit cycles is detached and faulted with 0x17. -/
  | multicastDetach (t : Nat) (h : Nat) (m : Nat)
  /-- TRANSFER_WORD_ARRIVAL (R179). A word sent between tiles is written to the matching receive slot, or added by recvadd, or waits in the landing queue. -/
  | transferWordArrival (t : Nat)
  /-- MSET (R239). Writes a shadow matrix parameter register from a register. -/
  | mset (h : Hdr) (m : BitVec 3) (a : BitVec 6)
  /-- MSETI (R239). Writes a shadow matrix parameter register from an immediate. -/
  | mseti (h : Hdr) (m : BitVec 3) (i : BitVec 8)
  /-- MCALL (R240). Copies shadow parameters to the active set and starts a matrix routine. -/
  | mcall (h : Hdr) (r : BitVec 6) (b : BitVec 11)
  /-- MGANG (R330). Opens or joins a gang instance on a group and starts the routine on this member. -/
  | mgang (h : Hdr) (r : BitVec 6) (a : BitVec 6)
  /-- MACC (R241). Queues a token to read a physical accumulator bank into a target geometry. -/
  | macc (h : Hdr) (k : BitVec 1) (g : BitVec 4) (b : BitVec 11)
  /-- MACC_BANK_READ (R241). Once earlier micro-ops on the bank are applied, the bank is read and written out, ending in one arrival. -/
  | maccBankRead (t : Nat)
  /-- MUP (R242). Copies words into the microprogram store. -/
  | mup (h : Hdr) (g : BitVec 4) (w : BitVec 10)
  /-- MUP_COMPLETION (R242). A microprogram load completes with one arrival at its geometry's barrier. -/
  | mupCompletion (t : Nat)
  /-- MTAB (R243). Writes a routine table entry. -/
  | mtab (h : Hdr) (r : BitVec 6) (a : BitVec 6)
  /-- MSTAT (R245). Late-writer read of the matrix status or last fault report. -/
  | mstat (h : Hdr) (d : BitVec 6) (e : BitVec 1)
  /-- MABORT (R246). Stops the running routine before its next micro-op with cause 0x1C. -/
  | mabort (h : Hdr)
  /-- MEPI (R244). Loads and checks the epilogue store. -/
  | mepi (h : Hdr) (g : BitVec 4)
  /-- MEPI_COMPLETION (R244). An epilogue load completes with status 0 or 0x14. -/
  | mepiCompletion (t : Nat)
  /-- MU_PARAM (R249). Copies a parameter register to the shape register and marks the panels absent. -/
  | muParam (m : BitVec 3)
  /-- MU_LDA (R250). Loads the A panel from the TSP, with optional reset-mask row replacement. -/
  | muLda (a : BitVec 3) (n : BitVec 1) (m : BitVec 3) (k : BitVec 1) (i : BitVec 16)
  /-- MU_LDB (R251). Loads the B panel from the weight buffer. -/
  | muLdb (b : BitVec 3)
  /-- MU_MAC (R252). Takes one K-step on a bank by step_sum. -/
  | muMac (k : BitVec 1)
  /-- MU_ZERO (R248). Sets every cell of a bank to +0. -/
  | muZero (k : BitVec 1)
  /-- MU_DRAIN (R255). Writes a bank's cells to the TSP, optionally through the epilogue and with clearing. -/
  | muDrain (k : BitVec 1) (t : BitVec 3) (e : BitVec 1) (d : BitVec 1) (m : BitVec 3) (c : BitVec 1) (x : BitVec 1) (u : BitVec 3)
  /-- MU_LOOP (R253). Pushes a micro loop level. -/
  | muLoop (r : BitVec 1) (m : BitVec 3) (i : BitVec 16)
  /-- MU_SIG (R254). Makes one arrival at a tile barrier. -/
  | muSig (b : BitVec 11)
  /-- MU_WAIT (R254). Waits for a barrier's phase to change. -/
  | muWait (b : BitVec 11)
  /-- GANG_COMPLETE (R333). When all members joined and reached mu.end, staged drains are written and every member's barrier gets an arrival. -/
  | gangComplete (d : Nat) (g : Nat)
  /-- GANG_LATE (R335). The lateness window expires before all members join and the instance aborts with 0x1B. -/
  | gangLate (d : Nat) (g : Nat)
  /-- SEND (R177). Sends TSP words to a peer tile of the grove. -/
  | send (h : Hdr) (e : BitVec 4) (a : BitVec 4) (t : BitVec 4) (c : BitVec 8)
  /-- RECV (R178). Receives words from a peer tile into the TSP. -/
  | recv (h : Hdr) (e : BitVec 4) (a : BitVec 4) (t : BitVec 4) (c : BitVec 8)
  /-- RECVADD (R179). Receives words and adds them as f32 lanes to the TSP. -/
  | recvadd (h : Hdr) (e : BitVec 4) (a : BitVec 4) (t : BitVec 4) (c : BitVec 8)
  /-- SENDG (R180). Sends words to every member of a group. -/
  | sendg (h : Hdr) (g : BitVec 8) (a : BitVec 4) (c : BitVec 8)
  /-- CNT_SET (R441). Sets an arrival counter. -/
  | cntSet (h : Hdr) (c : BitVec 6) (a : BitVec 6)
  /-- CNT_ADD (R441). Adds to an arrival counter. -/
  | cntAdd (h : Hdr) (c : BitVec 6) (i : BitVec 8)
  /-- CNT_WAIT (R441). Holds the N queue until a counter reaches a value. -/
  | cntWait (h : Hdr) (c : BitVec 6) (i : BitVec 8)
  /-- CNT_RD (R441). Late-writer read of an arrival counter. -/
  | cntRd (h : Hdr) (d : BitVec 6) (c : BitVec 6)
  /-- CNT_WAIT_TIMEOUT (R443). A cnt.wait whose counter is unchanged for replylimit cycles raises 0x12. -/
  | cntWaitTimeout (t : Nat)
  /-- BAR_INIT (R182). Sets a barrier's expected count. -/
  | barInit (h : Hdr) (b : BitVec 11) (i : BitVec 8)
  /-- BAR_ARR (R182). Makes one arrival at a barrier. -/
  | barArr (h : Hdr) (b : BitVec 11)
  /-- BAR_WAIT (R182). Waits until a barrier's phase changes. -/
  | barWait (h : Hdr) (b : BitVec 11)
  /-- BAR_AW (R182). Arrives at a barrier and waits for the phase to change. -/
  | barAw (h : Hdr) (b : BitVec 11)
  /-- OWN (R184). Flips pane owner bits once the ordering conditions hold. -/
  | own (h : Hdr) (f : BitVec 8) (o : BitVec 1) (c : BitVec 8)
  /-- FENCE (R185). Holds dispatch until the tile's earlier accesses have performed at the scope. -/
  | fence (h : Hdr) (e : BitVec 3)
  /-- SWAIT (R186). Waits for a handle to complete and reports any fault record. -/
  | swait (h : Hdr) (st : BitVec 6)
  /-- CTL_RD (R187). Late-writer read of a control register. -/
  | ctlRd (h : Hdr) (d : BitVec 6) (i : BitVec 12)
  /-- CTL_WR (R187). Writes a control register under its access rules. -/
  | ctlWr (h : Hdr) (a : BitVec 6) (i : BitVec 12)
  /-- UIRET (R131). Returns from the user handler, restoring the bank and replaying the landing buffer. -/
  | uiret (h : Hdr)
  /-- TRET (R188). Returns from a trap handler to trappc. -/
  | tret (h : Hdr)
  /-- HALT (R189). Waits for all work to finish, then stops fetching and reports the kernel end. -/
  | halt (h : Hdr)
  /-- YIELD (R190). Landing point where a pending pre-emption lands with a full save. -/
  | yield (h : Hdr)
  /-- CKPT (R190). Landing point where a pending pre-emption saves the live registers of an entry. -/
  | ckpt (h : Hdr) (c : BitVec 8)
  /-- KILLPT (R190). Landing point where a pending quorum kill ends the task. -/
  | killpt (h : Hdr)
  /-- CFG_LOAD (R191). Starts a background load and check of a configuration image into a resident slot. -/
  | cfgLoad (h : Hdr) (l : BitVec 2) (g : BitVec 4) (b : BitVec 11)
  /-- CFG_LOAD_COMPLETION (R78). A configuration load ends, arming the slot or reporting the failed check. -/
  | cfgLoadCompletion (t : Nat) (c : Nat)
  /-- CFG_RUN (R192). Snapshots the task record, opens a task and activates a configuration. -/
  | cfgRun (h : Hdr) (l : BitVec 2) (a : BitVec 6) (g : BitVec 8)
  /-- TSK_END (R134). Requests commit once the task's work has drained and holds dispatch for the outcome. -/
  | tskEnd (h : Hdr)
  /-- CFG_DEC (R352). Sets a pending configuration decision on masked tiles. -/
  | cfgDec (h : Hdr) (a : BitVec 6) (x : BitVec 2) (v : BitVec 2)
  /-- TSK_ABORT (R347). Aborts the open task of each masked tile with status aborted-software. -/
  | tskAbort (h : Hdr) (a : BitVec 6)
  /-- Q_OPEN (R339). Arms a quorum join from a descriptor. -/
  | qOpen (h : Hdr) (j : BitVec 6) (a : BitVec 4)
  /-- Q_WAIT (R344). Waits for a join's release and fill and returns the arrival mask. -/
  | qWait (h : Hdr) (d : BitVec 6) (j : BitVec 6)
  /-- Q_CLOSE (R345). Releases an open join or frees a released one. -/
  | qClose (h : Hdr) (j : BitVec 6)
  /-- GRP_RD (R354). Late-writer summary of a group-table entry. -/
  | grpRd (h : Hdr) (d : BitVec 6) (g : BitVec 8)
  /-- GRP_LD (R353). Checks and atomically installs a group-table image. -/
  | grpLd (h : Hdr) (a : BitVec 4)
  /-- TK_START (R349). Starts kernels on masked tiles from a kernel record. -/
  | tkStart (h : Hdr) (a : BitVec 6) (m : BitVec 4)
  /-- TK_STOP (R350). Stops masked tiles' kernels and leaves them idle. -/
  | tkStop (h : Hdr) (a : BitVec 6)
  /-- TK_STAT (R351). Late-writer read of a tile's state. -/
  | tkStat (h : Hdr) (d : BitVec 6) (l : BitVec 4)
  /-- RG_RESUME (R355). Scans a frozen region's state back and restarts its clock. -/
  | rgResume (h : Hdr) (a : BitVec 6)
  /-- CH_ALLOC (R356). Allocates a channel and clears its presence bits. -/
  | chAlloc (h : Hdr) (a : BitVec 6) (c : BitVec 8)
  /-- CH_FREE (R357). Invalidates a channel, ending waiting reads with 0x14. -/
  | chFree (h : Hdr) (c : BitVec 8)
  /-- COMMIT_POINT (R318). The commit sequencer gives a ready task its commit point, making its log visible atomically. -/
  | commitPoint (d : Nat)
  /-- QUORUM_FILL (R342). After release the fill rule is applied to the target as one visibility event. -/
  | quorumFill (d : Nat) (j : Nat)
  /-- QUORUM_TIMEOUT (R343). A join not released within its timeout releases with fewer arrivals. -/
  | quorumTimeout (d : Nat) (j : Nat)
  /-- QUORUM_KILL_LANDING (R341). A straggler task is killed at its next kill point and its log retracted. -/
  | quorumKillLanding (t : Nat)
  /-- LOG_WRITEBACK (R375). After a commit point the log is written back to its home nodes and remote writes transmitted. -/
  | logWriteback (t : Nat)
  /-- REMOTE_WRITEBACK_TIMEOUT (R318). An unacknowledged remote write-back faults the partition after replylimit. -/
  | remoteWritebackTimeout (t : Nat)
  /-- PAGE_WALK (R366). An L1 and slice TLB miss starts a four-level page-table walk. -/
  | pageWalk (t : Nat) (h : Nat)
  /-- SCAN_OUT (R371). Once the stop is complete, array state is copied to save slots and kind-9 events are posted. -/
  | scanOut (d : Nat) (r : Nat)
  /-- STILLNESS_FAULT (R377). A region's still counter reaching stilllimit freezes it with 0x19. -/
  | stillnessFault (d : Nat) (r : Nat)
  /-- REPLY_TIMEOUT (R224). A peer or store-port request with no reply within replylimit stops its command with 0x12. -/
  | replyTimeout (t : Nat) (h : Nat)
  /-- SHOOTDOWN_DONE (R369). A shootdown finishes once affected accesses have performed and bit 63 clears. -/
  | shootdownDone (d : Nat)
  /-- MIGRATION_COMPLETE (R308). After the old tile lands, state is copied to the new tile, which resumes, and kind 11 is posted. -/
  | migrationComplete (g : Nat)
  /-- PARTITION_SAVE_DONE (R402). Once every grove has saved, the pre-empting launch is dispatched. -/
  | partitionSaveDone (i : Nat)
  /-- LAUNCH_RETIRE (R400). A launch retires when all its sequencers and tiles are done, and kind 1 is posted. -/
  | launchRetire (i : Nat)
  /-- LAUNCH_RESUME (R403). A saved launch's contexts are restored after the pre-empting launch retires. -/
  | launchResume (i : Nat)
  /-- ROUTE_FORWARD (R439). A routing entry passes a word to every destination of its current set. -/
  | routeForward (i : Nat) (n : Nat)
  /-- ROUTE_DELIVER (R439). A routing entry writes a data word at its address in the entry's ASID. -/
  | routeDeliver (i : Nat) (n : Nat)
  /-- ROUTE_REDUCE (R439). A routing entry feeds a word as a contribution to its collective context. -/
  | routeReduce (i : Nat) (n : Nat)
  /-- ROUTE_STEP (R439). When every source has given its marker, the entry sends a marker and advances its set. -/
  | routeStep (i : Nat) (n : Nat)
  /-- PEER_READ_SERVE (R433). A read request is served at the first delivering entry on its route and the reply returned. -/
  | peerReadServe (t : Nat) (h : Nat)
  /-- WRITE_RESPONSE (R434). A peer-edge write response arrives at the sending command carrying an error, a translation fault or a collective protection fault, pausing or stopping the command. -/
  | writeResponse (t : Nat) (h : Nat)
  /-- BUNDLE_DISPATCH (R111). The sequencer fetches and checks a bundle, reads every slot's registers, issues the scalar group and queues the non-scalar words. -/
  | bundleDispatch
  /-- TRAP_ENTRY (R261). A trap is taken between dispatches: the landing buffer is captured, the trap registers are written and the PC goes to tvec. -/
  | trapEntry
  /-- UI_ENTRY (R130). The sequencer enters the user handler when an unmasked uipend bit is set, swapping in the shadow bank. -/
  | uiEntry
  /-- PREEMPT_LANDING (R267). A pending pre-emption lands at an iteration boundary, ckpt or yield and starts the drain. -/
  | preemptLanding
  /-- FORCED_SAVE (R268). When pmax cycles pass without a landing, dispatch stops at the next permitted point and a full save is forced. -/
  | forcedSave
  /-- PARITY_ERROR_ABORT (R38). A detected parity or soft error aborts the open task, resets the region, reinstalls the preloads and re-runs from cfg.run. -/
  | parityErrorAbort (t : Nat)
  /-- NOP (R140). Does nothing. -/
  | nop
  /-- NOP_Y (R140). Does nothing and makes its bundle a realignment point. -/
  | nopY
  /-- CHANNEL_WORD_PRESENT (R293). A write makes an absent channel word present and releases reads waiting on it. -/
  | channelWordPresent (g : Nat) (w : Nat)
  /-- MU_NOP (R248). Micro-op that does nothing. -/
  | muNop
  /-- MU_SWAP (R248). Inverts the bank swap bit F. -/
  | muSwap
  /-- MU_ENDL (R253). Repeats or pops the micro loop. -/
  | muEndl
  /-- MU_END (R254). Completes the routine. -/
  | muEnd
  /-- DSHOOT_WRITE (R369). Starts a TLB shootdown of a page or an ASID. -/
  | dshootWrite (d : Nat) (v : BitVec 64)
  /-- DLOGBASE_WRITE (R368). Sets the task-log area base, ignored if the area would exceed HBM. -/
  | dlogbaseWrite (d : Nat) (v : BitVec 64)
  /-- DSAVEBASE_WRITE (R368). Sets the save area base, ignored if the area would exceed HBM. -/
  | dsavebaseWrite (d : Nat) (v : BitVec 64)
  /-- DSCRUB_WRITE (R368). Sets the HBM patrol period, storing 40 for an out-of-range value. -/
  | dscrubWrite (d : Nat) (v : BitVec 64)
  /-- HBM_PATROL_SCRUB (R382). The HBM patrol reads a unit, correcting or poisoning it. -/
  | hbmPatrolScrub (a : Nat) (e : Nat)
  /-- GSP_PATROL_SCRUB (R290). The GSP scrubber reads a word, correcting or poisoning it. -/
  | gspPatrolScrub (g : Nat) (a : Nat) (e : Nat)
  /-- HBM_ROW_REPAIR (R383). Firmware spares a failing row by post-package repair. -/
  | hbmRowRepair (k : Nat) (r : Nat)
  /-- HBM_CHANNEL_RETIRE (R383). Firmware moves a failing channel's blocks onto the reserve one block at a time. -/
  | hbmChannelRetire (k : Nat) (c : Nat)
  /-- EVENT_ENTRY (R298). The grove sequencer enters its event handler when events are queued. -/
  | eventEntry
  /-- EVPOP_WRITE (R297). Removes the head event from the grove event queue. -/
  | evpopWrite (g : Nat)
  /-- PLACE_WRITE (R288). Writes the retirement field and starts a migration, or is refused with 0x14. -/
  | placeWrite (g : Nat) (v : BitVec 64)
  /-- BKDEPTH_WRITE (R306). Sets the bucket capacity, storing 1 for 0 and lowering the level if needed. -/
  | bkdepthWrite (g : Nat) (v : BitVec 64)
  /-- POWER_CONTROL_INTERVAL (R405). Every 2^16 cycles package power is measured and bucket rates are scaled. -/
  | powerControlInterval (w : Nat)
  /-- COOLANT_FAULT (R405). A coolant fault imposes a 600 W cap until firmware clears it. -/
  | coolantFault
  /-- QTAIL_WRITE (R395). Advances a launch queue's tail, disabling the queue on overflow. -/
  | qtailWrite (p : Nat) (q : Nat) (v : BitVec 64)
  /-- QCFG_WRITE (R392). Writes a queue's enable, owner and size. -/
  | qcfgWrite (p : Nat) (q : Nat) (v : BitVec 64)
  /-- QBASE_WRITE (R392). Writes a queue's ring base, by its owner only. -/
  | qbaseWrite (p : Nat) (q : Nat) (v : BitVec 64)
  /-- SEM_READ (R390). Test-and-set of a host semaphore. -/
  | semRead (p : Nat) (i : Nat)
  /-- SEM_WRITE (R390). Frees a semaphore when written with 0 by its holder. -/
  | semWrite (p : Nat) (i : Nat) (v : BitVec 64)
  /-- PART_WRITE (R394). Takes a whole partition-table entry on its fourth word, or refuses it. -/
  | partWrite (p : Nat) (i : Nat) (w : Nat) (v : BitVec 64)
  /-- PWRCAP_WRITE (R389). Sets the package power cap, storing 2,400 for out-of-range values. -/
  | pwrcapWrite (p : Nat) (v : BitVec 64)
  /-- IMG_REGISTER (R408). Writing a staging slot's word 1 starts registration of a context image. -/
  | imgRegister (p : Nat) (i : Nat) (v : BitVec 64)
  /-- IMAGE_REGISTRATION_DONE (R408). Registration checks end, the slot becomes ready or failed, and kind 7 is posted. -/
  | imageRegistrationDone (i : Nat)
  /-- REGISTER_WRITE (R389). A write to a register without a row of its own, or its refusal posting kind 3. -/
  | registerWrite (p : Nat) (o : Nat) (v : BitVec 64)
  /-- FIRMWARE_UPDATE (R409). fwctl request 0x01 writes and verifies the inactive firmware bank. -/
  | firmwareUpdate (p : Nat) (v : BitVec 64)
  /-- FIRMWARE_BANK_SWITCH (R409). The management cores switch to the updated bank at a quiescent point. -/
  | firmwareBankSwitch
  /-- FUSE_RAISE (R409). fwctl request 0x02 raises the anti-rollback counter and sweeps the seedbank. -/
  | fuseRaise (p : Nat) (v : BitVec 64)
  /-- ATTESTATION (R410). fwctl request 0x03 produces a signed attestation report. -/
  | attestation (p : Nat) (v : BitVec 64)
  /-- CODE_LOAD (R415). fwctl request 0x04 checks, translates or looks up, grafts and installs a code object. -/
  | codeLoad (p : Nat) (v : BitVec 64)
  /-- GRAFT_TABLE_LOAD (R424). fwctl request 0x05 checks and installs a graft table. -/
  | graftTableLoad (p : Nat) (v : BitVec 64)
  /-- PRODUCER_KEY_WRITE (R412). fwctl request 0x06 writes or empties a producer key slot. -/
  | producerKeyWrite (p : Nat) (v : BitVec 64)
  /-- STORE_FLUSH (R406). A host request issues an NVMe Flush through a store port. -/
  | storeFlush (i : Nat) (n : Nat)
  /-- STORE_DEALLOCATE (R406). A host request issues a Dataset Management deallocate through a store port. -/
  | storeDeallocate (i : Nat) (n : Nat) (a : Nat) (l : Nat)
  /-- NAMESPACE_ENTRY_WRITE (R406). Firmware binds a namespace number to a port, NSID and block size. -/
  | namespaceEntryWrite (i : Nat) (n : Nat) (v : BitVec 64)
  /-- LAUNCH_DISPATCH (R399). The dispatcher chooses an eligible head record and starts it on its partition's groves. -/
  | launchDispatch
  /-- HOST_LINK_DOWN (R392). A host port's link goes down and kind 4 is posted to the other port. -/
  | hostLinkDown (p : Nat)
  /-- SEMAPHORE_FAILOVER (R392). 100 ms after a link goes down its semaphores are freed and kind 5 is posted. -/
  | semaphoreFailover (p : Nat)
  /-- DEVICE_RESET (R410). Reset runs the ROM check, training and die set-up and opens the host window. -/
  | deviceReset
  /-- UNSUPPORTED_REQUEST (R427). A received UALink request of an unsupported type is answered and counted. -/
  | unsupportedRequest (i : Nat)
  /-- LANE_SPARE (R429). A failing lane is replaced by the spare lane at retraining. -/
  | laneSpare (i : Nat) (l : Nat)
  /-- EDGE_TABLE_WRITE (R430). Firmware writes a peer-edge table entry. -/
  | edgeTableWrite (d : Nat) (i : Nat) (v : BitVec 64)
  /-- ROUTING_ENTRY_WRITE (R437). Firmware writes a routing entry, or it is refused. -/
  | routingEntryWrite (i : Nat) (n : Nat) (v : BitVec 256)
  /-- CONTEXT_TABLE_WRITE (R438). Firmware writes a collective context, or it is refused with 0x14. -/
  | contextTableWrite (i : Nat) (c : Nat) (v : BitVec 64)
  /-- BUCKET_REFILL (R306). At the start of each cycle the grove bucket level T is raised by the refill rate, capped at bkdepth. -/
  | bucketRefill
  /-- MATRIX_FAULT (R247). A routine that reaches a void or unassigned microword, a word with a nonzero zero-field, or word 1,024 ends with matrix fault 0x1C. -/
  | matrixFault (t : Nat)
  /-- HOST_LINK_RETURN (R392). A host port whose link returns finds that it owns only the queues it has not lost, and its writes to other queues' tails are refused. -/
  | hostLinkReturn (p : Nat)
  /-- FABRIC_LINK_DOWN (R444). A UALink link goes down: words due on it wait until firmware rewrites the entries, or until they time out. -/
  | fabricLinkDown (i : Nat)
  /-- COOLANT_FAULT_CLEAR (R405). Firmware clears a coolant fault and lifts the imposed 600 W cap. -/
  | coolantFaultClear
  /-- SECOND_CHANNEL_FAILURE (R383). A second channel failure in a stack that has already spared one is reported to firmware, which faults the partitions mapped onto that stack. -/
  | secondChannelFailure (k : Nat)
  deriving DecidableEq, Repr

end Sys2Proof
end

