-- ==== Sys2Proof/WellFormed.lean ====
section
/-!
DEFINITION. When an instruction is one its encoding admits: the limits that R138 to R151, R156 and R248 put on the
fields of a word beyond the bits that are fixed. A word whose fields break them is refused by the decoder (0x02).
-/
namespace Sys2Proof

/-- `pq` 0 with `ps` 1 is an illegal opcode (R139). -/
def Hdr.ok (h : Hdr) : Bool := !(h.ps == 1 && h.pq == 0)

/-- A destination field takes codes 0 to 47 only (R110, R143). -/
def dstOk (c : BitVec 6) : Bool := decide (c.toNat < 48)

/-- A source field takes every code except 54 and 55 (R143). -/
def srcOk (c : BitVec 6) : Bool := c != 54 && c != 55

/-- The fields of an instruction are ones its encoding admits. An element operation, a router operator and an event
have no word, so nothing is asked of them. -/
def Instr.wf (i : Instr) : Bool :=
  match i with
  | .bundleDispatch => true
  | .scoreboardReply _ => true
  | .trapEntry => true
  | .uiEntry => true
  | .preemptLanding => true
  | .forcedSave => true
  | .firebreakForward _ _ => true
  | .contextSave _ => true
  | .parityErrorAbort _ => true
  | .headerFiring _ _ => true
  | .opSteer _ _ => true
  | .opMerge _ _ => true
  | .opCarry _ _ => true
  | .opRepeat _ _ => true
  | .opSink _ _ => true
  | .opGate _ _ => true
  | .elPass _ _ => true
  | .iadd _ _ => true
  | .isub _ _ => true
  | .iadds _ _ => true
  | .isubs _ _ => true
  | .imul _ _ => true
  | .imulh _ _ => true
  | .imac _ _ => true
  | .idot4 _ _ => true
  | .imin _ _ => true
  | .imax _ _ => true
  | .iabs _ _ => true
  | .ineg _ _ => true
  | .iclip _ _ => true
  | .ishl _ _ => true
  | .ishr _ _ => true
  | .isra _ _ => true
  | .iand _ _ => true
  | .ior _ _ => true
  | .ixor _ _ => true
  | .inot _ _ => true
  | .icmp _ _ => true
  | .iscale _ _ => true
  | .fadd _ _ => true
  | .fsub _ _ => true
  | .fmul _ _ => true
  | .fma _ _ => true
  | .fnma _ _ => true
  | .fmin _ _ => true
  | .fmax _ _ => true
  | .fabs _ _ => true
  | .fneg _ _ => true
  | .fcmp _ _ => true
  | .frcp _ _ => true
  | .frsq _ _ => true
  | .fexp2 _ _ => true
  | .flog2 _ _ => true
  | .ftanh _ _ => true
  | .fsig _ _ => true
  | .fsilu _ _ => true
  | .faddC2 _ _ => true
  | .fmaC2 _ _ => true
  | .cvt _ _ => true
  | .cvtSc _ _ => true
  | .qrnd _ _ => true
  | .elementSel _ _ => true
  | .lperm _ _ => true
  | .lbcast _ _ => true
  | .lred _ _ => true
  | .lscan _ _ => true
  | .racc _ _ => true
  | .elCnt _ _ => true
  | .cmask _ _ => true
  | .tagck _ _ => true
  | .tagset _ _ => true
  | .nop  => true
  | .nopY  => true
  | .ext _ => true
  | .add h d a b => h.ok && dstOk d && srcOk a && srcOk b
  | .sub h d a b => h.ok && dstOk d && srcOk a && srcOk b
  | .addi h d a _ => h.ok && dstOk d && srcOk a
  | .mul h d a b => h.ok && dstOk d && srcOk a && srcOk b
  | .mulh h d a b => h.ok && dstOk d && srcOk a && srcOk b
  | .mulhn h d a b => h.ok && dstOk d && srcOk a && srcOk b
  | .and h d a b => h.ok && dstOk d && srcOk a && srcOk b
  | .or h d a b => h.ok && dstOk d && srcOk a && srcOk b
  | .xor h d a b => h.ok && dstOk d && srcOk a && srcOk b
  | .andn h d a b => h.ok && dstOk d && srcOk a && srcOk b
  | .shl h d a b => h.ok && dstOk d && srcOk a && srcOk b
  | .shr h d a b => h.ok && dstOk d && srcOk a && srcOk b
  | .sra h d a b => h.ok && dstOk d && srcOk a && srcOk b
  | .shli h d a _ => h.ok && dstOk d && srcOk a
  | .shri h d a _ => h.ok && dstOk d && srcOk a
  | .srai h d a _ => h.ok && dstOk d && srcOk a
  | .min h d a b => h.ok && dstOk d && srcOk a && srcOk b
  | .max h d a b => h.ok && dstOk d && srcOk a && srcOk b
  | .minn h d a b => h.ok && dstOk d && srcOk a && srcOk b
  | .maxn h d a b => h.ok && dstOk d && srcOk a && srcOk b
  | .clz h d a => h.ok && dstOk d && srcOk a
  | .popc h d a => h.ok && dstOk d && srcOk a
  | .sext h d a i => h.ok && dstOk d && srcOk a && decide (i.toNat ≤ 2)
  | .zext h d a i => h.ok && dstOk d && srcOk a && decide (i.toNat ≤ 2)
  | .li h d _ => h.ok && dstOk d
  | .mov h d a => h.ok && dstOk d && srcOk a
  | .cmp h _ _ a b => h.ok && srcOk a && srcOk b
  | .cmpi h _ _ a _ => h.ok && srcOk a
  | .sel h d a _ _ => h.ok && dstOk d && srcOk a
  | .qop h _ _ _ _ => h.ok
  | .ld h d _ _ _ => h.ok && dstOk d
  | .ldn h d _ _ _ => h.ok && dstOk d
  | .st h r _ _ _ => h.ok && srcOk r
  | .ldg h d _ _ _ => h.ok && dstOk d
  | .ldgn h d _ _ _ => h.ok && dstOk d
  | .stg h r _ _ _ => h.ok && srcOk r
  | .amoAdd h d _ _ c => h.ok && dstOk d && srcOk c
  | .amoMin h d _ _ c => h.ok && dstOk d && srcOk c
  | .amoMax h d _ _ c => h.ok && dstOk d && srcOk c
  | .amoAnd h d _ _ c => h.ok && dstOk d && srcOk c
  | .amoOr h d _ _ c => h.ok && dstOk d && srcOk c
  | .amoXor h d _ _ c => h.ok && dstOk d && srcOk c
  | .amoSwap h d _ _ c => h.ok && dstOk d && srcOk c
  | .amoCas h d _ _ c => h.ok && dstOk d && srcOk c
  | .br h _ => h.ok
  | .jmp h a => h.ok && srcOk a
  | .call h _ => h.ok
  | .callr h a => h.ok && srcOk a
  | .ret h a => h.ok && srcOk a
  | .trap h _ => h.ok
  | .brk h _ => h.ok
  | .loop h _ c => h.ok && srcOk c
  | .loopi h _ _ => h.ok
  | .lexit h => h.ok
  | .lnext h => h.ok
  | .aadd h _ a b => h.ok && srcOk a && srcOk b
  | .aaddi h _ a _ => h.ok && srcOk a
  | .amov h _ _ => h.ok
  | .aset h _ a => h.ok && srcOk a
  | .aget h _ _ => h.ok
  | .ahi h _ _ _ => h.ok
  | .geoLd h _ _ _ => h.ok
  | .geoSt h _ _ _ => h.ok
  | .geoBase h _ _ => h.ok
  | .geoAdv h _ _ b => h.ok && srcOk b
  | .slAffPort h _ _ _ => h.ok
  | .slAffCopy h _ _ _ => h.ok
  | .ssAffPort h _ _ _ => h.ok
  | .ssAffCopy h _ _ _ => h.ok
  | .slIndPort h _ _ _ _ => h.ok
  | .slIndCopy h _ _ _ _ => h.ok
  | .ssIndPort h _ _ _ _ => h.ok
  | .ssIndCopy h _ _ _ _ => h.ok
  | .sRec h _ _ _ => h.ok
  | .sConst h _ _ _ => h.ok
  | .sDrop h _ _ _ => h.ok
  | .sMcPort h _ _ _ => h.ok
  | .sMcGeo h _ _ _ => h.ok
  | .sChw h _ _ _ => h.ok
  | .sChr h _ _ _ => h.ok
  | .sBar h _ _ => h.ok
  | .sWb h _ _ => h.ok
  | .sKill h _ => h.ok
  | .sKillAll h => h.ok
  | .sTok h _ _ => h.ok
  | .sResOut h _ _ _ => h.ok
  | .sResIn h _ _ _ => h.ok
  | .streamWordDeliver _ _ => true
  | .streamWordDrain _ _ => true
  | .streamCompletion _ _ => true
  | .multicastDetach _ _ _ => true
  | .transferWordArrival _ => true
  | .channelWordPresent _ _ => true
  | .mset h _ a => h.ok && srcOk a
  | .mseti h _ _ => h.ok
  | .mcall h _ _ => h.ok
  | .mgang h _ a => h.ok && srcOk a
  | .macc h _ _ _ => h.ok
  | .maccBankRead _ => true
  | .mup h _ _ => h.ok
  | .mupCompletion _ => true
  | .mtab h _ a => h.ok && srcOk a
  | .mstat h d _ => h.ok && dstOk d
  | .mabort h => h.ok
  | .mepi h _ => h.ok
  | .mepiCompletion _ => true
  | .muNop  => true
  | .muParam _ => true
  | .muLda _ _ _ _ _ => true
  | .muLdb _ => true
  | .muMac _ => true
  | .muZero _ => true
  | .muSwap  => true
  | .muDrain _ _ _ _ _ _ _ _ => true
  | .muLoop r _ i => (r == 0 || i == 0)
  | .muEndl  => true
  | .muSig _ => true
  | .muWait _ => true
  | .muEnd  => true
  | .gangComplete _ _ => true
  | .gangLate _ _ => true
  | .send h _ _ _ _ => h.ok
  | .recv h _ _ _ _ => h.ok
  | .recvadd h _ _ _ _ => h.ok
  | .sendg h _ _ _ => h.ok
  | .cntSet h _ a => h.ok && srcOk a
  | .cntAdd h _ _ => h.ok
  | .cntWait h _ _ => h.ok
  | .cntRd h d _ => h.ok && dstOk d
  | .cntWaitTimeout _ => true
  | .barInit h _ _ => h.ok
  | .barArr h _ => h.ok
  | .barWait h _ => h.ok
  | .barAw h _ => h.ok
  | .own h _ _ _ => h.ok
  | .fence h e => h.ok && decide (e.toNat ≤ 4)
  | .swait h _ => h.ok
  | .ctlRd h d _ => h.ok && dstOk d
  | .ctlWr h a _ => h.ok && srcOk a
  | .uiret h => h.ok
  | .tret h => h.ok
  | .halt h => h.ok
  | .yield h => h.ok
  | .ckpt h _ => h.ok
  | .killpt h => h.ok
  | .cfgLoad h _ _ _ => h.ok
  | .cfgLoadCompletion _ _ => true
  | .cfgRun h _ a _ => h.ok && srcOk a
  | .tskEnd h => h.ok
  | .cfgDec h a _ _ => h.ok && srcOk a
  | .tskAbort h a => h.ok && srcOk a
  | .qOpen h _ _ => h.ok
  | .qWait h d _ => h.ok && dstOk d
  | .qClose h _ => h.ok
  | .grpRd h d _ => h.ok && dstOk d
  | .grpLd h _ => h.ok
  | .tkStart h a _ => h.ok && srcOk a
  | .tkStop h a => h.ok && srcOk a
  | .tkStat h d _ => h.ok && dstOk d
  | .rgResume h a => h.ok && srcOk a
  | .chAlloc h a _ => h.ok && srcOk a
  | .chFree h _ => h.ok
  | .commitPoint _ => true
  | .quorumFill _ _ => true
  | .quorumTimeout _ _ => true
  | .quorumKillLanding _ => true
  | .logWriteback _ => true
  | .remoteWritebackTimeout _ => true
  | .pageWalk _ _ => true
  | .scanOut _ _ => true
  | .stillnessFault _ _ => true
  | .replyTimeout _ _ => true
  | .dshootWrite _ _ => true
  | .shootdownDone _ => true
  | .dlogbaseWrite _ _ => true
  | .dsavebaseWrite _ _ => true
  | .dscrubWrite _ _ => true
  | .hbmPatrolScrub _ _ => true
  | .gspPatrolScrub _ _ _ => true
  | .hbmRowRepair _ _ => true
  | .hbmChannelRetire _ _ => true
  | .eventEntry => true
  | .evpopWrite _ => true
  | .placeWrite _ _ => true
  | .migrationComplete _ => true
  | .bkdepthWrite _ _ => true
  | .powerControlInterval _ => true
  | .coolantFault => true
  | .qtailWrite _ _ _ => true
  | .qcfgWrite _ _ _ => true
  | .qbaseWrite _ _ _ => true
  | .semRead _ _ => true
  | .semWrite _ _ _ => true
  | .partWrite _ _ _ _ => true
  | .pwrcapWrite _ _ => true
  | .imgRegister _ _ _ => true
  | .imageRegistrationDone _ => true
  | .registerWrite _ _ _ => true
  | .firmwareUpdate _ _ => true
  | .firmwareBankSwitch => true
  | .fuseRaise _ _ => true
  | .attestation _ _ => true
  | .codeLoad _ _ => true
  | .graftTableLoad _ _ => true
  | .producerKeyWrite _ _ => true
  | .storeFlush _ _ => true
  | .storeDeallocate _ _ _ _ => true
  | .namespaceEntryWrite _ _ _ => true
  | .launchDispatch => true
  | .partitionSaveDone _ => true
  | .launchRetire _ => true
  | .launchResume _ => true
  | .hostLinkDown _ => true
  | .semaphoreFailover _ => true
  | .deviceReset => true
  | .unsupportedRequest _ => true
  | .laneSpare _ _ => true
  | .edgeTableWrite _ _ _ => true
  | .routingEntryWrite _ _ _ => true
  | .contextTableWrite _ _ _ => true
  | .routeForward _ _ => true
  | .routeDeliver _ _ => true
  | .routeReduce _ _ => true
  | .routeStep _ _ => true
  | .peerReadServe _ _ => true
  | .bucketRefill => true
  | .matrixFault _ => true
  | .hostLinkReturn _ => true
  | .fabricLinkDown _ => true
  | .coolantFaultClear => true
  | .writeResponse _ _ => true
  | .secondChannelFailure _ => true

end Sys2Proof
end

