-- ==== Sys2Proof/Decode.lean ====
section
/-!
DEFINITION. Decoding and encoding of slot words and matrix microwords, from the maps of R140 to R152, R156 and R248.
A word has no slot of its own, so every slot has its decoder; each refuses by name.
-/
namespace Sys2Proof

/-- Bits `hi` to `lo` of a word. -/
def fld (w : BitVec 32) (hi lo : Nat) {k : Nat} : BitVec k := BitVec.ofNat k (w.toNat / 2 ^ lo % 2 ^ (hi + 1 - lo))

/-- Bits `hi` to `lo` of a word hold the number `v`. -/
def fieldIs (w : BitVec 32) (hi lo v : Nat) : Bool := w.toNat / 2 ^ lo % 2 ^ (hi + 1 - lo) == v

/-- The header fields of a word (R138). -/
def hdrOf (w : BitVec 32) : Hdr := ⟨fld w 31 31, fld w 23 21, fld w 20 20⟩

/-- The header fields in their places (R138). -/
def hdrBits (h : Hdr) : Nat := h.y.toNat * 0x80000000 + h.pq.toNat * 0x200000 + h.ps.toNat * 0x100000

/-- The opcode field of a slot word (R138). -/
def opOf (w : BitVec 32) : Nat := w.toNat / 0x1000000 % 0x80

/-- The eight slots of a bundle, in the order of their index (R137). -/
inductive Slot where
  | a | b | l | c | d | m | n | v
  deriving DecidableEq, Repr

/-- The index of a slot (R137). -/
def Slot.index : Slot → Nat
  | .a => 0 | .b => 1 | .l => 2 | .c => 3 | .d => 4 | .m => 5 | .n => 6 | .v => 7

/-- The slots in the order they are checked and read (R111, R154). -/
def Slot.all : List Slot := [.a, .b, .l, .c, .d, .m, .n, .v]

/-- Why a slot word is refused, with the causes of R155. -/
inductive Reject where
  /-- Void word 0x01 (R140). -/
  | voidWord
  /-- Illegal opcode 0x02 (R140, R143 to R152). -/
  | illegalOpcode
  /-- Privilege 0x0C: a grove word in a tile kernel (R152). -/
  | privilege
  deriving DecidableEq, Repr

/-- An instruction whose fields its encoding admits. -/
def checked (i : Instr) : Option Instr := if i.wf then some i else none

/-- The decoder of the ALU map that slots A and B share (R146). -/
def decodeAlu (w : BitVec 32) : Option Instr :=
  match opOf w with
  | 0x02 => if fieldIs w 1 0 0x0 then checked (.add (hdrOf w) (fld w 19 14) (fld w 13 8) (fld w 7 2)) else none
  | 0x03 => if fieldIs w 1 0 0x0 then checked (.sub (hdrOf w) (fld w 19 14) (fld w 13 8) (fld w 7 2)) else none
  | 0x04 => checked (.addi (hdrOf w) (fld w 19 14) (fld w 13 8) (fld w 7 0))
  | 0x05 => if fieldIs w 1 0 0x0 then checked (.mul (hdrOf w) (fld w 19 14) (fld w 13 8) (fld w 7 2)) else none
  | 0x06 => if fieldIs w 1 0 0x0 then checked (.mulh (hdrOf w) (fld w 19 14) (fld w 13 8) (fld w 7 2)) else none
  | 0x07 => if fieldIs w 1 0 0x0 then checked (.mulhn (hdrOf w) (fld w 19 14) (fld w 13 8) (fld w 7 2)) else none
  | 0x08 => if fieldIs w 1 0 0x0 then checked (.and (hdrOf w) (fld w 19 14) (fld w 13 8) (fld w 7 2)) else none
  | 0x09 => if fieldIs w 1 0 0x0 then checked (.or (hdrOf w) (fld w 19 14) (fld w 13 8) (fld w 7 2)) else none
  | 0x0a => if fieldIs w 1 0 0x0 then checked (.xor (hdrOf w) (fld w 19 14) (fld w 13 8) (fld w 7 2)) else none
  | 0x0b => if fieldIs w 1 0 0x0 then checked (.andn (hdrOf w) (fld w 19 14) (fld w 13 8) (fld w 7 2)) else none
  | 0x0c => if fieldIs w 1 0 0x0 then checked (.shl (hdrOf w) (fld w 19 14) (fld w 13 8) (fld w 7 2)) else none
  | 0x0d => if fieldIs w 1 0 0x0 then checked (.shr (hdrOf w) (fld w 19 14) (fld w 13 8) (fld w 7 2)) else none
  | 0x0e => if fieldIs w 1 0 0x0 then checked (.sra (hdrOf w) (fld w 19 14) (fld w 13 8) (fld w 7 2)) else none
  | 0x0f => if fieldIs w 7 6 0x0 then checked (.shli (hdrOf w) (fld w 19 14) (fld w 13 8) (fld w 5 0)) else none
  | 0x10 => if fieldIs w 7 6 0x0 then checked (.shri (hdrOf w) (fld w 19 14) (fld w 13 8) (fld w 5 0)) else none
  | 0x11 => if fieldIs w 7 6 0x0 then checked (.srai (hdrOf w) (fld w 19 14) (fld w 13 8) (fld w 5 0)) else none
  | 0x12 => if fieldIs w 1 0 0x0 then checked (.min (hdrOf w) (fld w 19 14) (fld w 13 8) (fld w 7 2)) else none
  | 0x13 => if fieldIs w 1 0 0x0 then checked (.max (hdrOf w) (fld w 19 14) (fld w 13 8) (fld w 7 2)) else none
  | 0x14 => if fieldIs w 1 0 0x0 then checked (.minn (hdrOf w) (fld w 19 14) (fld w 13 8) (fld w 7 2)) else none
  | 0x15 => if fieldIs w 1 0 0x0 then checked (.maxn (hdrOf w) (fld w 19 14) (fld w 13 8) (fld w 7 2)) else none
  | 0x16 => if fieldIs w 7 0 0x0 then checked (.clz (hdrOf w) (fld w 19 14) (fld w 13 8)) else none
  | 0x17 => if fieldIs w 7 0 0x0 then checked (.popc (hdrOf w) (fld w 19 14) (fld w 13 8)) else none
  | 0x18 => if fieldIs w 7 2 0x0 then checked (.sext (hdrOf w) (fld w 19 14) (fld w 13 8) (fld w 1 0)) else none
  | 0x19 => if fieldIs w 7 2 0x0 then checked (.zext (hdrOf w) (fld w 19 14) (fld w 13 8) (fld w 1 0)) else none
  | 0x1a => if fieldIs w 13 8 0x0 then checked (.li (hdrOf w) (fld w 19 14) (fld w 7 0)) else none
  | 0x1b => if fieldIs w 7 0 0x0 then checked (.mov (hdrOf w) (fld w 19 14) (fld w 13 8)) else none
  | 0x1c => if fieldIs w 1 0 0x0 && fieldIs w 14 14 0x0 then checked (.cmp (hdrOf w) (fld w 19 17) (fld w 16 15) (fld w 13 8) (fld w 7 2)) else none
  | 0x1d => if fieldIs w 14 14 0x0 then checked (.cmpi (hdrOf w) (fld w 19 17) (fld w 16 15) (fld w 13 8) (fld w 7 0)) else none
  | 0x1e => checked (.sel (hdrOf w) (fld w 19 14) (fld w 13 8) (fld w 7 3) (fld w 2 0))
  | 0x1f => if fieldIs w 8 0 0x0 then checked (.qop (hdrOf w) (fld w 19 17) (fld w 16 14) (fld w 13 11) (fld w 10 9)) else none
  | _ => none

/-- The decoder of the codes of slot A alone (R146). -/
def decodeOnlyA (w : BitVec 32) : Option Instr :=
  match opOf w with
  | 0x30 => checked (.ld (hdrOf w) (fld w 19 14) (fld w 13 10) (fld w 9 8) (fld w 7 0))
  | 0x31 => checked (.ldn (hdrOf w) (fld w 19 14) (fld w 13 10) (fld w 9 8) (fld w 7 0))
  | 0x32 => checked (.st (hdrOf w) (fld w 19 14) (fld w 13 10) (fld w 9 8) (fld w 7 0))
  | 0x33 => checked (.ldg (hdrOf w) (fld w 19 14) (fld w 13 10) (fld w 9 8) (fld w 7 0))
  | 0x34 => checked (.ldgn (hdrOf w) (fld w 19 14) (fld w 13 10) (fld w 9 8) (fld w 7 0))
  | 0x35 => checked (.stg (hdrOf w) (fld w 19 14) (fld w 13 10) (fld w 9 8) (fld w 7 0))
  | 0x38 => if fieldIs w 1 0 0x0 && fieldIs w 9 9 0x1 then checked (.amoAdd (hdrOf w) (fld w 19 14) (fld w 13 10) (fld w 8 8) (fld w 7 2)) else none
  | 0x39 => if fieldIs w 1 0 0x0 && fieldIs w 9 9 0x1 then checked (.amoMin (hdrOf w) (fld w 19 14) (fld w 13 10) (fld w 8 8) (fld w 7 2)) else none
  | 0x3a => if fieldIs w 1 0 0x0 && fieldIs w 9 9 0x1 then checked (.amoMax (hdrOf w) (fld w 19 14) (fld w 13 10) (fld w 8 8) (fld w 7 2)) else none
  | 0x3b => if fieldIs w 1 0 0x0 && fieldIs w 9 9 0x1 then checked (.amoAnd (hdrOf w) (fld w 19 14) (fld w 13 10) (fld w 8 8) (fld w 7 2)) else none
  | 0x3c => if fieldIs w 1 0 0x0 && fieldIs w 9 9 0x1 then checked (.amoOr (hdrOf w) (fld w 19 14) (fld w 13 10) (fld w 8 8) (fld w 7 2)) else none
  | 0x3d => if fieldIs w 1 0 0x0 && fieldIs w 9 9 0x1 then checked (.amoXor (hdrOf w) (fld w 19 14) (fld w 13 10) (fld w 8 8) (fld w 7 2)) else none
  | 0x3e => if fieldIs w 1 0 0x0 && fieldIs w 9 9 0x1 then checked (.amoSwap (hdrOf w) (fld w 19 14) (fld w 13 10) (fld w 8 8) (fld w 7 2)) else none
  | 0x3f => if fieldIs w 1 0 0x0 && fieldIs w 9 9 0x1 then checked (.amoCas (hdrOf w) (fld w 19 14) (fld w 13 10) (fld w 8 8) (fld w 7 2)) else none
  | _ => none

/-- The decoder of the codes of slot B alone (R146). -/
def decodeOnlyB (w : BitVec 32) : Option Instr :=
  match opOf w with
  | 0x40 => checked (.br (hdrOf w) (fld w 19 0))
  | 0x41 => if fieldIs w 7 0 0x0 && fieldIs w 19 14 0x0 then checked (.jmp (hdrOf w) (fld w 13 8)) else none
  | 0x42 => checked (.call (hdrOf w) (fld w 19 0))
  | 0x43 => if fieldIs w 7 0 0x0 && fieldIs w 19 14 0x0 then checked (.callr (hdrOf w) (fld w 13 8)) else none
  | 0x44 => if fieldIs w 7 0 0x0 && fieldIs w 19 14 0x0 then checked (.ret (hdrOf w) (fld w 13 8)) else none
  | 0x45 => if fieldIs w 19 8 0x0 then checked (.trap (hdrOf w) (fld w 7 0)) else none
  | 0x46 => if fieldIs w 19 8 0x0 then checked (.brk (hdrOf w) (fld w 7 0)) else none
  | _ => none

/-- The decoder of slot L (R147); an `aget` whose d is no scalar is none of its words (log entry 44). -/
def decodeL (w : BitVec 32) : Option Instr :=
  match opOf w with
  | 0x02 => if fieldIs w 1 0 0x0 && fieldIs w 19 19 0x0 then checked (.loop (hdrOf w) (fld w 18 8) (fld w 7 2)) else none
  | 0x03 => if fieldIs w 19 19 0x0 then checked (.loopi (hdrOf w) (fld w 18 8) (fld w 7 0)) else none
  | 0x04 => if fieldIs w 19 0 0x0 then checked (.lexit (hdrOf w)) else none
  | 0x05 => if fieldIs w 19 0 0x0 then checked (.lnext (hdrOf w)) else none
  | 0x06 => if fieldIs w 1 0 0x0 && fieldIs w 19 18 0x2 then checked (.aadd (hdrOf w) (fld w 17 14) (fld w 13 8) (fld w 7 2)) else none
  | 0x07 => if fieldIs w 19 18 0x2 then checked (.aaddi (hdrOf w) (fld w 17 14) (fld w 13 8) (fld w 7 0)) else none
  | 0x08 => if fieldIs w 7 0 0x0 && fieldIs w 13 12 0x2 && fieldIs w 19 18 0x2 then checked (.amov (hdrOf w) (fld w 17 14) (fld w 11 8)) else none
  | 0x09 => if fieldIs w 7 0 0x0 && fieldIs w 19 18 0x2 then checked (.aset (hdrOf w) (fld w 17 14) (fld w 13 8)) else none
  | 0x0a => if fieldIs w 7 0 0x0 && fieldIs w 13 12 0x2 && fieldIs w 19 19 0x0 then checked (.aget (hdrOf w) (fld w 18 14) (fld w 11 8)) else none
  | 0x0b => if fieldIs w 13 12 0x2 && fieldIs w 19 18 0x2 then checked (.ahi (hdrOf w) (fld w 17 14) (fld w 11 8) (fld w 7 0)) else none
  | 0x0c => if fieldIs w 9 8 0x0 && fieldIs w 15 14 0x0 then checked (.geoLd (hdrOf w) (fld w 19 16) (fld w 13 10) (fld w 7 0)) else none
  | 0x0d => if fieldIs w 9 8 0x0 && fieldIs w 15 14 0x0 then checked (.geoSt (hdrOf w) (fld w 19 16) (fld w 13 10) (fld w 7 0)) else none
  | 0x0e => if fieldIs w 7 0 0x0 && fieldIs w 15 12 0x2 then checked (.geoBase (hdrOf w) (fld w 19 16) (fld w 11 8)) else none
  | 0x0f => if fieldIs w 7 0 0x0 then checked (.geoAdv (hdrOf w) (fld w 19 16) (fld w 15 14) (fld w 13 8)) else none
  | _ => none

/-- The decoder of slots C and D (R148). -/
def decodeCD (w : BitVec 32) : Option Instr :=
  match opOf w with
  | 0x02 => if fieldIs w 3 0 0x0 && fieldIs w 9 8 0x0 then checked (.slAffPort (hdrOf w) (fld w 19 14) (fld w 13 10) (fld w 7 4))
      else if fieldIs w 3 0 0x0 && fieldIs w 9 8 0x2 then checked (.slAffCopy (hdrOf w) (fld w 19 14) (fld w 13 10) (fld w 7 4))
      else none
  | 0x03 => if fieldIs w 3 0 0x0 && fieldIs w 9 8 0x1 then checked (.ssAffPort (hdrOf w) (fld w 19 14) (fld w 13 10) (fld w 7 4))
      else if fieldIs w 3 0 0x0 && fieldIs w 9 8 0x2 then checked (.ssAffCopy (hdrOf w) (fld w 19 14) (fld w 13 10) (fld w 7 4))
      else none
  | 0x04 => if fieldIs w 9 8 0x0 then checked (.slIndPort (hdrOf w) (fld w 19 14) (fld w 13 10) (fld w 7 4) (fld w 3 0))
      else if fieldIs w 9 8 0x2 then checked (.slIndCopy (hdrOf w) (fld w 19 14) (fld w 13 10) (fld w 7 4) (fld w 3 0))
      else none
  | 0x05 => if fieldIs w 9 8 0x1 then checked (.ssIndPort (hdrOf w) (fld w 19 14) (fld w 13 10) (fld w 7 4) (fld w 3 0))
      else if fieldIs w 9 8 0x2 then checked (.ssIndCopy (hdrOf w) (fld w 19 14) (fld w 13 10) (fld w 7 4) (fld w 3 0))
      else none
  | 0x06 => if fieldIs w 3 0 0x0 && fieldIs w 9 8 0x0 then checked (.sRec (hdrOf w) (fld w 19 14) (fld w 13 10) (fld w 7 4)) else none
  | 0x07 => if fieldIs w 3 0 0x0 && fieldIs w 9 8 0x0 then checked (.sConst (hdrOf w) (fld w 19 14) (fld w 13 10) (fld w 7 4)) else none
  | 0x08 => if fieldIs w 3 0 0x0 && fieldIs w 9 8 0x1 then checked (.sDrop (hdrOf w) (fld w 19 14) (fld w 13 10) (fld w 7 4)) else none
  | 0x09 => if fieldIs w 3 0 0x0 && fieldIs w 9 8 0x0 then checked (.sMcPort (hdrOf w) (fld w 19 14) (fld w 13 10) (fld w 7 4))
      else if fieldIs w 3 0 0x0 && fieldIs w 9 8 0x2 then checked (.sMcGeo (hdrOf w) (fld w 19 14) (fld w 13 10) (fld w 7 4))
      else none
  | 0x0a => if fieldIs w 3 0 0x0 && fieldIs w 9 8 0x1 then checked (.sChw (hdrOf w) (fld w 19 14) (fld w 13 10) (fld w 7 4)) else none
  | 0x0b => if fieldIs w 3 0 0x0 && fieldIs w 9 8 0x0 then checked (.sChr (hdrOf w) (fld w 19 14) (fld w 13 10) (fld w 7 4)) else none
  | 0x0c => if fieldIs w 9 0 0x0 then checked (.sBar (hdrOf w) (fld w 19 14) (fld w 13 10)) else none
  | 0x0d => if fieldIs w 9 0 0x0 then checked (.sWb (hdrOf w) (fld w 19 14) (fld w 13 10)) else none
  | 0x0e => if fieldIs w 13 0 0x0 then checked (.sKill (hdrOf w) (fld w 19 14))
      else if fieldIs w 19 0 0x1 then checked (.sKillAll (hdrOf w))
      else none
  | 0x0f => if fieldIs w 9 0 0x0 then checked (.sTok (hdrOf w) (fld w 19 14) (fld w 13 10)) else none
  | 0x10 => if fieldIs w 3 0 0x0 && fieldIs w 9 8 0x0 then checked (.sResOut (hdrOf w) (fld w 19 14) (fld w 13 10) (fld w 7 4))
      else if fieldIs w 3 0 0x1 && fieldIs w 9 8 0x0 then checked (.sResIn (hdrOf w) (fld w 19 14) (fld w 13 10) (fld w 7 4))
      else none
  | _ => none

/-- The decoder of slot M (R149). -/
def decodeM (w : BitVec 32) : Option Instr :=
  match opOf w with
  | 0x02 => if fieldIs w 7 0 0x0 && fieldIs w 16 14 0x0 then checked (.mset (hdrOf w) (fld w 19 17) (fld w 13 8)) else none
  | 0x03 => if fieldIs w 16 8 0x0 then checked (.mseti (hdrOf w) (fld w 19 17) (fld w 7 0)) else none
  | 0x04 => if fieldIs w 13 11 0x0 then checked (.mcall (hdrOf w) (fld w 19 14) (fld w 10 0)) else none
  | 0x05 => if fieldIs w 7 0 0x0 then checked (.mgang (hdrOf w) (fld w 19 14) (fld w 13 8)) else none
  | 0x06 => if fieldIs w 11 11 0x0 && fieldIs w 18 16 0x0 then checked (.macc (hdrOf w) (fld w 19 19) (fld w 15 12) (fld w 10 0)) else none
  | 0x07 => if fieldIs w 11 10 0x0 && fieldIs w 19 16 0x0 then checked (.mup (hdrOf w) (fld w 15 12) (fld w 9 0)) else none
  | 0x08 => if fieldIs w 7 0 0x0 then checked (.mtab (hdrOf w) (fld w 19 14) (fld w 13 8)) else none
  | 0x09 => if fieldIs w 13 1 0x0 then checked (.mstat (hdrOf w) (fld w 19 14) (fld w 0 0)) else none
  | 0x0a => if fieldIs w 19 0 0x0 then checked (.mabort (hdrOf w)) else none
  | 0x0b => if fieldIs w 11 0 0x0 && fieldIs w 19 16 0x0 then checked (.mepi (hdrOf w) (fld w 15 12)) else none
  | _ => none

/-- The decoder of slot N (R150). -/
def decodeN (w : BitVec 32) : Option Instr :=
  match opOf w with
  | 0x02 => checked (.send (hdrOf w) (fld w 19 16) (fld w 15 12) (fld w 11 8) (fld w 7 0))
  | 0x03 => checked (.recv (hdrOf w) (fld w 19 16) (fld w 15 12) (fld w 11 8) (fld w 7 0))
  | 0x04 => checked (.recvadd (hdrOf w) (fld w 19 16) (fld w 15 12) (fld w 11 8) (fld w 7 0))
  | 0x05 => checked (.sendg (hdrOf w) (fld w 19 12) (fld w 11 8) (fld w 7 0))
  | 0x06 => if fieldIs w 7 0 0x0 then checked (.cntSet (hdrOf w) (fld w 19 14) (fld w 13 8)) else none
  | 0x07 => if fieldIs w 13 8 0x0 then checked (.cntAdd (hdrOf w) (fld w 19 14) (fld w 7 0)) else none
  | 0x08 => if fieldIs w 13 8 0x0 then checked (.cntWait (hdrOf w) (fld w 19 14) (fld w 7 0)) else none
  | 0x09 => if fieldIs w 7 0 0x0 then checked (.cntRd (hdrOf w) (fld w 19 14) (fld w 13 8)) else none
  | _ => none

/-- The decoder of slot V (R151). -/
def decodeV (w : BitVec 32) : Option Instr :=
  match opOf w with
  | 0x02 => if fieldIs w 8 8 0x0 then checked (.barInit (hdrOf w) (fld w 19 9) (fld w 7 0)) else none
  | 0x03 => if fieldIs w 8 0 0x0 then checked (.barArr (hdrOf w) (fld w 19 9)) else none
  | 0x04 => if fieldIs w 8 0 0x0 then checked (.barWait (hdrOf w) (fld w 19 9)) else none
  | 0x05 => if fieldIs w 8 0 0x0 then checked (.barAw (hdrOf w) (fld w 19 9)) else none
  | 0x06 => if fieldIs w 2 0 0x0 then checked (.own (hdrOf w) (fld w 19 12) (fld w 11 11) (fld w 10 3)) else none
  | 0x07 => if fieldIs w 19 3 0x0 then checked (.fence (hdrOf w) (fld w 2 0)) else none
  | 0x08 => if fieldIs w 13 0 0x0 then checked (.swait (hdrOf w) (fld w 19 14)) else none
  | 0x09 => if fieldIs w 13 12 0x0 then checked (.ctlRd (hdrOf w) (fld w 19 14) (fld w 11 0)) else none
  | 0x0a => if fieldIs w 13 12 0x0 then checked (.ctlWr (hdrOf w) (fld w 19 14) (fld w 11 0)) else none
  | 0x0b => if fieldIs w 19 0 0x0 then checked (.uiret (hdrOf w)) else none
  | 0x0c => if fieldIs w 19 0 0x0 then checked (.tret (hdrOf w)) else none
  | 0x0d => if fieldIs w 19 0 0x0 then checked (.halt (hdrOf w)) else none
  | 0x0e => if fieldIs w 19 0 0x0 then checked (.yield (hdrOf w)) else none
  | 0x0f => if fieldIs w 19 8 0x0 then checked (.ckpt (hdrOf w) (fld w 7 0)) else none
  | 0x10 => if fieldIs w 19 0 0x0 then checked (.killpt (hdrOf w)) else none
  | 0x11 => if fieldIs w 11 11 0x0 && fieldIs w 17 16 0x0 then checked (.cfgLoad (hdrOf w) (fld w 19 18) (fld w 15 12) (fld w 10 0)) else none
  | 0x12 => if fieldIs w 9 8 0x0 && fieldIs w 17 16 0x0 then checked (.cfgRun (hdrOf w) (fld w 19 18) (fld w 15 10) (fld w 7 0)) else none
  | 0x13 => if fieldIs w 19 0 0x0 then checked (.tskEnd (hdrOf w)) else none
  | 0x20 => if fieldIs w 13 4 0x0 then checked (.cfgDec (hdrOf w) (fld w 19 14) (fld w 3 2) (fld w 1 0)) else none
  | 0x21 => if fieldIs w 13 0 0x0 then checked (.tskAbort (hdrOf w) (fld w 19 14)) else none
  | 0x22 => if fieldIs w 7 0 0x0 && fieldIs w 13 12 0x2 then checked (.qOpen (hdrOf w) (fld w 19 14) (fld w 11 8)) else none
  | 0x23 => if fieldIs w 7 0 0x0 then checked (.qWait (hdrOf w) (fld w 19 14) (fld w 13 8)) else none
  | 0x24 => if fieldIs w 13 0 0x0 then checked (.qClose (hdrOf w) (fld w 19 14)) else none
  | 0x25 => if fieldIs w 13 8 0x0 then checked (.grpRd (hdrOf w) (fld w 19 14) (fld w 7 0)) else none
  | 0x26 => if fieldIs w 7 0 0x0 && fieldIs w 19 12 0x2 then checked (.grpLd (hdrOf w) (fld w 11 8)) else none
  | 0x27 => if fieldIs w 7 0 0x0 && fieldIs w 13 12 0x2 then checked (.tkStart (hdrOf w) (fld w 19 14) (fld w 11 8)) else none
  | 0x28 => if fieldIs w 13 0 0x0 then checked (.tkStop (hdrOf w) (fld w 19 14)) else none
  | 0x29 => if fieldIs w 13 4 0x0 then checked (.tkStat (hdrOf w) (fld w 19 14) (fld w 3 0)) else none
  | 0x2a => if fieldIs w 13 0 0x0 then checked (.rgResume (hdrOf w) (fld w 19 14)) else none
  | 0x2b => if fieldIs w 19 14 0x0 then checked (.chAlloc (hdrOf w) (fld w 13 8) (fld w 7 0)) else none
  | 0x2c => if fieldIs w 19 8 0x0 then checked (.chFree (hdrOf w) (fld w 7 0)) else none
  | _ => none

/-- The decoder of matrix microwords (R156, R248). -/
def decodeMicro (w : BitVec 32) : Option Instr :=
  match w.toNat / 0x4000000 with
  | 0x01 => if fieldIs w 25 0 0x0 then checked (.muNop) else none
  | 0x02 => if fieldIs w 22 0 0x0 then checked (.muParam (fld w 25 23)) else none
  | 0x03 => if fieldIs w 17 16 0x0 then checked (.muLda (fld w 25 23) (fld w 22 22) (fld w 21 19) (fld w 18 18) (fld w 15 0)) else none
  | 0x04 => if fieldIs w 22 0 0x0 then checked (.muLdb (fld w 25 23)) else none
  | 0x05 => if fieldIs w 24 0 0x0 then checked (.muMac (fld w 25 25)) else none
  | 0x06 => if fieldIs w 24 0 0x0 then checked (.muZero (fld w 25 25)) else none
  | 0x07 => if fieldIs w 25 0 0x0 then checked (.muSwap) else none
  | 0x08 => if fieldIs w 11 0 0x0 then checked (.muDrain (fld w 25 25) (fld w 24 22) (fld w 21 21) (fld w 20 20) (fld w 19 17) (fld w 16 16) (fld w 15 15) (fld w 14 12)) else none
  | 0x09 => if fieldIs w 21 16 0x0 then checked (.muLoop (fld w 25 25) (fld w 24 22) (fld w 15 0)) else none
  | 0x0a => if fieldIs w 25 0 0x0 then checked (.muEndl) else none
  | 0x0b => if fieldIs w 25 11 0x0 then checked (.muSig (fld w 10 0)) else none
  | 0x0c => if fieldIs w 25 11 0x0 then checked (.muWait (fld w 10 0)) else none
  | 0x0d => if fieldIs w 25 0 0x0 then checked (.muEnd) else none
  | _ => none

/-- The words that mean the same in every slot: `nop`, `nop.y` and `ext` (R140, R141). -/
def decodeAny (w : BitVec 32) : Option Instr :=
  if w = 0x01000000 then some .nop
  else if w = 0x81000000 then some .nopY
  else if opOf w = 0x7f && fieldIs w 31 31 0 then some (.ext (fld w 23 0))
  else none

/-- The first decoder that reads the word. -/
def orElse (x y : Option Instr) : Option Instr :=
  match x with
  | some i => some i
  | none => y

/-- The decoder of one slot, with no regard to who runs the bundle (R145 to R151). -/
def decodeIn (sl : Slot) (w : BitVec 32) : Option Instr :=
  orElse (decodeAny w) <| match sl with
    | .a => orElse (decodeAlu w) (decodeOnlyA w)
    | .b => orElse (decodeAlu w) (decodeOnlyB w)
    | .l => decodeL w
    | .c | .d => decodeCD w
    | .m => decodeM w
    | .n => decodeN w
    | .v => decodeV w

/-- The grove codes of slot V (R151, R152). -/
def groveCode (w : BitVec 32) : Bool := decide (0x20 ≤ opOf w) && decide (opOf w ≤ 0x2c)

/-- The words the grove sequencer may not run though their slot has them (R152); those of slots C, D and M are an
illegal bundle instead. -/
def groveRefuses (sl : Slot) (w : BitVec 32) : Bool :=
  match sl with
  | .a => [0x30, 0x31, 0x32].contains (opOf w)
  | .l => [0x0c, 0x0d, 0x0e, 0x0f].contains (opOf w)
  | .n => opOf w != 0x01
  | .v => [0x06, 0x08, 0x0b, 0x0f, 0x10, 0x11, 0x12, 0x13].contains (opOf w)
  | _ => false

/-- The decoder of a slot word in a tile kernel (`grove` false) or in a grove sequencer's program: total, and it
refuses by name in the order of R154. -/
def decodeSlot (grove : Bool) (sl : Slot) (w : BitVec 32) : Except Reject Instr :=
  if w = 0 then .error .voidWord
  else if grove && groveRefuses sl w then .error .illegalOpcode
  else match decodeIn sl w with
    | none => .error .illegalOpcode
    | some i => if sl = .v && !grove && groveCode w then .error .privilege else .ok i

/-- The word of a well-formed instruction, from the same tables. An element operation, a router operator and an event
have none. -/
def encode (i : Instr) : Option (BitVec 32) :=
  match i with
  | .bundleDispatch => none
  | .scoreboardReply _ => none
  | .trapEntry => none
  | .uiEntry => none
  | .preemptLanding => none
  | .forcedSave => none
  | .firebreakForward _ _ => none
  | .contextSave _ => none
  | .parityErrorAbort _ => none
  | .headerFiring _ _ => none
  | .opSteer _ _ => none
  | .opMerge _ _ => none
  | .opCarry _ _ => none
  | .opRepeat _ _ => none
  | .opSink _ _ => none
  | .opGate _ _ => none
  | .elPass _ _ => none
  | .iadd _ _ => none
  | .isub _ _ => none
  | .iadds _ _ => none
  | .isubs _ _ => none
  | .imul _ _ => none
  | .imulh _ _ => none
  | .imac _ _ => none
  | .idot4 _ _ => none
  | .imin _ _ => none
  | .imax _ _ => none
  | .iabs _ _ => none
  | .ineg _ _ => none
  | .iclip _ _ => none
  | .ishl _ _ => none
  | .ishr _ _ => none
  | .isra _ _ => none
  | .iand _ _ => none
  | .ior _ _ => none
  | .ixor _ _ => none
  | .inot _ _ => none
  | .icmp _ _ => none
  | .iscale _ _ => none
  | .fadd _ _ => none
  | .fsub _ _ => none
  | .fmul _ _ => none
  | .fma _ _ => none
  | .fnma _ _ => none
  | .fmin _ _ => none
  | .fmax _ _ => none
  | .fabs _ _ => none
  | .fneg _ _ => none
  | .fcmp _ _ => none
  | .frcp _ _ => none
  | .frsq _ _ => none
  | .fexp2 _ _ => none
  | .flog2 _ _ => none
  | .ftanh _ _ => none
  | .fsig _ _ => none
  | .fsilu _ _ => none
  | .faddC2 _ _ => none
  | .fmaC2 _ _ => none
  | .cvt _ _ => none
  | .cvtSc _ _ => none
  | .qrnd _ _ => none
  | .elementSel _ _ => none
  | .lperm _ _ => none
  | .lbcast _ _ => none
  | .lred _ _ => none
  | .lscan _ _ => none
  | .racc _ _ => none
  | .elCnt _ _ => none
  | .cmask _ _ => none
  | .tagck _ _ => none
  | .tagset _ _ => none
  | .nop => some (.ofNat 32 (0x1000000))
  | .nopY => some (.ofNat 32 (0x81000000))
  | .ext x => some (.ofNat 32 (0x7f000000 + x.toNat))
  | .add h d a b => some (.ofNat 32 (hdrBits h + 0x2000000 + d.toNat * 0x4000 + a.toNat * 0x100 + b.toNat * 0x4))
  | .sub h d a b => some (.ofNat 32 (hdrBits h + 0x3000000 + d.toNat * 0x4000 + a.toNat * 0x100 + b.toNat * 0x4))
  | .addi h d a i => some (.ofNat 32 (hdrBits h + 0x4000000 + d.toNat * 0x4000 + a.toNat * 0x100 + i.toNat))
  | .mul h d a b => some (.ofNat 32 (hdrBits h + 0x5000000 + d.toNat * 0x4000 + a.toNat * 0x100 + b.toNat * 0x4))
  | .mulh h d a b => some (.ofNat 32 (hdrBits h + 0x6000000 + d.toNat * 0x4000 + a.toNat * 0x100 + b.toNat * 0x4))
  | .mulhn h d a b => some (.ofNat 32 (hdrBits h + 0x7000000 + d.toNat * 0x4000 + a.toNat * 0x100 + b.toNat * 0x4))
  | .and h d a b => some (.ofNat 32 (hdrBits h + 0x8000000 + d.toNat * 0x4000 + a.toNat * 0x100 + b.toNat * 0x4))
  | .or h d a b => some (.ofNat 32 (hdrBits h + 0x9000000 + d.toNat * 0x4000 + a.toNat * 0x100 + b.toNat * 0x4))
  | .xor h d a b => some (.ofNat 32 (hdrBits h + 0xa000000 + d.toNat * 0x4000 + a.toNat * 0x100 + b.toNat * 0x4))
  | .andn h d a b => some (.ofNat 32 (hdrBits h + 0xb000000 + d.toNat * 0x4000 + a.toNat * 0x100 + b.toNat * 0x4))
  | .shl h d a b => some (.ofNat 32 (hdrBits h + 0xc000000 + d.toNat * 0x4000 + a.toNat * 0x100 + b.toNat * 0x4))
  | .shr h d a b => some (.ofNat 32 (hdrBits h + 0xd000000 + d.toNat * 0x4000 + a.toNat * 0x100 + b.toNat * 0x4))
  | .sra h d a b => some (.ofNat 32 (hdrBits h + 0xe000000 + d.toNat * 0x4000 + a.toNat * 0x100 + b.toNat * 0x4))
  | .shli h d a i => some (.ofNat 32 (hdrBits h + 0xf000000 + d.toNat * 0x4000 + a.toNat * 0x100 + i.toNat))
  | .shri h d a i => some (.ofNat 32 (hdrBits h + 0x10000000 + d.toNat * 0x4000 + a.toNat * 0x100 + i.toNat))
  | .srai h d a i => some (.ofNat 32 (hdrBits h + 0x11000000 + d.toNat * 0x4000 + a.toNat * 0x100 + i.toNat))
  | .min h d a b => some (.ofNat 32 (hdrBits h + 0x12000000 + d.toNat * 0x4000 + a.toNat * 0x100 + b.toNat * 0x4))
  | .max h d a b => some (.ofNat 32 (hdrBits h + 0x13000000 + d.toNat * 0x4000 + a.toNat * 0x100 + b.toNat * 0x4))
  | .minn h d a b => some (.ofNat 32 (hdrBits h + 0x14000000 + d.toNat * 0x4000 + a.toNat * 0x100 + b.toNat * 0x4))
  | .maxn h d a b => some (.ofNat 32 (hdrBits h + 0x15000000 + d.toNat * 0x4000 + a.toNat * 0x100 + b.toNat * 0x4))
  | .clz h d a => some (.ofNat 32 (hdrBits h + 0x16000000 + d.toNat * 0x4000 + a.toNat * 0x100))
  | .popc h d a => some (.ofNat 32 (hdrBits h + 0x17000000 + d.toNat * 0x4000 + a.toNat * 0x100))
  | .sext h d a i => some (.ofNat 32 (hdrBits h + 0x18000000 + d.toNat * 0x4000 + a.toNat * 0x100 + i.toNat))
  | .zext h d a i => some (.ofNat 32 (hdrBits h + 0x19000000 + d.toNat * 0x4000 + a.toNat * 0x100 + i.toNat))
  | .li h d i => some (.ofNat 32 (hdrBits h + 0x1a000000 + d.toNat * 0x4000 + i.toNat))
  | .mov h d a => some (.ofNat 32 (hdrBits h + 0x1b000000 + d.toNat * 0x4000 + a.toNat * 0x100))
  | .cmp h t k a b => some (.ofNat 32 (hdrBits h + 0x1c000000 + t.toNat * 0x20000 + k.toNat * 0x8000 + a.toNat * 0x100 + b.toNat * 0x4))
  | .cmpi h t k a i => some (.ofNat 32 (hdrBits h + 0x1d000000 + t.toNat * 0x20000 + k.toNat * 0x8000 + a.toNat * 0x100 + i.toNat))
  | .sel h d a b c => some (.ofNat 32 (hdrBits h + 0x1e000000 + d.toNat * 0x4000 + a.toNat * 0x100 + b.toNat * 0x8 + c.toNat))
  | .qop h t u v o => some (.ofNat 32 (hdrBits h + 0x1f000000 + t.toNat * 0x20000 + u.toNat * 0x4000 + v.toNat * 0x800 + o.toNat * 0x200))
  | .ld h d b z i => some (.ofNat 32 (hdrBits h + 0x30000000 + d.toNat * 0x4000 + b.toNat * 0x400 + z.toNat * 0x100 + i.toNat))
  | .ldn h d b z i => some (.ofNat 32 (hdrBits h + 0x31000000 + d.toNat * 0x4000 + b.toNat * 0x400 + z.toNat * 0x100 + i.toNat))
  | .st h r b z i => some (.ofNat 32 (hdrBits h + 0x32000000 + r.toNat * 0x4000 + b.toNat * 0x400 + z.toNat * 0x100 + i.toNat))
  | .ldg h d b z i => some (.ofNat 32 (hdrBits h + 0x33000000 + d.toNat * 0x4000 + b.toNat * 0x400 + z.toNat * 0x100 + i.toNat))
  | .ldgn h d b z i => some (.ofNat 32 (hdrBits h + 0x34000000 + d.toNat * 0x4000 + b.toNat * 0x400 + z.toNat * 0x100 + i.toNat))
  | .stg h r b z i => some (.ofNat 32 (hdrBits h + 0x35000000 + r.toNat * 0x4000 + b.toNat * 0x400 + z.toNat * 0x100 + i.toNat))
  | .amoAdd h d b z c => some (.ofNat 32 (hdrBits h + 0x38000200 + d.toNat * 0x4000 + b.toNat * 0x400 + z.toNat * 0x100 + c.toNat * 0x4))
  | .amoMin h d b z c => some (.ofNat 32 (hdrBits h + 0x39000200 + d.toNat * 0x4000 + b.toNat * 0x400 + z.toNat * 0x100 + c.toNat * 0x4))
  | .amoMax h d b z c => some (.ofNat 32 (hdrBits h + 0x3a000200 + d.toNat * 0x4000 + b.toNat * 0x400 + z.toNat * 0x100 + c.toNat * 0x4))
  | .amoAnd h d b z c => some (.ofNat 32 (hdrBits h + 0x3b000200 + d.toNat * 0x4000 + b.toNat * 0x400 + z.toNat * 0x100 + c.toNat * 0x4))
  | .amoOr h d b z c => some (.ofNat 32 (hdrBits h + 0x3c000200 + d.toNat * 0x4000 + b.toNat * 0x400 + z.toNat * 0x100 + c.toNat * 0x4))
  | .amoXor h d b z c => some (.ofNat 32 (hdrBits h + 0x3d000200 + d.toNat * 0x4000 + b.toNat * 0x400 + z.toNat * 0x100 + c.toNat * 0x4))
  | .amoSwap h d b z c => some (.ofNat 32 (hdrBits h + 0x3e000200 + d.toNat * 0x4000 + b.toNat * 0x400 + z.toNat * 0x100 + c.toNat * 0x4))
  | .amoCas h d b z c => some (.ofNat 32 (hdrBits h + 0x3f000200 + d.toNat * 0x4000 + b.toNat * 0x400 + z.toNat * 0x100 + c.toNat * 0x4))
  | .br h i => some (.ofNat 32 (hdrBits h + 0x40000000 + i.toNat))
  | .jmp h a => some (.ofNat 32 (hdrBits h + 0x41000000 + a.toNat * 0x100))
  | .call h i => some (.ofNat 32 (hdrBits h + 0x42000000 + i.toNat))
  | .callr h a => some (.ofNat 32 (hdrBits h + 0x43000000 + a.toNat * 0x100))
  | .ret h a => some (.ofNat 32 (hdrBits h + 0x44000000 + a.toNat * 0x100))
  | .trap h i => some (.ofNat 32 (hdrBits h + 0x45000000 + i.toNat))
  | .brk h i => some (.ofNat 32 (hdrBits h + 0x46000000 + i.toNat))
  | .loop h l c => some (.ofNat 32 (hdrBits h + 0x2000000 + l.toNat * 0x100 + c.toNat * 0x4))
  | .loopi h l i => some (.ofNat 32 (hdrBits h + 0x3000000 + l.toNat * 0x100 + i.toNat))
  | .lexit h => some (.ofNat 32 (hdrBits h + 0x4000000))
  | .lnext h => some (.ofNat 32 (hdrBits h + 0x5000000))
  | .aadd h d a b => some (.ofNat 32 (hdrBits h + 0x6080000 + d.toNat * 0x4000 + a.toNat * 0x100 + b.toNat * 0x4))
  | .aaddi h d a i => some (.ofNat 32 (hdrBits h + 0x7080000 + d.toNat * 0x4000 + a.toNat * 0x100 + i.toNat))
  | .amov h d a => some (.ofNat 32 (hdrBits h + 0x8082000 + d.toNat * 0x4000 + a.toNat * 0x100))
  | .aset h d a => some (.ofNat 32 (hdrBits h + 0x9080000 + d.toNat * 0x4000 + a.toNat * 0x100))
  | .aget h d a => some (.ofNat 32 (hdrBits h + 0xa002000 + d.toNat * 0x4000 + a.toNat * 0x100))
  | .ahi h d a i => some (.ofNat 32 (hdrBits h + 0xb082000 + d.toNat * 0x4000 + a.toNat * 0x100 + i.toNat))
  | .geoLd h g b i => some (.ofNat 32 (hdrBits h + 0xc000000 + g.toNat * 0x10000 + b.toNat * 0x400 + i.toNat))
  | .geoSt h g b i => some (.ofNat 32 (hdrBits h + 0xd000000 + g.toNat * 0x10000 + b.toNat * 0x400 + i.toNat))
  | .geoBase h g b => some (.ofNat 32 (hdrBits h + 0xe002000 + g.toNat * 0x10000 + b.toNat * 0x100))
  | .geoAdv h g k b => some (.ofNat 32 (hdrBits h + 0xf000000 + g.toNat * 0x10000 + k.toNat * 0x4000 + b.toNat * 0x100))
  | .slAffPort h st g n => some (.ofNat 32 (hdrBits h + 0x2000000 + st.toNat * 0x4000 + g.toNat * 0x400 + n.toNat * 0x10))
  | .slAffCopy h st g t => some (.ofNat 32 (hdrBits h + 0x2000200 + st.toNat * 0x4000 + g.toNat * 0x400 + t.toNat * 0x10))
  | .ssAffPort h st g n => some (.ofNat 32 (hdrBits h + 0x3000100 + st.toNat * 0x4000 + g.toNat * 0x400 + n.toNat * 0x10))
  | .ssAffCopy h st g t => some (.ofNat 32 (hdrBits h + 0x3000200 + st.toNat * 0x4000 + g.toNat * 0x400 + t.toNat * 0x10))
  | .slIndPort h st g n x => some (.ofNat 32 (hdrBits h + 0x4000000 + st.toNat * 0x4000 + g.toNat * 0x400 + n.toNat * 0x10 + x.toNat))
  | .slIndCopy h st g t x => some (.ofNat 32 (hdrBits h + 0x4000200 + st.toNat * 0x4000 + g.toNat * 0x400 + t.toNat * 0x10 + x.toNat))
  | .ssIndPort h st g n x => some (.ofNat 32 (hdrBits h + 0x5000100 + st.toNat * 0x4000 + g.toNat * 0x400 + n.toNat * 0x10 + x.toNat))
  | .ssIndCopy h st g t x => some (.ofNat 32 (hdrBits h + 0x5000200 + st.toNat * 0x4000 + g.toNat * 0x400 + t.toNat * 0x10 + x.toNat))
  | .sRec h st m n => some (.ofNat 32 (hdrBits h + 0x6000000 + st.toNat * 0x4000 + m.toNat * 0x400 + n.toNat * 0x10))
  | .sConst h st g n => some (.ofNat 32 (hdrBits h + 0x7000000 + st.toNat * 0x4000 + g.toNat * 0x400 + n.toNat * 0x10))
  | .sDrop h st g n => some (.ofNat 32 (hdrBits h + 0x8000100 + st.toNat * 0x4000 + g.toNat * 0x400 + n.toNat * 0x10))
  | .sMcPort h st g n => some (.ofNat 32 (hdrBits h + 0x9000000 + st.toNat * 0x4000 + g.toNat * 0x400 + n.toNat * 0x10))
  | .sMcGeo h st g t => some (.ofNat 32 (hdrBits h + 0x9000200 + st.toNat * 0x4000 + g.toNat * 0x400 + t.toNat * 0x10))
  | .sChw h st g n => some (.ofNat 32 (hdrBits h + 0xa000100 + st.toNat * 0x4000 + g.toNat * 0x400 + n.toNat * 0x10))
  | .sChr h st g n => some (.ofNat 32 (hdrBits h + 0xb000000 + st.toNat * 0x4000 + g.toNat * 0x400 + n.toNat * 0x10))
  | .sBar h st g => some (.ofNat 32 (hdrBits h + 0xc000000 + st.toNat * 0x4000 + g.toNat * 0x400))
  | .sWb h st g => some (.ofNat 32 (hdrBits h + 0xd000000 + st.toNat * 0x4000 + g.toNat * 0x400))
  | .sKill h st => some (.ofNat 32 (hdrBits h + 0xe000000 + st.toNat * 0x4000))
  | .sKillAll h => some (.ofNat 32 (hdrBits h + 0xe000001))
  | .sTok h st g => some (.ofNat 32 (hdrBits h + 0xf000000 + st.toNat * 0x4000 + g.toNat * 0x400))
  | .sResOut h st g r => some (.ofNat 32 (hdrBits h + 0x10000000 + st.toNat * 0x4000 + g.toNat * 0x400 + r.toNat * 0x10))
  | .sResIn h st g r => some (.ofNat 32 (hdrBits h + 0x10000001 + st.toNat * 0x4000 + g.toNat * 0x400 + r.toNat * 0x10))
  | .streamWordDeliver _ _ => none
  | .streamWordDrain _ _ => none
  | .streamCompletion _ _ => none
  | .multicastDetach _ _ _ => none
  | .transferWordArrival _ => none
  | .channelWordPresent _ _ => none
  | .mset h m a => some (.ofNat 32 (hdrBits h + 0x2000000 + m.toNat * 0x20000 + a.toNat * 0x100))
  | .mseti h m i => some (.ofNat 32 (hdrBits h + 0x3000000 + m.toNat * 0x20000 + i.toNat))
  | .mcall h r b => some (.ofNat 32 (hdrBits h + 0x4000000 + r.toNat * 0x4000 + b.toNat))
  | .mgang h r a => some (.ofNat 32 (hdrBits h + 0x5000000 + r.toNat * 0x4000 + a.toNat * 0x100))
  | .macc h k g b => some (.ofNat 32 (hdrBits h + 0x6000000 + k.toNat * 0x80000 + g.toNat * 0x1000 + b.toNat))
  | .maccBankRead _ => none
  | .mup h g w => some (.ofNat 32 (hdrBits h + 0x7000000 + g.toNat * 0x1000 + w.toNat))
  | .mupCompletion _ => none
  | .mtab h r a => some (.ofNat 32 (hdrBits h + 0x8000000 + r.toNat * 0x4000 + a.toNat * 0x100))
  | .mstat h d e => some (.ofNat 32 (hdrBits h + 0x9000000 + d.toNat * 0x4000 + e.toNat))
  | .mabort h => some (.ofNat 32 (hdrBits h + 0xa000000))
  | .mepi h g => some (.ofNat 32 (hdrBits h + 0xb000000 + g.toNat * 0x1000))
  | .mepiCompletion _ => none
  | .muNop => some (.ofNat 32 (0x4000000))
  | .muParam m => some (.ofNat 32 (0x8000000 + m.toNat * 0x800000))
  | .muLda a n m k i => some (.ofNat 32 (0xc000000 + a.toNat * 0x800000 + n.toNat * 0x400000 + m.toNat * 0x80000 + k.toNat * 0x40000 + i.toNat))
  | .muLdb b => some (.ofNat 32 (0x10000000 + b.toNat * 0x800000))
  | .muMac k => some (.ofNat 32 (0x14000000 + k.toNat * 0x2000000))
  | .muZero k => some (.ofNat 32 (0x18000000 + k.toNat * 0x2000000))
  | .muSwap => some (.ofNat 32 (0x1c000000))
  | .muDrain k t e d m c x u => some (.ofNat 32 (0x20000000 + k.toNat * 0x2000000 + t.toNat * 0x400000 + e.toNat * 0x200000 + d.toNat * 0x100000 + m.toNat * 0x20000 + c.toNat * 0x10000 + x.toNat * 0x8000 + u.toNat * 0x1000))
  | .muLoop r m i => some (.ofNat 32 (0x24000000 + r.toNat * 0x2000000 + m.toNat * 0x400000 + i.toNat))
  | .muEndl => some (.ofNat 32 (0x28000000))
  | .muSig b => some (.ofNat 32 (0x2c000000 + b.toNat))
  | .muWait b => some (.ofNat 32 (0x30000000 + b.toNat))
  | .muEnd => some (.ofNat 32 (0x34000000))
  | .gangComplete _ _ => none
  | .gangLate _ _ => none
  | .send h e a t c => some (.ofNat 32 (hdrBits h + 0x2000000 + e.toNat * 0x10000 + a.toNat * 0x1000 + t.toNat * 0x100 + c.toNat))
  | .recv h e a t c => some (.ofNat 32 (hdrBits h + 0x3000000 + e.toNat * 0x10000 + a.toNat * 0x1000 + t.toNat * 0x100 + c.toNat))
  | .recvadd h e a t c => some (.ofNat 32 (hdrBits h + 0x4000000 + e.toNat * 0x10000 + a.toNat * 0x1000 + t.toNat * 0x100 + c.toNat))
  | .sendg h g a c => some (.ofNat 32 (hdrBits h + 0x5000000 + g.toNat * 0x1000 + a.toNat * 0x100 + c.toNat))
  | .cntSet h c a => some (.ofNat 32 (hdrBits h + 0x6000000 + c.toNat * 0x4000 + a.toNat * 0x100))
  | .cntAdd h c i => some (.ofNat 32 (hdrBits h + 0x7000000 + c.toNat * 0x4000 + i.toNat))
  | .cntWait h c i => some (.ofNat 32 (hdrBits h + 0x8000000 + c.toNat * 0x4000 + i.toNat))
  | .cntRd h d c => some (.ofNat 32 (hdrBits h + 0x9000000 + d.toNat * 0x4000 + c.toNat * 0x100))
  | .cntWaitTimeout _ => none
  | .barInit h b i => some (.ofNat 32 (hdrBits h + 0x2000000 + b.toNat * 0x200 + i.toNat))
  | .barArr h b => some (.ofNat 32 (hdrBits h + 0x3000000 + b.toNat * 0x200))
  | .barWait h b => some (.ofNat 32 (hdrBits h + 0x4000000 + b.toNat * 0x200))
  | .barAw h b => some (.ofNat 32 (hdrBits h + 0x5000000 + b.toNat * 0x200))
  | .own h f o c => some (.ofNat 32 (hdrBits h + 0x6000000 + f.toNat * 0x1000 + o.toNat * 0x800 + c.toNat * 0x8))
  | .fence h e => some (.ofNat 32 (hdrBits h + 0x7000000 + e.toNat))
  | .swait h st => some (.ofNat 32 (hdrBits h + 0x8000000 + st.toNat * 0x4000))
  | .ctlRd h d i => some (.ofNat 32 (hdrBits h + 0x9000000 + d.toNat * 0x4000 + i.toNat))
  | .ctlWr h a i => some (.ofNat 32 (hdrBits h + 0xa000000 + a.toNat * 0x4000 + i.toNat))
  | .uiret h => some (.ofNat 32 (hdrBits h + 0xb000000))
  | .tret h => some (.ofNat 32 (hdrBits h + 0xc000000))
  | .halt h => some (.ofNat 32 (hdrBits h + 0xd000000))
  | .yield h => some (.ofNat 32 (hdrBits h + 0xe000000))
  | .ckpt h c => some (.ofNat 32 (hdrBits h + 0xf000000 + c.toNat))
  | .killpt h => some (.ofNat 32 (hdrBits h + 0x10000000))
  | .cfgLoad h l g b => some (.ofNat 32 (hdrBits h + 0x11000000 + l.toNat * 0x40000 + g.toNat * 0x1000 + b.toNat))
  | .cfgLoadCompletion _ _ => none
  | .cfgRun h l a g => some (.ofNat 32 (hdrBits h + 0x12000000 + l.toNat * 0x40000 + a.toNat * 0x400 + g.toNat))
  | .tskEnd h => some (.ofNat 32 (hdrBits h + 0x13000000))
  | .cfgDec h a x v => some (.ofNat 32 (hdrBits h + 0x20000000 + a.toNat * 0x4000 + x.toNat * 0x4 + v.toNat))
  | .tskAbort h a => some (.ofNat 32 (hdrBits h + 0x21000000 + a.toNat * 0x4000))
  | .qOpen h j a => some (.ofNat 32 (hdrBits h + 0x22002000 + j.toNat * 0x4000 + a.toNat * 0x100))
  | .qWait h d j => some (.ofNat 32 (hdrBits h + 0x23000000 + d.toNat * 0x4000 + j.toNat * 0x100))
  | .qClose h j => some (.ofNat 32 (hdrBits h + 0x24000000 + j.toNat * 0x4000))
  | .grpRd h d g => some (.ofNat 32 (hdrBits h + 0x25000000 + d.toNat * 0x4000 + g.toNat))
  | .grpLd h a => some (.ofNat 32 (hdrBits h + 0x26002000 + a.toNat * 0x100))
  | .tkStart h a m => some (.ofNat 32 (hdrBits h + 0x27002000 + a.toNat * 0x4000 + m.toNat * 0x100))
  | .tkStop h a => some (.ofNat 32 (hdrBits h + 0x28000000 + a.toNat * 0x4000))
  | .tkStat h d l => some (.ofNat 32 (hdrBits h + 0x29000000 + d.toNat * 0x4000 + l.toNat))
  | .rgResume h a => some (.ofNat 32 (hdrBits h + 0x2a000000 + a.toNat * 0x4000))
  | .chAlloc h a c => some (.ofNat 32 (hdrBits h + 0x2b000000 + a.toNat * 0x100 + c.toNat))
  | .chFree h c => some (.ofNat 32 (hdrBits h + 0x2c000000 + c.toNat))
  | .commitPoint _ => none
  | .quorumFill _ _ => none
  | .quorumTimeout _ _ => none
  | .quorumKillLanding _ => none
  | .logWriteback _ => none
  | .remoteWritebackTimeout _ => none
  | .pageWalk _ _ => none
  | .scanOut _ _ => none
  | .stillnessFault _ _ => none
  | .replyTimeout _ _ => none
  | .dshootWrite _ _ => none
  | .shootdownDone _ => none
  | .dlogbaseWrite _ _ => none
  | .dsavebaseWrite _ _ => none
  | .dscrubWrite _ _ => none
  | .hbmPatrolScrub _ _ => none
  | .gspPatrolScrub _ _ _ => none
  | .hbmRowRepair _ _ => none
  | .hbmChannelRetire _ _ => none
  | .eventEntry => none
  | .evpopWrite _ => none
  | .placeWrite _ _ => none
  | .migrationComplete _ => none
  | .bkdepthWrite _ _ => none
  | .powerControlInterval _ => none
  | .coolantFault => none
  | .qtailWrite _ _ _ => none
  | .qcfgWrite _ _ _ => none
  | .qbaseWrite _ _ _ => none
  | .semRead _ _ => none
  | .semWrite _ _ _ => none
  | .partWrite _ _ _ _ => none
  | .pwrcapWrite _ _ => none
  | .imgRegister _ _ _ => none
  | .imageRegistrationDone _ => none
  | .registerWrite _ _ _ => none
  | .firmwareUpdate _ _ => none
  | .firmwareBankSwitch => none
  | .fuseRaise _ _ => none
  | .attestation _ _ => none
  | .codeLoad _ _ => none
  | .graftTableLoad _ _ => none
  | .producerKeyWrite _ _ => none
  | .storeFlush _ _ => none
  | .storeDeallocate _ _ _ _ => none
  | .namespaceEntryWrite _ _ _ => none
  | .launchDispatch => none
  | .partitionSaveDone _ => none
  | .launchRetire _ => none
  | .launchResume _ => none
  | .hostLinkDown _ => none
  | .semaphoreFailover _ => none
  | .deviceReset => none
  | .unsupportedRequest _ => none
  | .laneSpare _ _ => none
  | .edgeTableWrite _ _ _ => none
  | .routingEntryWrite _ _ _ => none
  | .contextTableWrite _ _ _ => none
  | .routeForward _ _ => none
  | .routeDeliver _ _ => none
  | .routeReduce _ _ => none
  | .routeStep _ _ => none
  | .peerReadServe _ _ => none
  | .bucketRefill => none
  | .matrixFault _ => none
  | .hostLinkReturn _ => none
  | .fabricLinkDown _ => none
  | .coolantFaultClear => none
  | .writeResponse _ _ => none
  | .secondChannelFailure _ => none

/-- The instruction of a word that has no slot given: the first of the maps, in the order of the opcode table, that
reads it (A, B, L, C and D, M, N, V, then the microwords). -/
def decodeWord (w : BitVec 32) : Option Instr :=
  orElse (decodeIn .a w) <| orElse (decodeIn .b w) <| orElse (decodeIn .l w) <| orElse (decodeIn .c w) <|
    orElse (decodeIn .m w) <| orElse (decodeIn .n w) <| orElse (decodeIn .v w) (decodeMicro w)

/-- The instruction of an opcode-table row whose bits are `w` (bit 0 the least significant bit of the word). -/
def decodeTableWord (nbits w : Nat) : Option Instr :=
  if nbits = 32 then decodeWord (.ofNat 32 w) else none

end Sys2Proof
end

