-- ==== Sys2Proof/Machine/Num.lean ====
section
/-!
DEFINITION. Exact values, number formats and the helpers `sat`, `quant`, `rne32` and `step_sum` (R40 to R52).
-/
namespace Sys2Proof.Machine

/-- An exact value: NaN, an infinity, or a signed dyadic (neg, m, e) = (-1)^neg m 2^e, with signed zeros (R48). -/
inductive XVal where
  | nan
  | inf (neg : Bool)
  | fin (neg : Bool) (m : Nat) (e : Int)
  deriving DecidableEq, Repr

/-- The rounding modes in the order of their codes (R44). -/
inductive Round where
  | rne | rtz | rup | rdn
  deriving DecidableEq, Repr

def Round.ofCode (c : Nat) : Round := match c with
  | 0 => .rne | 1 => .rtz | 2 => .rup | _ => .rdn

/-- A floating format: exponent bits, fraction bits, bias, and whether it has an infinity (R40, R41). -/
structure FloatFmt where
  ebits : Nat
  fbits : Nat
  bias : Nat
  hasInf : Bool
  deriving DecidableEq, Repr

/-- The floating format of a type code (R40, R43); `pk8` holds `e4m3` values. -/
def floatFmt (ty : Nat) : Option FloatFmt := match ty with
  | 0 => some ⟨11, 52, 1023, true⟩
  | 1 => some ⟨8, 23, 127, true⟩
  | 2 => some ⟨8, 7, 127, true⟩
  | 3 => some ⟨5, 10, 15, true⟩
  | 4 | 6 => some ⟨4, 3, 7, false⟩
  | 5 => some ⟨5, 2, 15, true⟩
  | _ => none

/-- The bytes of one value of a type (R199). -/
def typeBytes (ty : Nat) : Nat := match ty with
  | 0 | 10 | 14 => 8
  | 1 | 9 | 13 => 4
  | 2 | 3 | 8 | 12 => 2
  | _ => 1

/-- A signed integer type (R42, R43). -/
def isSignedInt (ty : Nat) : Bool := [7, 8, 9, 10].contains ty
def isUnsignedInt (ty : Nat) : Bool := [11, 12, 13, 14].contains ty
def isInt (ty : Nat) : Bool := isSignedInt ty || isUnsignedInt ty
def isFloat (ty : Nat) : Bool := (floatFmt ty).isSome

/-- The range of an integer type (R42). -/
def intMin (ty : Nat) : Int := if isSignedInt ty then -(2 ^ (8 * typeBytes ty - 1)) else 0
def intMax (ty : Nat) : Int := if isSignedInt ty then 2 ^ (8 * typeBytes ty - 1) - 1 else 2 ^ (8 * typeBytes ty) - 1

/-- The integer an exact signed mantissa and exponent give, when compared at a common exponent. -/
def XVal.signedMant (neg : Bool) (m : Nat) : Int := if neg then -(m : Int) else m

/-- The exact value of an integer. -/
def XVal.ofInt (i : Int) : XVal := .fin (decide (i < 0)) i.natAbs 0

/-- The value of a bit pattern of a floating format (R40, R41). -/
def FloatFmt.decode (f : FloatFmt) (w : Nat) : XVal :=
  let neg := w / 2 ^ (f.ebits + f.fbits) % 2 = 1
  let e := w / 2 ^ f.fbits % 2 ^ f.ebits
  let m := w % 2 ^ f.fbits
  let top := 2 ^ f.ebits - 1
  if f.hasInf && e = top then (if m = 0 then .inf neg else .nan)
  else if !f.hasInf && e = top && m = 2 ^ f.fbits - 1 then .nan
  else if e = 0 then .fin neg m (1 - f.bias - f.fbits)
  else .fin neg (2 ^ f.fbits + m) ((e : Int) - f.bias - f.fbits)

/-- The value of a bit pattern of a type. -/
def decodeType (ty w : Nat) : XVal :=
  match floatFmt ty with
  | some f => f.decode w
  | none =>
    let n := 8 * typeBytes ty
    if isSignedInt ty then .ofInt (BitVec.ofNat n w).toInt else .ofInt (w % 2 ^ n : Nat)

/-- The canonical NaN of a floating format (R41). -/
def FloatFmt.nanBits (f : FloatFmt) : Nat :=
  if f.hasInf then (2 ^ f.ebits - 1) * 2 ^ f.fbits + 2 ^ (f.fbits - 1) else 2 ^ (f.ebits + f.fbits) - 1

/-- The magnitude bits of an infinity, and of the largest finite value (R40, R41). -/
def FloatFmt.infBits (f : FloatFmt) : Nat := (2 ^ f.ebits - 1) * 2 ^ f.fbits
def FloatFmt.maxBits (f : FloatFmt) : Nat := if f.hasInf then f.infBits - 1 else 2 ^ (f.ebits + f.fbits) - 2

/-- A magnitude divided by 2^k and rounded (R44). A shift past the magnitude's length rounds like one just past it, so
it is cut there. -/
def roundShift (r : Round) (neg : Bool) (m k' : Nat) : Nat :=
  let k := min k' (Nat.log2 m + 3)
  let q := m / 2 ^ k
  let rem := m % 2 ^ k
  let up := match r with
    | .rne => decide (2 ^ k < 2 * rem) || (decide (2 * rem = 2 ^ k) && decide (q % 2 = 1))
    | .rtz => false
    | .rup => !neg && decide (rem ≠ 0)
    | .rdn => neg && decide (rem ≠ 0)
  if up then q + 1 else q

/-- A magnitude m 2^e rounded to a multiple of 2^q. -/
def roundAt (r : Round) (neg : Bool) (m : Nat) (e q : Int) : Nat :=
  if q ≤ e then m * 2 ^ (e - q).toNat else roundShift r neg m (q - e).toNat

/-- The magnitude bits of a nonzero finite value rounded with an unbounded exponent: a number above `maxBits` has
overflowed (R45). -/
def FloatFmt.roundBits (f : FloatFmt) (r : Round) (neg : Bool) (m : Nat) (e : Int) : Nat :=
  let lead : Int := Nat.log2 m + e
  let low : Int := 1 - f.bias - f.fbits
  let q := max (lead - f.fbits) low
  let n := roundAt r neg m e q
  if n < 2 ^ f.fbits then n
  else ((q - low).toNat + 1) * 2 ^ f.fbits + (n - 2 ^ f.fbits)

/-- The bits of an overflow by its mode and sign (R45). -/
def FloatFmt.overflow (f : FloatFmt) (r : Round) (neg : Bool) : Nat :=
  let sign := if neg then 2 ^ (f.ebits + f.fbits) else 0
  let toInf := match r with
    | .rne => true
    | .rtz => false
    | .rup => !neg
    | .rdn => neg
  if toInf then (if f.hasInf then sign + f.infBits else f.nanBits) else sign + f.maxBits

/-- `quant` to a floating format (R48). -/
def FloatFmt.quant (f : FloatFmt) (r : Round) (x : XVal) : Nat :=
  match x with
  | .nan => f.nanBits
  | .inf neg => if f.hasInf then (if neg then 2 ^ (f.ebits + f.fbits) else 0) + f.infBits else f.nanBits
  | .fin neg m e =>
    let sign := if neg then 2 ^ (f.ebits + f.fbits) else 0
    if m = 0 then sign
    else
      let b := f.roundBits r neg m e
      if f.maxBits < b then f.overflow r neg else sign + b

/-- An exact finite value rounded to an integer (R48). -/
def roundInt (r : Round) (neg : Bool) (m : Nat) (e : Int) : Int := XVal.signedMant neg (roundAt r neg m e 0)

/-- `quant` to a type, as a bit pattern (R48). -/
def quant (ty : Nat) (r : Round) (x : XVal) : Nat :=
  match floatFmt ty with
  | some f => f.quant r x
  | none =>
    let n := 8 * typeBytes ty
    let clamp (i : Int) : Int := max (intMin ty) (min (intMax ty) i)
    let v : Int := match x with
      | .nan => 0
      | .inf neg => if neg then intMin ty else intMax ty
      | .fin neg m e => clamp (roundInt r neg m e)
    (BitVec.ofInt n v).toNat

/-- `rne32` (R48). -/
def rne32 (x : XVal) : Nat := quant 1 .rne x

/-- The two values of a pair of dyadics at a common exponent. -/
def align (m : Int) (e : Int) (m' : Int) (e' : Int) : Int × Int × Int :=
  let q := min e e'
  (m * 2 ^ (e - q).toNat, m' * 2 ^ (e' - q).toNat, q)

/-- Order of two values that are not NaN. -/
def XVal.lt : XVal → XVal → Bool
  | .nan, _ => false
  | _, .nan => false
  | .inf a, .inf b => a && !b
  | .inf a, .fin .. => a
  | .fin .., .inf b => !b
  | .fin n m e, .fin n' m' e' =>
    let (x, y, _) := align (XVal.signedMant n m) e (XVal.signedMant n' m') e'
    decide (x < y)

/-- Equality of two values that are not NaN; the two zeros are equal. -/
def XVal.eq : XVal → XVal → Bool
  | .inf a, .inf b => a == b
  | .fin n m e, .fin n' m' e' =>
    let (x, y, _) := align (XVal.signedMant n m) e (XVal.signedMant n' m') e'
    decide (x = y)
  | _, _ => false

def XVal.isNan : XVal → Bool
  | .nan => true
  | _ => false
def XVal.isInf : XVal → Bool
  | .inf _ => true
  | _ => false
def XVal.isZero : XVal → Bool
  | .fin _ m _ => decide (m = 0)
  | _ => false
def XVal.isNeg : XVal → Bool
  | .nan => false
  | .inf n => n
  | .fin n _ _ => n

def XVal.neg : XVal → XVal
  | .nan => .nan
  | .inf n => .inf !n
  | .fin n m e => .fin (!n) m e
def XVal.abs : XVal → XVal
  | .nan => .nan
  | .inf _ => .inf false
  | .fin _ m e => .fin false m e

/-- A value times a power of two, exactly (R49). -/
def XVal.scale (x : XVal) (k : Int) : XVal := match x with
  | .fin n m e => .fin n m (e + k)
  | y => y

/-- An exact product: a zero factor gives a zero of the combined sign, a zero times an infinity NaN (R49, R52). -/
def XVal.mul : XVal → XVal → XVal
  | .nan, _ => .nan
  | _, .nan => .nan
  | .inf a, .inf b => .inf (a != b)
  | .inf a, .fin n m _ => if m = 0 then .nan else .inf (a != n)
  | .fin n m _, .inf a => if m = 0 then .nan else .inf (a != n)
  | .fin n m e, .fin n' m' e' => .fin (n != n') (m * m') (e + e')

/-- The exact finite sum of a list, as mantissa and exponent. -/
def dyadicSum : List XVal → Int × Int
  | [] => (0, 0)
  | .fin n m e :: t =>
    let (m', e') := dyadicSum t
    if m = 0 then (m', e') else if m' = 0 then (XVal.signedMant n m, e) else
    let (x, y, q) := align (XVal.signedMant n m) e m' e'
    (x + y, q)
  | _ :: t => dyadicSum t

/-- An exact sum with the zero sign of R52 for the mode, infinities and NaN as R50 gives them. -/
def xsum (r : Round) (xs : List XVal) : XVal :=
  if xs.any XVal.isNan then .nan
  else
    let pos := xs.any (fun x => x.isInf && !x.isNeg)
    let neg := xs.any (fun x => x.isInf && x.isNeg)
    if pos && neg then .nan
    else if pos then .inf false
    else if neg then .inf true
    else
      let (m, e) := dyadicSum xs
      if m = 0 then
        .fin (decide (r = .rdn) || xs.all (fun x => x.isZero && x.isNeg)) 0 0
      else .fin (decide (m < 0)) m.natAbs e

def XVal.add (r : Round) (a b : XVal) : XVal := xsum r [a, b]

/-- `sat` for a type (R48). -/
def sat (ty : Nat) (x : XVal) : XVal :=
  match floatFmt ty with
  | some f =>
    let top := f.decode f.maxBits
    match x with
    | .nan => .nan
    | .inf n => if n then top.neg else top
    | .fin n m e => if top.lt (.fin false m e) then (if n then top.neg else top) else .fin n m e
  | none =>
    let lo := XVal.ofInt (intMin ty)
    let hi := XVal.ofInt (intMax ty)
    match x with
    | .nan => .nan
    | y => if y.lt lo then lo else if hi.lt y then hi else y

/-- An exact quotient as a dyadic with a sticky last bit, fit for one rounding to any format here; zero and infinite
operands are the caller's. -/
def quotient (neg : Bool) (num den : Nat) (e : Int) : XVal :=
  let k := 80 + Nat.log2 den
  let q := num * 2 ^ k / den
  let sticky := if num * 2 ^ k % den = 0 then 0 else 1
  .fin neg (2 * q + sticky) (e - k - 1)

/-- One matrix K-step (R50). The operands are unscaled values; `s` is the sum of the two scale exponents. -/
def stepSum (acc : XVal) (ps : List (XVal × XVal)) (s : Int) (f64 : Bool) : Nat :=
  let ty := if f64 then 0 else 1
  let prods := ps.map (fun p => p.1.mul p.2)
  quant ty .rne (xsum .rne (acc :: prods.map (fun p => p.scale s)))

end Sys2Proof.Machine
end

