-- ==== Sys2Proof/Machine/State.lean ====
section
/-!
DEFINITION. The state of one LD-640 package as plain data, and the state after reset.

Sparse tables are lists of numbered entries in rising order. A table written by `KMap.set` lists no entry equal to
its default. Tiles are numbered by physical position, 17 G + p for position p of grove G = 10 die + grove (R287); groves 0 to
39; dies 0 to 3; the units that hold a code store are the tiles and, from 680 on, the grove sequencers.
-/
namespace Sys2Proof.Machine

/-- A sparse table: entries in rising order of their number. -/
abbrev KMap (α : Type) := List (Nat × α)

/-- The entry of a number, or the default. -/
def KMap.get {α : Type} (d : α) : KMap α → Nat → α
  | [], _ => d
  | (k', v) :: t, k => if k = k' then v else KMap.get d t k

/-- The entry of a number, if it is listed. -/
def KMap.get? {α : Type} : KMap α → Nat → Option α
  | [], _ => none
  | (k', v) :: t, k => if k = k' then some v else KMap.get? t k

/-- The table without a number. -/
def KMap.erase {α : Type} (m : KMap α) (k : Nat) : KMap α := m.filter (fun e => e.1 != k)

/-- The table with the entry of a number put in its place. -/
def KMap.put {α : Type} : KMap α → Nat → α → KMap α
  | [], k, v => [(k, v)]
  | (k', v') :: t, k, v =>
    if k < k' then (k, v) :: (k', v') :: t
    else if k = k' then (k, v) :: t
    else (k', v') :: KMap.put t k v

/-- The table with an entry set, in canonical form: the default is not listed. -/
def KMap.set {α : Type} [DecidableEq α] (d : α) (m : KMap α) (k : Nat) (v : α) : KMap α :=
  if v = d then m.erase k else m.put k v

/-- The numbers of a table rise strictly. -/
def KMap.sorted {α : Type} : KMap α → Bool
  | [] => true
  | [_] => true
  | (k, _) :: (k', v') :: t => decide (k < k') && KMap.sorted ((k', v') :: t)

/-- The canonical form: rising numbers, and no entry equal to the default. -/
def KMap.canonical {α : Type} [DecidableEq α] (d : α) (m : KMap α) : Bool :=
  KMap.sorted m && m.all (fun e => e.2 != d)

/-- Byte memory: the listed bytes, in canonical form (every unlisted byte reads 0, log entry 4). -/
abbrev Memory := List Host.Cell

/-- What an unlisted address reads as (log entry 4). -/
def Memory.blank : Byte := 0

/-- The canonical form of a memory: addresses strictly rising, no entry equal to an unlisted byte's value. -/
def Memory.wf (m : Memory) : Bool := KMap.canonical Memory.blank m

/-- A unit that runs bundles: the tile at a physical position, or a grove sequencer. -/
inductive Agent where
  | tile (t : Nat)
  | seq (g : Nat)
  deriving DecidableEq, Repr

/-- A destination register of a result (R109, R115). -/
inductive Dest where
  | s (n : Nat) | a (n : Nat) | q (n : Nat) | g (n : Nat)
  deriving DecidableEq, Repr

/-- A scalar result still to land, with the bundle times left and the bundle that wrote it, by its number and its place
(R115); a late writer's result held for a realignment bundle has no bundle times left to count (R117). -/
structure Pending where
  dest : Dest
  val : Vec
  delay : Nat
  num : Nat
  pc : Nat
  word : BitVec 32
  slot : Nat
  deriving DecidableEq, Repr

/-- What a request of slot A to the grove scratchpad does (R167 to R169). -/
inductive ReqKind where
  | load (signed : Bool)
  | store
  | add | min | max | and | or | xor | swap | cas
  deriving DecidableEq, Repr

/-- A request to the grove scratchpad on its way to its bank, where it performs, and its reply (R116, R168, R289); `val` is
the reply once it has performed while a handler runs (R119), and `num` the number of its bundle (R118). -/
structure Req where
  kind : ReqKind
  dest : Option Dest
  ea : Nat
  size : Nat
  data : Word
  cmp : Word
  pc : Nat
  word : BitVec 32
  inTask : Bool
  num : Nat := 0
  val : Option Word := none
  deriving DecidableEq, Repr

/-- A non-scalar word in its queue with the operands its bundle's dispatch read (R111). `begun` says that a word which
holds its queue has issued, and `pos` how far it is: words moved, or the cycle of a wait (R178, R182, R443). -/
structure Entry where
  word : BitVec 32 := 0
  slot : Slot := .v
  pc : Nat := 0
  num : Nat := 0
  ext : Option (BitVec 24) := none
  va : Addr := 0
  vb : Addr := 0
  g0 : Vec := 0
  g1 : Vec := 0
  g2 : Vec := 0
  begun : Bool := false
  pos : Nat := 0
  deriving DecidableEq, Repr

/-- An active loop (R107, R172). -/
structure Loop where
  start : Nat
  last : Nat
  trip : BitVec 32
  index : BitVec 32
  deriving DecidableEq, Repr

/-- A wait at a barrier, from the phase it found until it takes the outcome of the phase that released it: status, info
and the whole report of a refused configuration load (R128, R183). -/
inductive Wait where
  | pending
  | released (status : BitVec 8) (info : BitVec 16) (report : Option Word)
  deriving DecidableEq, Repr

/-- A barrier (R128). `report` is the whole report of a refused configuration load in the current phase (R79, R183);
`waits` are its waits: that of the V word under each number of running handlers, and 9 for `mu.wait` (R254). -/
structure Barrier where
  init : Bool := false
  expected : BitVec 16 := 0
  arrived : BitVec 16 := 0
  phase : BitVec 1 := 0
  status : BitVec 8 := 0
  info : BitVec 16 := 0
  report : Option Word := none
  waits : KMap Wait := []
  deriving DecidableEq, Repr

/-- A trap or fault found between dispatches (R162); `pc` where the rule names the bundle, otherwise the next. `entry` is the
queue word that met it and issues again if another trap is taken first (R264). -/
structure Trap where
  cause : BitVec 8
  info : Word
  slot : Nat
  pc : Option Nat := none
  entry : Option Entry := none
  deriving DecidableEq, Repr

/-- What the landing buffer captures (R119), the traps found but not taken (R264), the bundle time, and whether the
bundle that comes next begins an iteration (R108, R120). -/
structure Image where
  num : Nat := 0
  boundary : Option Int := none
  traps : List Trap := []
  lands : List Pending := []
  lates : List Pending := []
  reqs : List Req := []
  queues : KMap (List Entry) := []
  deriving DecidableEq, Repr

/-- The kinds of handler (R130, R261, R298). -/
inductive HandlerKind where
  | trap | user | event
  deriving DecidableEq, Repr

/-- A running handler: its kind, the loop depth at entry and the landing buffer of the code it interrupted. -/
structure Handler where
  kind : HandlerKind
  depth : Nat
  image : Image
  deriving DecidableEq, Repr

/-- Whether a unit runs (R351). Frozen, migrating and saved are kept beside it. -/
inductive RunState where
  | idle | running | halted | escalated
  deriving DecidableEq, Repr

/-- The outcome field of `tstatus` (R135). -/
inductive TaskStatus where
  | committed | conflict | softError | quorum | software | fault | none
  deriving DecidableEq, Repr

/-- The control registers of a core or of a grove sequencer (R121, R297), at their reset values. -/
structure Ctl where
  asid : BitVec 9 := 0
  codebase : BitVec 11 := 0
  codebound : BitVec 12 := 0
  tvec : BitVec 11 := 0
  trapcause : BitVec 8 := 0
  trappc : BitVec 11 := 0
  trapinfo : Word := 0
  uivec : BitVec 11 := 0
  uipend : Word := 0
  uimask : Word := BitVec.allOnes 64
  spillbase : BitVec 8 := 0
  spillpanes : BitVec 9 := 0
  tstamp : BitVec 48 := 0
  tgroup : BitVec 8 := 0
  tcause : BitVec 8 := 0
  treruns : BitVec 8 := 0
  tended : Bool := false
  topen : Bool := false
  tstat : TaskStatus := .none
  trerun : BitVec 8 := 4
  pmax : BitVec 32 := 0x00100000
  preq : BitVec 2 := 0
  gangwait : BitVec 32 := 0x00010000
  mclag : BitVec 16 := 256
  evvec : BitVec 11 := 0
  evpc : BitVec 11 := 0
  deriving DecidableEq, Repr

/-- The sequencer of a tile core or of a grove (R107 to R120, R297). The pc is an integer, so that a branch out of
range is seen when its target is fetched (R144). `began` says that the bundle being dispatched begins an iteration, and
`boundary` that the next bundle is the first of one (R108). -/
structure Seq where
  pc : Int := 0
  run : RunState := .idle
  s : KMap Word := []
  a : KMap Addr := []
  q : KMap (BitVec 1) := []
  loops : List Loop := []
  bars : KMap Barrier := []
  lands : List Pending := []
  lates : List Pending := []
  reqs : List Req := []
  queues : KMap (List Entry) := []
  num : Nat := 0
  prefixes : KMap (BitVec 24) := []
  handlers : List Handler := []
  shadow : KMap Word := []
  inserted : List Nat := []
  noTrap : Bool := false
  uiGap : Bool := true
  evGap : Bool := true
  boundary : Bool := false
  began : Bool := false
  branch : Option Int := none
  next : Option Int := none
  loopDone : Bool := false
  traps : List Trap := []
  ctl : Ctl := {}
  deriving DecidableEq, Repr

/-- A residue register (R60, R109). -/
structure Residue where
  lanes : KMap (BitVec 32) := []
  count : BitVec 32 := 0
  deriving DecidableEq, Repr

/-- The decode a header sets at an input or an output port (R32, R205). -/
structure Decode where
  fmt : BitVec 4
  scale : BitVec 8
  deriving DecidableEq, Repr

/-- One slot of an edge: its kind (0 data or a control token, 1 header, 2 firebreak, R13), its word, and the 32-bit parts of
it that disagree with their parity bit (R37). -/
structure Slot512 where
  kind : BitVec 2
  data : Vec
  bad : BitVec 16 := 0
  deriving DecidableEq, Repr

/-- A word on its way through the fabric: header fields, payload, and whom its write responses go to (R428, R432): a tile,
with 0 for the write-back of its log or 1 above the issue number of a command or `macc`, and the element sent. `reduced`
marks the output of a collective context, `packet` the packet of a word that is sent again (R434, R439), `src` the package that
sent it, and `back` the port at which it came in from another one, to which its response returns (R428, R433). -/
structure FabricWord where
  kind : BitVec 2
  addr : Addr
  data : Vec
  poison : Bool := false
  senders : List (Nat × Nat × Nat) := []
  reduced : Bool := false
  packet : Option Nat := none
  src : BitVec 10 := 0
  back : Option Nat := none
  deriving DecidableEq, Repr

/-- A response to a request of another package, sent on the link it came by: its header, the cause, 0 for none, and the word read
(R428, R432, R433). -/
structure FarAnswer where
  header : BitVec 128
  cause : BitVec 8
  data : Vec := 0
  deriving DecidableEq, Repr

/-- The reply to a peer read on its way to its command: 1 above its issue number, the element, the cause, 0 for none, the address of
the request, and the word (R433). -/
structure PeerReply where
  key : Nat
  elem : Nat
  cause : BitVec 8
  addr : Addr
  data : List Byte := []
  deriving DecidableEq, Repr

/-- A write response on its way to its sender: for which command and element, the cause, 0 for none, and the word where it
is to be sent again (R432, R434). -/
structure Response where
  key : Nat
  elem : Nat
  cause : BitVec 8
  word : Option FabricWord := none
  deriving DecidableEq, Repr

/-- The stream commands by what they do (R208). -/
inductive CmdKind where
  | feed | drain | copy | gather | scatter | gatherCopy | scatterCopy
  | recirc | const | drop | mcPort | mcGeo | chw | chr | bar | wb | tok | resOut | resIn
  deriving DecidableEq, Repr

/-- A formed value on its way to memory: its element, where it goes, its bytes, the index value of the row it lies in, and the word of
the command's copies that it came with (R206, R210, R216, R316). -/
structure Due where
  elem : Nat
  addr : Addr
  bytes : List Byte
  row : Nat := 0
  word : Nat := 0
  deriving DecidableEq, Repr

/-- A running stream command with its captured geometries and its position (R194, R230). `due` holds the values formed and not yet
written, `row` the row of the first value of a word partly packed, `ahead` elements read before their turn (R316), and `begun` the tiles
whose weight buffer it has begun to write (R332). `unacked` holds its peer-edge
words without a write response, by element and cycle of sending (R224, R432), `resend` those to be sent again (R434); `reply` is the
word of a peer read (R433) or of `s.const` (R212), `asked` the element whose peer read is out, `taken` counts bytes of `pk8` blocks behind it, and `total` the words that a
multicast has put into its window, `ended` that the last one is among them, and `offs` their places in a `pk8` target (R214 to
R216). -/
structure Cmd where
  kind : CmdKind
  entry : Entry
  geo : Vec := 0
  other : Vec := 0
  index : Vec := 0
  port : Nat := 0
  num : Nat := 0
  pos : Nat := 0
  sent : Nat := 0
  header : Bool := true
  buf : List Byte := []
  reply : List Byte := []
  prev : BitVec 32 := 0
  inTask : Bool := false
  members : List Nat := []
  accepted : KMap Nat := []
  detached : List Nat := []
  lagSince : KMap Nat := []
  window : List Slot512 := []
  before : List Nat := []
  waitSince : Nat := 0
  paused : Bool := false
  frozen : Bool := false
  cause : BitVec 8 := 0
  done : Bool := false
  taken : Nat := 0
  total : Nat := 0
  ended : Bool := false
  offs : List Nat := []
  written : KMap Byte := []
  lane : Nat := 0
  due : List Due := []
  row : Nat := 0
  ahead : KMap (List Byte) := []
  begun : List Nat := []
  asked : Option Nat := none
  unacked : List (Nat × Nat) := []
  resend : List FabricWord := []
  deriving DecidableEq, Repr

/-- The fault record of a handle (R186, R228). -/
structure FaultRecord where
  cause : BitVec 8
  info : Word
  deriving DecidableEq, Repr

/-- The stream engines of a tile (R194 to R232). `checked` holds, by issue number of a command, the number of the block of a verified
read that has passed its check (R225). -/
structure Streams where
  cmds : KMap Cmd := []
  faults : KMap FaultRecord := []
  ox : KMap Decode := []
  ixDue : KMap Nat := []
  issued : Nat := 0
  responses : List Response := []
  checked : KMap Nat := []
  replies : List PeerReply := []
  deriving DecidableEq, Repr

/-- The result of one firing in the pipeline stages of an element (R9, R10): the cycles until it leaves S6, more than six
while it has not entered S1 (R19), the slots it has reserved on routed and control edges with what goes there (R15), those
on carry edges, and the words of the result itself, sent or not (R37). -/
structure Staged where
  left : Nat
  sends : List (Nat × Slot512) := []
  carries : List (Nat × Slot512) := []
  results : List Slot512 := []
  deriving DecidableEq, Repr

/-- An element's registers (R10, R11, R32, R97, R99, R106): its counters, its decoders, what its pipeline stages hold (`pipe`,
the oldest first, the accumulator of S5 and the header count of S6), and the counters (bit 2 for the header count) and
accumulator parts that disagree with their parity bits (R37). -/
structure Elem where
  lc0 : BitVec 16 := 0
  lc1 : BitVec 16 := 0
  decA : Option Decode := none
  decB : Option Decode := none
  decC : Option Decode := none
  acc : Option Vec := none
  tags : BitVec 16 := 0
  pipe : List Staged := []
  lcBad : BitVec 3 := 0
  accBad : BitVec 16 := 0
  frozen : Bool := false
  deriving DecidableEq, Repr

/-- A router operator's registers (R10, R23). -/
structure RouterOp where
  held : Option Slot512 := none
  looping : Bool := false
  frozen : Bool := false
  deriving DecidableEq, Repr

/-- An installed configuration image (R75 to R77); `bad` names the nodes whose stored word disagrees with its parity bit
(R37). -/
structure CfgImage where
  elems : KMap (BitVec 128) := []
  routers : KMap (BitVec 64) := []
  edges : List (BitVec 64) := []
  carries : KMap (BitVec 64) := []
  preload : KMap (List Vec) := []
  saveMask : BitVec 128 := 0
  bad : List Nat := []
  deriving DecidableEq, Repr

/-- A configuration load under way (R191). -/
structure CfgLoad where
  entry : Entry
  slot : Nat
  bar : Nat
  deriving DecidableEq, Repr

/-- The dataflow array of a tile (R10 to R39, R133). -/
structure Fabric where
  slots : KMap CfgImage := []
  loads : KMap CfgLoad := []
  active : Option Nat := none
  edges : KMap (List Slot512) := []
  carry : KMap (List Slot512) := []
  elems : KMap Elem := []
  ops : KMap RouterOp := []
  latch : Bool := false
  decision : Option (BitVec 2 × BitVec 2) := none
  draining : Bool := false
  fed : List Nat := []
  deriving DecidableEq, Repr

/-- A remote write, in a task's log sent after its commit point: a word of a peer edge of the die, or bytes of a namespace
(R318, R432, R435). -/
inductive Remote where
  | peer (edge : Nat) (addr : Addr) (data : Vec) (kind : BitVec 2)
  | store (port nsid offset : Nat) (data : List Byte)
  deriving DecidableEq, Repr

/-- A tile event a commit point posts: the channel, the word offset and the two lanes (R218, R294). -/
structure TokEvent where
  channel : Nat
  offset : Nat
  lanes : Word
  deriving DecidableEq, Repr

/-- The open task of a tile: the record of R133, the log and the signature (R317, R320). `boundary` says that its `cfg.run`
bundle begins an iteration (R108), and `part` lists the 4-byte words of which some write of the log covers a part (R340). -/
structure Task where
  pc : Nat := 0
  s : KMap Word := []
  a : KMap Addr := []
  q : KMap (BitVec 1) := []
  loops : List Loop := []
  g : KMap Vec := []
  nz : KMap Residue := []
  bars : KMap Barrier := []
  slot : Nat := 0
  key : Nat := 0
  seen : Nat := 0
  log : KMap Byte := []
  present : List Nat := []
  chanSet : List Nat := []
  remote : List Remote := []
  tokens : List TokEvent := []
  signature : BitVec 1024 := 0
  soft : Nat := 0
  requested : Bool := false
  committed : Bool := false
  acks : Bool := false
  boundary : Bool := false
  part : List Nat := []
  killPending : Bool := false
  rerunning : Bool := false
  deriving DecidableEq, Repr

/-- An operand panel: its type code, rows, columns and the bit patterns of its rows (R250, R251). -/
structure Panel where
  ty : Nat
  scale : BitVec 8
  rows : Nat
  cols : Nat
  vals : List (List Word)
  deriving DecidableEq, Repr

/-- A level of the micro loop stack (R253). -/
structure MicroLoop where
  start : Nat
  left : Nat
  deriving DecidableEq, Repr

/-- A running routine (R240, R254, R331). -/
structure Routine where
  index : Nat
  upc : Nat
  bar : Nat
  inTask : Bool
  gang : Option Nat := none
  atEnd : Bool := false
  begun : Bool := false
  deriving DecidableEq, Repr

/-- A `macc` token (R241): its physical bank, its barrier, the routines called before it, what it read from the bank,
and its writes as a command without a handle. -/
structure Token where
  bank : Nat
  bar : Nat
  after : Nat
  cells : Option (List Word) := none
  cmd : Cmd
  deriving DecidableEq, Repr

/-- A `mup` or `mepi` load under way: its next element, and the bytes that a `mepi` has read (R242, R244). -/
structure MatrixLoad where
  entry : Entry
  first : Nat
  pos : Nat := 0
  bytes : List Nat := []
  frozen : Bool := false
  deriving DecidableEq, Repr

/-- The matrix unit (R235, R245). -/
structure Matrix where
  bank0 : KMap (BitVec 32) := []
  bank1 : KMap (BitVec 32) := []
  f : BitVec 1 := 0
  shadow : KMap Word := []
  active : KMap Word := []
  shape : Word := 0
  panelA : Option Panel := none
  panelB : Option Panel := none
  mask : Word := 0
  loops : List MicroLoop := []
  table : KMap (BitVec 16) := []
  store : KMap (BitVec 32) := []
  epi : List (BitVec 128) := []
  position : Option (Nat × Nat) := none
  tokens : List Token := []
  running : Option Routine := none
  started : Nat := 0
  done : BitVec 32 := 0
  cause : BitVec 8 := 0
  info : BitVec 16 := 0
  aborted : Bool := false
  upc : Nat := 0
  routine : Nat := 0
  mups : List MatrixLoad := []
  mepis : List MatrixLoad := []
  staged : List (Nat × List Byte) := []
  deriving DecidableEq, Repr

/-- An entry of a TLB: ASID, page size (true 1 GiB), VPN, permissions and page (R132, R367). -/
structure TlbEntry where
  asid : BitVec 9
  big : Bool
  vpn : Nat
  r : Bool
  w : Bool
  page : Nat
  deriving DecidableEq, Repr

/-- A frozen region's record at one tile (R370 to R373, R377): `ending` says that it ends once its scan-out is done (R347, R371),
and `drawn` numbers the bytes that scan-out has written to the tile's save slot. -/
structure Freeze where
  reason : BitVec 8
  region : Nat
  faults : List (Nat × Addr)
  taskOpen : Bool := false
  scanned : Bool := false
  since : Nat := 0
  ending : Bool := false
  drawn : Nat := 0
  deriving DecidableEq, Repr

/-- A word in a landing queue (R178). -/
structure Landed where
  tag : BitVec 4
  data : Vec
  deriving DecidableEq, Repr

/-- Where a pre-emption or a migration of a unit stands (R267 to R270, R308): requested since a cycle; landing, by the
live-range entry of a `ckpt`, with the registers and the residue registers that had a result in flight; or saved. A quorum kill that lands drains the
region too, and what stood before it comes back (R272). -/
inductive PreemptState where
  | requested (since : Nat)
  | landing (ckpt : Option Nat) (full : Bool) (fly : List Dest) (held : List Nat)
  | killing (request : Option Nat)
  | saved
  deriving DecidableEq, Repr

/-- A tile (R107 to R136); `parityDue` is a soft error charged to the next activation (R39), and `moved` says that it has
moved in this cycle (R376). -/
structure Tile where
  seq : Seq := {}
  own : KMap (BitVec 1) := []
  g : KMap Vec := []
  nz : KMap Residue := []
  ac : KMap (BitVec 32) := []
  str : Streams := {}
  fab : Fabric := {}
  task : Option Task := none
  mx : Matrix := {}
  landing : KMap (List Landed) := []
  tlb : List TlbEntry := []
  live : KMap (BitVec 128) := []
  freeze : Option Freeze := none
  preempt : Option PreemptState := none
  cntSince : KMap Nat := []
  cntAdds : KMap (BitVec 32) := []
  cntKept : List Nat := []
  parityDue : Bool := false
  moved : Bool := false
  deriving DecidableEq, Repr

/-- An event record (R299). -/
structure EvRecord where
  w0 : Word
  w1 : Word
  deriving DecidableEq, Repr

/-- A migration under way: the position, the tile left and the tile entered (R308). -/
structure Migration where
  logical : Nat
  src : Nat
  dst : Nat
  newRet : BitVec 5
  deriving DecidableEq, Repr

/-- A grove (R287 to R308). `evLast` is the tile whose event entered the queue last before this cycle, `evCycle` the sources
of the events that entered in it (R298), and `served` the input port that took a token last (R306). -/
structure Grove where
  seq : Seq := {}
  chans : KMap Word := []
  stilllimit : BitVec 32 := 0x01000000
  replylimit : BitVec 32 := 0x00100000
  place : BitVec 5 := 31
  bkrate : BitVec 17 := 0x10000
  bkdepth : BitVec 16 := 4096
  bklevel : Nat := 4096 * 256
  bkLimit : BitVec 17 := 0x10000
  events : List EvRecord := []
  waiting : List EvRecord := []
  evLast : Nat := 15
  evCycle : List Nat := []
  served : Nat := 255
  migration : Option Migration := none
  savedTiles : KMap Tile := []
  savedSeq : Option Seq := none
  preempt : Option PreemptState := none
  stopped : Bool := false
  deriving DecidableEq, Repr

/-- A quorum join that is not free (R338 to R345); `asid` and `vpns` name the pages that `q.open` translated (R369). -/
structure Join where
  released : Bool := false
  filled : Bool := false
  grove : Nat
  group : Nat
  q : Nat
  fill : Nat
  op : Nat
  deadline : Option Nat
  pages : List (Nat × Nat)
  tlen : Nat
  subPages : List (Nat × Nat)
  weights : List (BitVec 32)
  asid : BitVec 9 := 0
  vpns : List Nat := []
  arrived : List Nat := []
  deriving DecidableEq, Repr

/-- An open gang instance on a group (R331). -/
structure Gang where
  routine : Nat
  bar : Nat
  deadline : Nat
  joined : List Nat := []
  finished : List Nat := []
  deriving DecidableEq, Repr

/-- A commit request at a die (R319, R374). -/
structure CommitReq where
  tile : Nat
  group : Nat
  key : Nat
  cycle : Nat
  deriving DecidableEq, Repr

/-- The remote writes of a committed log still to be written back, the write responses awaited for the first of them, since when, and
whether management firmware has been told that they do not come (R318, R375). -/
structure Outgoing where
  tile : Nat
  items : List Remote
  awaited : Nat := 0
  since : Option Nat := none
  told : Bool := false
  deriving DecidableEq, Repr

/-- A die (R363 to R378, R430); `committed` is the cycle of its last commit point (R374). -/
structure Die where
  groups : KMap (BitVec 256) := []
  joins : KMap Join := []
  gangs : KMap Gang := []
  commits : List CommitReq := []
  committed : Option Nat := none
  frontier : KMap Nat := []
  writeback : List Outgoing := []
  tlb : KMap (List TlbEntry) := []
  dlogbase : Word := 0
  dsavebase : Word := 0
  dscrub : BitVec 8 := 40
  dshva : BitVec 56 := 0
  dshoot : Option (BitVec 10 × BitVec 56) := none
  dshootLast : BitVec 10 := 0
  shootWaiting : List (BitVec 10) := []
  dcerr : KMap (BitVec 32) := []
  still : KMap Nat := []
  edges : KMap Word := []
  deriving DecidableEq, Repr

/-- A launch queue (R389, R395 to R397). -/
structure LaunchQueue where
  base : BitVec 46 := 0
  cfg : Word := 0
  tail : BitVec 32 := 0
  head : BitVec 32 := 0
  done : BitVec 32 := 0
  retired : List Nat := []
  since : Nat := 0
  deriving DecidableEq, Repr

/-- A launch in a partition (R399 to R404). -/
structure Launch where
  queue : Nat
  num : Nat
  prio : Nat
  partn : Nat
  deriving DecidableEq, Repr

/-- What runs in a partition (R399 to R403); `resumed` says that the running launch has come back from a pre-emption (R404). -/
structure PartRun where
  running : Option Launch := none
  saved : Option Launch := none
  waiting : Option Launch := none
  resumed : Option Nat := none
  faulted : Option (BitVec 8) := none
  digests : List (BitVec 256) := []
  deriving DecidableEq, Repr

/-- A host event entry as its 32 bytes (R398). -/
structure HostEvent where
  kind : BitVec 8
  cause : BitVec 8
  launch : BitVec 32
  detail : BitVec 192
  deriving DecidableEq, Repr

/-- A host event ring (R398). -/
structure EventRing where
  base : Word := 0
  size : Word := 0
  head : Word := 0
  tail : Word := 0
  waiting : List HostEvent := []
  written : List (Nat × HostEvent) := []
  deriving DecidableEq, Repr

/-- A staging slot (R408): its words, the outcome, whether a registration runs and for which port, writes of word 1 that
wait for its end, and what a ready slot keeps of its image. -/
structure Staging where
  w0 : Word := 0
  offset : Word := 0
  outcome : BitVec 8 := 0
  running : Bool := false
  port : Nat := 0
  again : List (Nat × Word) := []
  ready : Bool := false
  data : Nat := 0
  imageid : List Byte := []
  tags : List (BitVec 256) := []
  deriving DecidableEq, Repr

/-- A namespace entry: its port, NSID and block size, if bound (R406). -/
structure Namespace where
  port : Nat
  nsid : Nat
  block : Nat
  deriving DecidableEq, Repr

/-- A request of `fwctl` under way (R411). -/
structure FwRequest where
  port : Nat
  code : BitVec 8
  blk : Nat
  deriving DecidableEq, Repr

/-- A symbol of a load map (R416): the first bytes of its name's digest, target, kind and value. -/
structure Symbol where
  name : List Byte
  place : Nat
  kind : Nat
  value : Nat
  deriving DecidableEq, Repr

/-- A finished translation (R415, R416, R421): sections as kind, place and bytes after re-laying, the bundles inserted for
the graft by kind and place, the symbols, the factors chosen and the data placed in HBM. -/
structure Translation where
  sections : List (Nat × Nat × List Byte) := []
  inserted : List (Nat × Nat × Nat) := []
  symbols : List Symbol := []
  factors : List (BitVec 32 × BitVec 32) := []
  placed : List (List Byte) := []
  deriving DecidableEq, Repr

/-- A seedbank entry (R421). -/
structure Seed where
  key : BitVec 256
  secver : BitVec 8
  what : Translation
  sig : List Byte
  deriving DecidableEq, Repr

/-- The accesses of port 1 to semaphores in a cycle: what was held before them, and each with its semaphore and the value written, if it
is a write. An access of port 0 in the same cycle comes before them (R390). -/
structure SemTurn where
  cycle : Nat
  before : KMap (BitVec 1)
  acts : List (Nat × Option Word)
  deriving DecidableEq, Repr

/-- The hub (R389 to R426). `reports` is what management firmware has been told: a cause, and the grove, die or port (R307,
R382, R438); `linkDown` and `driveDown` hold since when a host's link is down (R392) and the drive behind a store port does not answer
(R224), and `lost` the ports whose link went down, with the cycle, until their semaphores have been freed (R392); `shooting` says that a package shootdown runs (R369). -/
structure Hub where
  queues : KMap LaunchQueue := []
  lastServed : Option Nat := none
  sems : KMap (BitVec 1) := []
  parts : KMap (BitVec 256) := []
  partStage : KMap Word := []
  partRuns : KMap PartRun := []
  rings : KMap EventRing := []
  imgs : KMap Staging := []
  pwrcap : BitVec 16 := 2400
  pwrnow : BitVec 16 := 0
  coolant : Bool := false
  graft : List Byte := []
  graftver : BitVec 256 := 0
  fusever : BitVec 8 := 0
  request : Option FwRequest := none
  lcause : BitVec 8 := 0
  lcode : BitVec 8 := 0
  banks : KMap (List Byte) := []
  bank : Nat := 0
  bankReady : Bool := false
  recovery : Bool := false
  keys : KMap (List Byte) := []
  seeds : List Seed := []
  spaces : KMap Namespace := []
  linkDown : KMap Nat := []
  lost : List (Nat × Nat) := []
  driveDown : KMap Nat := []
  semTurn : Option SemTurn := none
  interval : Nat := 0
  reports : List (BitVec 8 × Nat) := []
  shooting : Bool := false
  deriving DecidableEq, Repr

/-- A command that a host request issues at a store port: Flush (0x00) or Dataset Management with deallocate (0x09), with
its first block and its count of blocks (R406). -/
structure NvmeCommand where
  opcode : BitVec 8
  port : Nat
  nsid : Nat
  block : Nat
  count : Nat
  deriving DecidableEq, Repr

/-- The host window: whether it is open (R410), the value of each port's last semaphore read (R390), and the commands that
host requests issued at the store ports (R406). -/
structure Window where
  isOpen : Bool := false
  reads : KMap Word := []
  nvme : List NvmeCommand := []
  deriving DecidableEq, Repr

/-- What a collective context holds of one word position: the common address, the value of each partial lane (a maximum or
minimum is not rounded), the contributions taken, poison, and whom they came from (R380, R439). -/
structure Partial where
  addr : Addr
  lanes : List XVal
  count : Nat
  poison : Bool
  senders : List (Nat × Nat × Nat)
  deriving DecidableEq, Repr

/-- A packet open at a collective context: its place in the order of opening, its first header, the header of its output with whether
it has been sent, its partials by word position, and the words sent (R380, R440). -/
structure OpenPacket where
  num : Nat := 0
  header : Vec
  out : FabricWord
  begun : Bool := false
  words : KMap Partial := []
  sent : Nat := 0
  deriving DecidableEq, Repr

/-- A data word passed to local delivery that has not performed: its virtual stream number and source, the number of its packet, the
step of the entry and the set in which it was taken (R439). -/
structure Landing where
  vsn : Nat
  src : Nat
  packet : Nat
  epoch : Nat
  set : BitVec 60
  word : FabricWord
  deriving DecidableEq, Repr

/-- The packets that arrive from one source of a delivering entry: the number of the last, and the words not yet performed
of each by its number (R439). -/
structure Arriving where
  num : Nat := 0
  left : KMap Nat := []
  deriving DecidableEq, Repr

/-- A UALink port (R427, R429, R436 to R440): routing entries by virtual stream number with the sources whose marker the
current set has taken; by 16 times that number plus the source, the words held, the packets arriving and what a source
contributes (its header and its next word position); read requests by the same number; the data words passed to local delivery that
have not performed, and those of them that met a fault; by virtual stream number the steps its entry has made, and the counts of
delivered markers that wait for earlier deliveries; the words sent on the link, and the responses returned on it; contexts with
their open packets by tag. -/
structure Port where
  down : Bool := false
  spare : Option Nat := none
  unsupported : Nat := 0
  routes : KMap (BitVec 256) := []
  marked : KMap (BitVec 13) := []
  held : KMap (List FabricWord) := []
  arriving : KMap Arriving := []
  current : KMap (Vec × Nat) := []
  reads : KMap (List FabricWord) := []
  landing : List Landing := []
  refused : List Landing := []
  steps : KMap Nat := []
  counts : List (Nat × Nat × BitVec 60) := []
  sent : List (Nat × FabricWord) := []
  answers : List FarAnswer := []
  contexts : KMap Word := []
  packets : KMap (KMap OpenPacket) := []
  stopped : List Nat := []
  deriving DecidableEq, Repr

/-- The memories of the package and what is kept beside their bytes: `retired` the channel of a stack that goes onto its reserve, and
`moved` the 256-byte blocks, by number, that have gone there (R383). -/
structure Mem where
  bytes : Memory := []
  poison : List Nat := []
  present : List Nat := []
  retired : KMap Nat := []
  moved : List Nat := []
  failed : List Nat := []
  flash : KMap Byte := []
  deriving DecidableEq, Repr

/-- A stored bit that flips by itself (R37, R126, R132, R227, R259, R273, R307, R367): which state it is in. -/
inductive Upset where
  /-- A 32-bit part of slot `i` of edge `k` of a tile. -/
  | slot (t k i part : Nat)
  /-- A 32-bit part of slot `i` of carry edge `c`. -/
  | carry (t c i part : Nat)
  /-- A 32-bit part of the word a router operator holds. -/
  | held (t n part : Nat)
  /-- A 32-bit part of the `i`-th result in the pipeline registers of an element. -/
  | stage (t n i part : Nat)
  /-- A 32-bit part of the accumulator of an element. -/
  | acc (t n part : Nat)
  /-- `lc0` (0), `lc1` (1) or the header count (2) of an element. -/
  | counter (t n lc : Nat)
  /-- The stored configuration or router word of a node in a configuration slot. -/
  | config (t k n : Nat)
  /-- The registers, queues, landing buffer or loop stack of a tile's sequencer. -/
  | core (t : Nat)
  /-- Two bits of the unit of check bits that holds an address of memory: an uncorrectable error. -/
  | memory (a : Nat)
  /-- The `i`-th entry of a tile's TLB. -/
  | tlb (t i : Nat)
  /-- The `i`-th entry of a set of a die's TLB slices. -/
  | slice (d k i : Nat)
  /-- A channel-table entry, presence store or event queue of a grove. -/
  | grove (g : Nat)
  /-- An accumulator, panel or staging register of a tile's matrix unit. -/
  | matrix (t : Nat)
  /-- The buffers of command `h` of a tile. -/
  | stream (t h : Nat)
  deriving DecidableEq, Repr

/-- Who acts next, and how (R3): the model's schedule and its outside inputs. -/
inductive Act where
  /-- The unit dispatches its next bundle (R111). -/
  | dispatch
  /-- The word at the head of a queue issues, if its engine accepts it (R111). -/
  | issue (sl : Slot)
  /-- The running routine takes its next microword (R247). -/
  | micro
  /-- A step of an agent, an element firing, or an outside event. -/
  | event (i : Instr)
  /-- A stored bit flips. -/
  | upset (u : Upset)
  /-- The hub shoots a page, or all pages of an ASID, down on all four dies (R369). -/
  | shootdown (page : BitVec 56) (what : BitVec 10)
  /-- The drive behind a store port answers from now on, or no longer (R224, R378). -/
  | drive (p : Nat) (up : Bool)
  /-- A word or a read request from another package comes in on a port's link, with its stream header (R428). -/
  | arrive (i : Nat) (header : BitVec 128) (data : Vec) (poison : Bool)
  deriving DecidableEq, Repr

/-- One turn of the schedule. -/
structure Turn where
  agent : Agent
  act : Act
  deriving DecidableEq, Repr

/-- One LD-640 package. `focus`, `agenda`, `turn`, `ctx` and `fresh` are the model's own (log entries 2 and 3). -/
structure State where
  mem : Mem := {}
  tiles : KMap Tile := []
  groves : KMap Grove := []
  dies : KMap Die := []
  hub : Hub := {}
  window : Window := {}
  ports : KMap Port := []
  cycle : Nat := 0
  focus : Agent := .tile 0
  agenda : List Turn := []
  turn : Nat := 0
  ctx : Entry := {}
  fresh : Nat := 0
  deriving DecidableEq, Repr

/-- Why the machine stops. -/
inductive Fault where
  /-- Raised where the spec puts no memory: a scrub, a request block of `fwctl`, what such a block names, or a launch
  queue's ring that reaches HBM from 2^39 on (R363), a scrub of a grove scratchpad from 2^24 on: safe (log entry 7). -/
  | noSuchAddress
  deriving DecidableEq, Repr

/-- Why the model gives an instruction no meaning. -/
inductive Refusal where
  /-- Raised by an arm of `exec` whose instruction has no meaning yet: safe. -/
  | notModelled (mnemonic : String)
  deriving DecidableEq, Repr

/-- What an instruction answers. -/
abbrev Result := Host.Outcome State Fault Refusal

/-- The machine right after reset: every field at the value the spec states or log entry 5 names. -/
def State.reset : State := {}

end Sys2Proof.Machine
end

