-- ==== Sys2Proof/Machine/Ops.lean ====
section
/-!
DEFINITION. The named operations over the state: places of the package, memory with its poison and presence bits,
registers, barriers, events, the end of a task, and taking and returning from a trap (R261 to R264).
-/
namespace Sys2Proof.Machine

/-! ### Places (R287, R301) -/

/-- The physical tile at a position of a grove. -/
def tileAt (g p : Nat) : Nat := 17 * g + p
/-- The grove of a physical tile. -/
def groveOf (t : Nat) : Nat := t / 17
/-- The physical position of a tile in its grove. -/
def posOf (t : Nat) : Nat := t % 17
/-- The die of a grove. -/
def dieOf (g : Nat) : Nat := g / 10

def State.tile (s : State) (t : Nat) : Tile := s.tiles.get {} t
def State.setTile (s : State) (t : Nat) (x : Tile) : State := { s with tiles := s.tiles.put t x }
def State.grove (s : State) (g : Nat) : Grove := s.groves.get {} g
def State.setGrove (s : State) (g : Nat) (x : Grove) : State := { s with groves := s.groves.put g x }
def State.die (s : State) (d : Nat) : Die := s.dies.get {} d
def State.setDie (s : State) (d : Nat) (x : Die) : State := { s with dies := s.dies.put d x }
def State.port (s : State) (p : Nat) : Port := s.ports.get {} p
def State.setPort (s : State) (p : Nat) (x : Port) : State := { s with ports := s.ports.put p x }
def State.mapTile (s : State) (t : Nat) (f : Tile → Tile) : State := s.setTile t (f (s.tile t))
def State.mapGrove (s : State) (g : Nat) (f : Grove → Grove) : State := s.setGrove g (f (s.grove g))
def State.mapDie (s : State) (d : Nat) (f : Die → Die) : State := s.setDie d (f (s.die d))

/-- The sequencer of a unit. -/
def State.seqOf (s : State) : Agent → Seq
  | .tile t => (s.tile t).seq
  | .seq g => (s.grove g).seq

/-- The state with a unit's sequencer replaced. -/
def State.setSeq (s : State) (u : Agent) (q : Seq) : State :=
  match u with
  | .tile t => s.setTile t { s.tile t with seq := q }
  | .seq g => s.setGrove g { s.grove g with seq := q }

def State.mapSeq (s : State) (u : Agent) (f : Seq → Seq) : State := s.setSeq u (f (s.seqOf u))

/-- A tile has moved in this cycle (R376). -/
def Tile.move (x : Tile) : Tile := { x with moved := true }
def State.markMoved (s : State) : Agent → State
  | .tile t => s.mapTile t Tile.move
  | .seq _ => s

/-- The grove of a unit. -/
def Agent.grove : Agent → Nat
  | .tile t => groveOf t
  | .seq g => g

/-- Whether a unit is a grove sequencer. -/
def Agent.isGrove : Agent → Bool
  | .tile _ => false
  | .seq _ => true

/-- The physical tile of a logical position: the retired position's place is taken by 16, and a position under
migration still answers from the tile it leaves (R287, R308). -/
def State.physOf (s : State) (g l : Nat) : Nat :=
  match (s.grove g).migration with
  | some m => if m.logical = l then m.src
      else tileAt g (if (s.grove g).place.toNat = l then 16 else l)
  | none => tileAt g (if (s.grove g).place.toNat = l then 16 else l)

/-- The logical position a physical tile serves; 31 for a spare that serves none (R287). -/
def State.logicalOf (s : State) (t : Nat) : Nat :=
  match (List.range 16).find? (fun l => s.physOf (groveOf t) l = t) with
  | some l => l
  | none => 31

/-- The die tile number 16 g + l of a physical tile (R301). -/
def State.dieTile (s : State) (t : Nat) : Nat := 16 * (groveOf t % 10) + s.logicalOf t

/-- The physical tile of a die tile number. -/
def State.ofDieTile (s : State) (d n : Nat) : Nat := s.physOf (10 * d + n / 16) (n % 16)

/-! ### Memory -/

/-- Addresses of the package's memories in one numbering of the model's own: HBM from 0 (R363), the grove scratchpads,
the tile scratchpads, the weight buffers and the code stores. -/
def gspAddr (g a : Nat) : Nat := 0x10000000000 + g * 0x1000000 + a
def tspAddr (t a : Nat) : Nat := 0x20000000000 + t * 0x100000 + a
def wbAddr (t a : Nat) : Nat := 0x40000000000 + t * 0x40000 + a
def codeAddr (u a : Nat) : Nat := 0x80000000000 + u * 0x10000 + a

/-- The end of HBM (R363). -/
def hbmEnd : Nat := 0x8000000000

/-- The code store of a unit. -/
def Agent.codeUnit : Agent → Nat
  | .tile t => t
  | .seq g => 680 + g

/-- One byte of memory. -/
def Memory.read (m : Memory) (a : Nat) : Byte := KMap.get Memory.blank m a

/-- Memory with one byte written, in canonical form. -/
def Memory.write (m : Memory) (a : Nat) (b : Byte) : Memory := KMap.set Memory.blank m a b

/-- Memory with a run of bytes written. -/
def Memory.writeList (m : Memory) (a : Nat) : List Byte → Memory
  | [] => m
  | b :: t => Memory.writeList (m.write a b) (a + 1) t

/-- A run of bytes. -/
def Memory.readList (m : Memory) (a n : Nat) : List Byte := (List.range n).map (fun i => m.read (a + i))

/-- The number a run of bytes holds, least significant byte first (R8, R166). -/
def leNat : List Byte → Nat
  | [] => 0
  | b :: t => b.toNat + 256 * leNat t

/-- The bytes of a number, least significant first. -/
def leBytes (n v : Nat) : List Byte := (List.range n).map (fun i => BitVec.ofNat 8 (v / 256 ^ i))

/-- The unit that carries one poison bit: 32 bytes of HBM (R382), 64 bits elsewhere (R126, R290, R359). -/
def poisonUnit (a : Nat) : Nat := if a < hbmEnd then 32 else 8

/-- A number put in its place in a rising list. -/
def insertNat (n : Nat) : List Nat → List Nat
  | [] => [n]
  | k :: t => if n < k then n :: k :: t else if n = k then k :: t else k :: insertNat n t

/-- Some unit that an access touches is poisoned. -/
def Mem.poisoned (m : Mem) (a n : Nat) : Bool :=
  m.poison.any (fun u => decide (u < a + n) && decide (a < u + poisonUnit u))

/-- Whole units written get fresh check bits; a narrower write leaves a poison bit set (R126, R290, R382). -/
def Mem.clean (m : Mem) (a n : Nat) : List Nat :=
  m.poison.filter (fun u => !(decide (a ≤ u) && decide (u + poisonUnit u ≤ a + n)))

/-- A write that performs: bytes and poison bits. -/
def Mem.write (m : Mem) (a : Nat) (bs : List Byte) : Mem :=
  { m with bytes := m.bytes.writeList a bs, poison := m.clean a bs.length }

/-- The poison bit of the unit that holds an address is set. -/
def Mem.setPoison (m : Mem) (a : Nat) : Mem := { m with poison := insertNat (a / poisonUnit a * poisonUnit a) m.poison }

def State.readNat (s : State) (a n : Nat) : Nat := leNat (s.mem.bytes.readList a n)
def State.write (s : State) (a : Nat) (bs : List Byte) : State := { s with mem := s.mem.write a bs }
def State.writeNat (s : State) (a n v : Nat) : State := s.write a (leBytes n v)

/-- The presence bit of the word that holds a grove-scratchpad address (R293). -/
def State.present (s : State) (a : Nat) : Bool := s.mem.present.contains (a / 64 * 64)
def State.setPresent (s : State) (a : Nat) : State :=
  { s with mem := { s.mem with present := insertNat (a / 64 * 64) s.mem.present } }
def State.clearPresent (s : State) (as : List Nat) : State :=
  { s with mem := { s.mem with present := s.mem.present.filter (fun a => !as.contains a) } }

/-- The base word of a channel entry (R292). -/
def chanBase (e : Word) : Nat := e.toNat / 2 ^ 24 % 2 ^ 18
/-- The length of a channel in element words: 0 means the whole store (R292). -/
def chanSize (e : Word) : Nat := if e.toNat % 2 ^ 18 = 0 then 262144 else e.toNat % 2 ^ 18
def chanValid (e : Word) : Bool := e.getLsbD 63
def chanXtask (e : Word) : Bool := e.getLsbD 62

/-- The valid channel that a grove-scratchpad address lies in (R293). -/
def Grove.channelOf (g : Grove) (a : Nat) : Option (Nat × Word) :=
  g.chans.find? (fun e => chanValid e.2 && decide (chanBase e.2 ≤ a / 64) && decide (a / 64 < chanBase e.2 + chanSize e.2))

/-! ### Registers (R109, R110) -/

/-- The scalar `s`n: `s0` reads 0. -/
def Seq.readS (q : Seq) (n : Nat) : Word := if n = 0 then 0 else q.s.get 0 n
/-- The address register `a`n. -/
def Seq.readA (q : Seq) (n : Nat) : Addr := q.a.get 0 n
/-- The predicate `q`n: `q0` reads 1. -/
def Seq.readQ (q : Seq) (n : Nat) : BitVec 1 := if n = 0 then 1 else q.q.get 0 n
/-- The loop index `k`n: the outermost loop is `k0`, and a level not active reads 0 (R107). -/
def Seq.readK (q : Seq) (n : Nat) : BitVec 32 :=
  if n < q.loops.length then ((q.loops[q.loops.length - 1 - n]?).map (·.index)).getD 0 else 0

/-- Writes to `s0` are discarded. -/
def Seq.writeS (q : Seq) (n : Nat) (v : Word) : Seq := if n = 0 then q else { q with s := q.s.set 0 n v }
def Seq.writeA (q : Seq) (n : Nat) (v : Addr) : Seq := { q with a := q.a.set 0 n v }
/-- Writes to `q0` are discarded. -/
def Seq.writeQ (q : Seq) (n : Nat) (v : BitVec 1) : Seq := if n = 0 then q else { q with q := q.q.set 0 n v }

/-- A result written to its register; a geometry is the tile's (R109). -/
def State.writeDest (s : State) (u : Agent) (d : Dest) (v : Vec) : State :=
  match d with
  | .s n => s.mapSeq u (·.writeS n (v.setWidth 64))
  | .a n => s.mapSeq u (·.writeA n (v.setWidth 72))
  | .q n => s.mapSeq u (·.writeQ n (v.setWidth 1))
  | .g n => match u with
    | .tile t => s.mapTile t (fun x => { x with g := x.g.set 0 n v })
    | .seq _ => s

/-! ### Barriers (R128, R129) -/

/-- One arrival at a barrier with a status, its info and the report of a refused load. -/
def Barrier.arrive (b : Barrier) (status : BitVec 8) (info : BitVec 16) (report : Option Word) : Barrier :=
  if !b.init then b else
  let first := decide (b.status = 0) && decide (status ≠ 0)
  let st := if first then status else b.status
  let inf := if first then info else b.info
  let rep := if first then report else b.report
  if b.arrived + 1 = b.expected then
    { b with phase := ~~~ b.phase, arrived := 0, status := 0, info := 0, report := none,
             waits := b.waits.map (fun w => (w.1, match w.2 with
               | .pending => .released st inf rep
               | r => r)) }
  else { b with arrived := b.arrived + 1, status := st, info := inf, report := rep }

/-- An arrival at barrier `n` of a unit; `b0` discards it (R129). -/
def Seq.arrive (q : Seq) (n : Nat) (status : BitVec 8) (info : BitVec 16) (report : Option Word := none) : Seq :=
  if n = 0 then q else { q with bars := q.bars.set {} n ((q.bars.get {} n).arrive status info report) }

def State.arrive (s : State) (t n : Nat) (status : BitVec 8) (info : BitVec 16) : State :=
  s.mapSeq (.tile t) (·.arrive n status info)

/-! ### Events (R298, R299, R398) -/

/-- An event record of R299. -/
def evRecord (kind cause tile index : Nat) (detail : Nat) (w1 : Word) : EvRecord :=
  ⟨BitVec.ofNat 64 (kind % 256 * 2 ^ 56 + cause % 256 * 2 ^ 48 + tile % 256 * 2 ^ 40 + index % 256 * 2 ^ 32
      + detail % 2 ^ 32), w1⟩

/-- The place of an event's source in the round robin of one cycle: logical tiles after the one that entered last, other
sources after the tiles (R298). -/
def Grove.eventRank (x : Grove) (src : Nat) : Nat := if src < 16 then (src + 31 - x.evLast) % 16 else 16

/-- An event of a source takes its place among those of this cycle, which stand last: in the queue of 64 entries, or, past
that, waiting at its source (R298). -/
def Grove.pushEvent (x : Grove) (src : Nat) (e : EvRecord) : Grove :=
  let all := x.events ++ x.waiting
  let srcs := x.evCycle.drop (x.evCycle.length - all.length)
  let ahead := srcs.takeWhile (fun k => decide (x.eventRank k ≤ x.eventRank src))
  let k := all.length - srcs.length + ahead.length
  let new := all.take k ++ e :: all.drop k
  let n := if x.events.length < 64 ∧ x.waiting = [] then x.events.length + 1 else x.events.length
  { x with events := new.take n, waiting := new.drop n, evCycle := ahead ++ src :: srcs.drop ahead.length }

/-- An event of a source that is no tile enters the queue (R298). -/
def State.postEvent (s : State) (g : Nat) (e : EvRecord) : State := s.mapGrove g (·.pushEvent 16 e)

/-- A tile's event: its source and the tile field are its logical position. -/
def State.postTile (s : State) (t kind cause index detail : Nat) (w1 : Word) : State :=
  s.mapGrove (groveOf t) (·.pushEvent (s.logicalOf t) (evRecord kind cause (s.logicalOf t) index detail w1))

/-- The capacity of a host ring, 2^k entries with k 4 to 16 (R398). -/
def EventRing.room (r : EventRing) : Bool :=
  let k := r.size.toNat % 32
  decide (4 ≤ k) && decide (k ≤ 16) && decide (((r.tail - r.head).toNat) < 2 ^ k)

/-- A host event is written to the port's ring, or waits at the hub (R398). -/
def State.hostEvent (s : State) (p : Nat) (e : HostEvent) : State :=
  let r := s.hub.rings.get {} p
  let r' := if r.room && r.waiting.isEmpty then
      { r with tail := r.tail + 1, written := r.written ++ [(r.tail.toNat % 2 ^ (r.size.toNat % 32), e)] }
    else { r with waiting := r.waiting ++ [e] }
  { s with hub := { s.hub with rings := s.hub.rings.put p r' } }

/-- A host event with a small detail in bytes 8 on and no launch. -/
def State.host (s : State) (p kind cause detail : Nat) : State :=
  s.hostEvent p ⟨.ofNat 8 kind, .ofNat 8 cause, BitVec.allOnes 32, .ofNat 192 detail⟩

/-! ### Partitions (R393, R394) -/

def partValid (e : BitVec 256) : Bool := e.getLsbD 255
def partAsid (e : BitVec 256) : BitVec 9 := e.extractLsb' 192 9
def partGroves (e : BitVec 256) : BitVec 40 := e.extractLsb' 128 40
def partRoot (e : BitVec 256) : Nat := (e.extractLsb' 64 46).toNat
def partPort (e : BitVec 256) : Nat := (e.extractLsb' 253 1).toNat

/-- The valid partition that holds a grove. -/
def State.partOf (s : State) (g : Nat) : Option (Nat × BitVec 256) :=
  s.hub.parts.find? (fun e => partValid e.2 && (partGroves e.2).getLsbD g)

/-- Management firmware faults a partition: kind 8 with the cause to its port (R298, R318, R383, R398, R400). -/
def State.faultPart (s : State) (p : Nat) (e : BitVec 256) (cause : BitVec 8) : State :=
  let r := s.hub.partRuns.get {} p
  { s with hub := { s.hub with partRuns := s.hub.partRuns.put p { r with faulted := some cause } } }.host (partPort e) 8 cause.toNat p

/-- The partition of a grove is faulted. -/
def State.faultPartition (s : State) (g : Nat) (cause : BitVec 8) : State :=
  match s.partOf g with
  | none => s
  | some (p, e) => s.faultPart p e cause

/-! ### Gangs and commands that end with their task -/

/-- The member bits of a valid group (R301). -/
def groupMembers (e : BitVec 256) : List Nat := (List.range 160).filter (fun i => e.getLsbD i)
def groupValid (e : BitVec 256) : Bool := e.getLsbD 255

/-- The rank of a die tile among a group's members (R301). -/
def rankIn (ms : List Nat) (n : Nat) : Nat := (ms.takeWhile (· != n)).length

/-- A running routine stops without an arrival: `done` counts it (R245, R260). -/
def Matrix.stopRoutine (m : Matrix) : Matrix :=
  match m.running with
  | none => m
  | some r => { m with running := none, done := m.done + 1, upc := r.upc, routine := r.index, staged := [] }

/-- The members of a group as physical tiles. -/
def State.groupTiles (s : State) (d grp : Nat) : List Nat :=
  (groupMembers ((s.die d).groups.get 0 grp)).map (s.ofDieTile d)

/-- A gang aborts: every member's routine stops, its staged drains are discarded, and every member's barrier
receives one arrival (R334). -/
def State.abortGang (s : State) (d grp : Nat) (status cause member : Nat) : State :=
  match (s.die d).gangs.get? grp with
  | none => s
  | some g =>
    let s := s.mapDie d (fun x => { x with gangs := x.gangs.erase grp })
    (s.groupTiles d grp).foldl (fun s t =>
      let stop : Bool := match (s.tile t).mx.running with
        | some r => r.gang == some grp
        | none => false
      let s := if stop then s.mapTile t (fun x => { x with mx := x.mx.stopRoutine }) else s
      s.arrive t g.bar (.ofNat 8 status) (.ofNat 16 (cause * 256 + member))) s

/-- The routine of a tile stops; a gang it belongs to aborts (R260, R334). -/
def State.stopTileRoutine (s : State) (t cause : Nat) : State :=
  match (s.tile t).mx.running with
  | none => s
  | some r => match r.gang with
    | some grp =>
      let d := dieOf (groveOf t)
      s.abortGang d grp 0x1a cause (rankIn (groupMembers ((s.die d).groups.get 0 grp)) (s.dieTile t))
    | none => s.mapTile t (fun x => { x with mx := x.mx.stopRoutine })

/-- Every open gang instance of which a tile is a member aborts, whether it has joined or not (R334). -/
def State.abortGangsOf (s : State) (t cause : Nat) : State :=
  let d := dieOf (groveOf t)
  (((s.die d).gangs.map (·.1)).filter (fun g => (s.groupTiles d g).contains t)).foldl (fun s g =>
    s.abortGang d g 0x1a cause (rankIn (groupMembers ((s.die d).groups.get 0 g)) (s.dieTile t))) s

/-- Bits of a geometry as a number (R198). -/
def gf (g : Vec) (lo n : Nat) : Nat := (g.extractLsb' lo n).toNat
def gBar (g : Vec) : Nat := gf g 483 11
def gUirq (g : Vec) : Bool := g.getLsbD 482

def State.dropCmd (s : State) (t h : Nat) : State :=
  s.mapTile t (fun x => { x with str := { x.str with cmds := x.str.cmds.erase h } })

/-- The layout of `trapinfo` by R162: the slot word, 29 bits of detail and the slot index. -/
def trapInfo (word : BitVec 32) (detail : Nat) (slot : Nat) : Word :=
  BitVec.ofNat 64 (word.toNat * 2 ^ 32 + detail % 2 ^ 29 * 8 + slot)

/-- The 29 bits of handle and position of a stream report (R228). -/
def streamDetail (h pos : Nat) : Nat := h * 2 ^ 23 + pos % 2 ^ 23

/-- The position reported for a command: the member for a detached multicast (R215, R228). -/
def Cmd.report (c : Cmd) : Nat := if c.cause = 0x17 then c.prev.toNat else c.pos

/-- A command has come to its end: every access it makes has performed, or it has stopped on a fault (R196, R226, R432). -/
def Cmd.ready (c : Cmd) : Bool := c.done && (c.cause ≠ 0 || (c.unacked.isEmpty && c.resend.isEmpty))

/-- A command completes: its handle is free, its barrier takes an arrival, `uipend` and the fault record are set
(R196, R228). -/
def State.completeCmd (s : State) (t h : Nat) (c : Cmd) : State :=
  let s := (s.dropCmd t h).mapTile t (fun x => { x with str := { x.str with checked := x.str.checked.erase c.num } })
  let quiet := c.kind = .recirc
  let s := if quiet then s else s.arrive t (gBar c.geo) c.cause (BitVec.ofNat 16 (h * 1024 + c.report % 1024))
  let s := if !quiet && gUirq c.geo then s.mapSeq (.tile t) (fun q =>
      { q with ctl := { q.ctl with uipend := q.ctl.uipend ||| BitVec.twoPow 64 h } }) else s
  if c.cause = 0 then s else s.mapTile t (fun x => { x with str := { x.str with
    faults := x.str.faults.put h ⟨c.cause, trapInfo c.entry.word (streamDetail h c.report) c.entry.slot.index⟩ } })

/-- The commands of a tile's task are killed as R221 states, those that have come to their end completing first, with the task's `macc`
tokens (R229, R260), and the gangs of which the tile is a member abort (R334). -/
def State.killTaskCommands (s : State) (t cause : Nat) : State :=
  let s := s.abortGangsOf t cause
  let inTask := match (s.tile t).mx.running with
    | some r => r.inTask
    | none => false
  let s := if inTask then s.stopTileRoutine t cause else s
  let s := ((s.tile t).str.cmds.filter (fun e => e.2.inTask && e.2.ready)).foldl (fun s e => s.completeCmd t e.1 e.2) s
  s.mapTile t (fun x => { x with
    str := { x.str with cmds := x.str.cmds.filter (fun e => !e.2.inTask) }
    mx := { x.mx with tokens := x.mx.tokens.filter (fun k => !k.cmd.inTask) } })

/-- The declared carry edges of an image hold their preload words again (R27, R78). -/
def CfgImage.preloads (i : CfgImage) : KMap (List Slot512) :=
  i.preload.map (fun e => (e.1, e.2.map (fun w => ⟨0, w, 0⟩)))

/-- The array is reset: edges empty, carry edges preloaded, elements and operators in their first state, port
decodes cleared (R38, R133, R205). -/
def Tile.resetArray (x : Tile) : Tile :=
  let img : CfgImage := match x.fab.active with
    | some k => x.fab.slots.get {} k
    | none => {}
  { x with
    fab := { x.fab with edges := [], carry := img.preloads, elems := [], ops := [], draining := false, fed := [] }
    str := { x.str with ox := [], ixDue := [] } }

/-! ### The end of a task (R134, R266, R323) -/

def TaskStatus.code : TaskStatus → Nat
  | .committed => 0 | .conflict => 1 | .softError => 2 | .quorum => 3 | .software => 4 | .fault => 5 | .none => 6

/-- The register `tstatus` (R135). -/
def Ctl.tstatus (c : Ctl) : Word :=
  BitVec.ofNat 64 (c.tcause.toNat * 2 ^ 16 + c.treruns.toNat * 2 ^ 8 + (if c.tended then 0x20 else 0)
    + (if c.topen then 0x10 else 0) + c.tstat.code)

/-- Nothing of an attempt's log stays, and the presence bits it set in channels with `xtask` 0 are cleared (R294,
R323). -/
def State.dropLog (s : State) (t : Nat) : State :=
  match (s.tile t).task with
  | none => s
  | some k =>
    (s.clearPresent k.chanSet).mapTile t (fun x => { x with task := some { k with
      log := [], part := [], present := [], chanSet := [], remote := [], tokens := [], signature := 0, requested := false } })

/-- The cause a gang records for a member's abort (R334). -/
def abortCause (st : TaskStatus) (cause : BitVec 8) : Nat :=
  match st with
  | .fault => cause.toNat
  | .softError => 0x13
  | _ => 0

/-- A request for commit is withdrawn. -/
def State.dropCommit (s : State) (t : Nat) : State :=
  s.mapDie (dieOf (groveOf t)) (fun x => { x with commits := x.commits.filter (fun c => c.tile != t) })

/-- The requests of a unit in the order of their dispatch: those that its handlers have interrupted come first (R119, R168). -/
def Seq.allReqs (q : Seq) : List Req := q.handlers.reverse.flatMap (fun h => h.image.reqs) ++ q.reqs

/-- A store of a task, on its way to the task's buffered stores (R168, R317). -/
def Req.buffered (r : Req) : Bool := r.inTask && r.kind = .store

/-- The stores of a task that have not entered its log are dropped with it. -/
def Seq.dropStores (q : Seq) : Seq :=
  { q with
    reqs := q.reqs.filter (fun r => !r.buffered)
    handlers := q.handlers.map (fun h => { h with image := { h.image with reqs := h.image.reqs.filter (fun r => !r.buffered) } }) }

/-- What a re-run leaves of a unit's requests: stores and atomics of no task go on to their banks, without a reply (R134,
R169). -/
def Seq.leftReqs (q : Seq) : List Req :=
  (q.allReqs.filter (fun r => !r.inTask && r.val.isNone && (match r.kind with
    | .load _ => false
    | _ => true))).map (fun r => { r with dest := none })

/-- A task ends without commit and without a re-run: it stays open until its `tsk.end` (R134), its commands are
killed, the array is reset and kind 6 is posted with the cause of a task that ended aborted-fault (R7, R299). -/
def State.endTask (s : State) (t : Nat) (st : TaskStatus) (cause : BitVec 8) : State :=
  match (s.tile t).task with
  | none => s
  | some k =>
    if (s.tile t).seq.ctl.tended || k.committed then s else
    let s := ((s.killTaskCommands t (abortCause st cause)).dropLog t).dropCommit t
    let s := s.mapTile t (fun x => { x.resetArray with
      task := x.task.map (fun y => { y with killPending := false })
      seq := { x.seq.dropStores with ctl := { x.seq.ctl with
      tended := true, tstat := st, tcause := if st = .fault then cause else 0 } } })
    let k' := (s.tile t).seq.ctl
    s.postTile t 6 k'.tcause.toNat k'.tgroup.toNat st.code (k'.tstamp.setWidth 64)

/-- `s24` to `s31` change places with the shadow bank (R130, R131). -/
def Seq.swapBank (q : Seq) : Seq :=
  (List.range 8).foldl (fun q i =>
    let n := 24 + i
    { q with s := q.s.set 0 n (q.shadow.get 0 n), shadow := q.shadow.set 0 n (q.s.get 0 n) }) q

/-- The key under which a barrier keeps the wait of `mu.wait` (R254). -/
def microWait : Nat := 9

/-- A barrier as a re-run brings it back: its recorded state, with the wait of the `mu.wait` of a routine that goes on; where the
phase is no longer the one that this wait found, the wait is over (R134, R254; log entry 34). -/
def Barrier.rerun (b cur : Barrier) : Barrier :=
  { b with waits := (cur.waits.filter (fun w => w.1 = microWait)).map (fun w =>
      (w.1, if w.2 = .pending ∧ b.phase ≠ cur.phase then .released 0 0 none else w.2)) }

/-- The barriers that a re-run brings back (R134). -/
def rerunBars (old cur : KMap Barrier) : KMap Barrier :=
  (old.map (·.1) ++ cur.map (·.1)).foldl (fun m n => KMap.set {} m n ((old.get {} n).rerun (cur.get {} n))) []

/-- A task is aborted and re-run: queues and landing buffer are discarded, recorded registers and barriers come back
and dispatch resumes at the `cfg.run` bundle (R134). A user handler abandoned gives back its bank (R273). -/
def State.rerunTask (s : State) (t : Nat) (st : TaskStatus) : State :=
  match (s.tile t).task with
  | none => s
  | some k =>
    if (s.tile t).seq.ctl.tended || k.committed then s else
    let s := ((s.killTaskCommands t (abortCause st 0)).dropLog t).dropCommit t
    let s := s.mapTile t (fun x => { x.resetArray with g := k.g, nz := k.nz })
    let s := s.mapTile t (fun x => { x with task := x.task.map (fun y => { y with
      rerunning := true, soft := if st = .softError then y.soft + 1 else y.soft }) })
    s.mapSeq (.tile t) (fun q => { (if q.handlers.any (fun h => h.kind = .user) then q.swapBank else q) with
      pc := k.pc, s := k.s, a := k.a, q := k.q, loops := k.loops, bars := rerunBars k.bars q.bars, lands := [], lates := [],
      reqs := q.leftReqs, queues := [], prefixes := [], noTrap := false, handlers := [], traps := [], boundary := k.boundary
      ctl := { q.ctl with tstat := st, treruns := if q.ctl.treruns = 255 then 255 else q.ctl.treruns + 1 } })

/-! ### Taking a trap, and returning (R119, R261 to R264, R188) -/

/-- The queues with the words whose traps are still to be taken back at their heads, where they issue again (R264). -/
def Seq.requeued (q : Seq) : KMap (List Entry) :=
  (q.traps.filterMap (·.entry)).foldl (fun m e => m.set [] e.slot.index (e :: m.get [] e.slot.index)) q.queues

/-- What the landing buffer captures of a sequencer: of two words that have faulted, the one whose trap is not taken stays in its
queue (R119, R264). -/
def Seq.capture (q : Seq) : Image :=
  ⟨q.num, if q.boundary then some q.pc else none, q.traps.filter (fun t => t.entry.isNone), q.lands, q.lates, q.reqs, q.requeued⟩

/-- A sequencer with nothing in flight (R119). -/
def Seq.clear (q : Seq) : Seq := { q with lands := [], lates := [], reqs := [], queues := [], prefixes := [], noTrap := false, traps := [] }

/-- A trap handler runs (R130, R261). -/
def Seq.inTrap (q : Seq) : Bool := q.handlers.any (fun h => h.kind = .trap)
def Seq.inUser (q : Seq) : Bool := q.handlers.any (fun h => h.kind = .user)
def Seq.inEvent (q : Seq) : Bool := q.handlers.any (fun h => h.kind = .event)

/-- The loop levels that the running trap handler froze (R262). -/
def Seq.frozenLevels (q : Seq) : Nat :=
  match q.handlers.find? (fun h => h.kind = .trap) with
  | some h => h.depth
  | none => 0

/-- A tile that cannot take a trap escalates: it stops, an open task ends aborted-fault, and kind 2 is posted
(R263). -/
def State.escalate (s : State) (t : Nat) : State :=
  let s := s.mapSeq (.tile t) (fun q => { q with run := .escalated })
  let c := (s.tile t).seq.ctl
  let s := s.endTask t .fault c.trapcause
  s.postTile t 2 c.trapcause.toNat 0 c.trappc.toNat c.trapinfo

/-- An error that escalates without a handler: what a trap captures and records, then the escalation (R263, R273). -/
def State.takeEscalation (s : State) (t : Nat) (cause : BitVec 8) : State :=
  (s.mapSeq (.tile t) (fun q => { q.clear with
    handlers := ⟨.trap, q.loops.length, q.capture⟩ :: q.handlers
    boundary := false
    ctl := { q.ctl with trapcause := cause, trappc := .ofNat 11 (q.pc % 2048).toNat, trapinfo := 0 } })).escalate t

/-- A grove sequencer that cannot take a trap stops, and its partition is faulted (R298). -/
def State.stopSequencer (s : State) (g : Nat) : State :=
  ((s.mapSeq (.seq g) (fun q => { q with run := .escalated })).mapGrove g (fun x => { x with stopped := true })).faultPartition g (s.grove g).seq.ctl.trapcause

/-- Taking a trap, in the order of R261: capture, the three trap registers, the loop depth, the handler, the vector.
Where no handler can be entered the trap escalates (R263, R298). -/
def State.takeTrap (s : State) (u : Agent) (cause : BitVec 8) (pc : Nat) (info : Word) : State :=
  let q := s.seqOf u
  let nested := q.inTrap || (u.isGrove && q.inEvent)
  let h : Handler := ⟨.trap, q.loops.length, q.capture⟩
  let q' := { q.clear with
    handlers := h :: q.handlers
    boundary := false
    ctl := { q.ctl with trapcause := cause, trappc := .ofNat 11 pc, trapinfo := info } }
  if q.ctl.tvec ≠ 0 && !nested then s.setSeq u { q' with pc := q.ctl.tvec.toNat }
  else match u with
    | .tile t => (s.setSeq u q').escalate t
    | .seq g => (s.setSeq u q').stopSequencer g

/-- A trap found by a queued word or an engine, taken before the next dispatch (second case of R162). -/
def State.raise (s : State) (u : Agent) (cause : BitVec 8) (info : Word) (slot : Nat) : State :=
  s.mapSeq u (fun q => { q with traps := q.traps ++ [⟨cause, info, slot, none, none⟩] })

/-- The landing buffer replays: captured results keep their delays, held late results wait for a realignment bundle,
and the captured queue words stand ahead of new ones (R119). A bundle returned to takes no prefix (R142). -/
def Seq.replay (q : Seq) (im : Image) : Seq :=
  { q with num := im.num, boundary := decide (im.boundary = some q.pc), lands := q.lands ++ im.lands, lates := q.lates ++ im.lates,
           reqs := im.reqs.filter (fun r => r.val.isNone) ++ q.reqs, queues := im.queues, traps := im.traps, prefixes := [] }

/-- The replies that arrived while the handler ran are written at the return (R119). -/
def State.writeReplies (s : State) (u : Agent) (rs : List Req) : State :=
  rs.foldl (fun s r => match r.dest, r.val with
    | some d, some v => s.writeDest u d (v.setWidth 512)
    | _, _ => s) s

/-- A return from the innermost handler to a bundle, with the landing buffer replayed (R119, R188). -/
def State.returnTo (s : State) (u : Agent) (pc : Nat) : State :=
  match (s.seqOf u).handlers with
  | [] => s
  | h :: t =>
    let s := s.writeReplies u h.image.reqs
    s.mapSeq u (fun q => { ({ q with pc := pc } : Seq).replay h.image with handlers := t })

/-! ### Issue (R111) -/

/-- The context's word leaves its queue: its engine has accepted it. -/
def State.accept (s : State) : State :=
  s.mapSeq s.focus (fun q =>
    let k := s.ctx.slot.index
    { q with queues := q.queues.set [] k ((q.queues.get [] k).drop 1) })

/-- The context's word ends with a trap of the second case of R162; if another one is taken first, the word issues again (R264). -/
def State.issueTrap (s : State) (cause : BitVec 8) (detail : Nat) : State :=
  s.accept.mapSeq s.focus (fun q => { q with
    traps := q.traps ++ [⟨cause, trapInfo s.ctx.word detail s.ctx.slot.index, s.ctx.slot.index, none, some s.ctx⟩] })

/-- A late writer's result is held until a realignment bundle (R117). -/
def State.late (s : State) (d : BitVec 6) (v : Word) : State :=
  let dest := if d.toNat < 32 then Dest.s d.toNat else Dest.a (d.toNat - 32)
  if d = 0 then s else
  s.mapSeq s.focus (fun q => { q with
    lates := q.lates ++ [⟨dest, v.setWidth 512, 0, s.ctx.num, s.ctx.pc, s.ctx.word, s.ctx.slot.index⟩] })

/-- The free value drawn next, and the state with the counter advanced (log entry 3). -/
def State.draw (s : State) : State := { s with fresh := s.fresh + 1 }

end Sys2Proof.Machine
end

