-- ==== Sys2Proof/Machine/Operands.lean ====
section
/-!
DEFINITION. Operand forms: register codes, immediates with their `ext` payload, effective addresses, the operands a
queued word captures, and where a result goes (R110, R111, R141, R143, R144, R161, R165).
-/
namespace Sys2Proof.Machine

/-- A source register by its six-bit code, at full width (R143): `s`, `a`, `k` and `q` registers. -/
def Seq.readSrc (q : Seq) (c : BitVec 6) : Addr :=
  let n := c.toNat
  if n < 32 then (q.readS n).setWidth 72
  else if n < 48 then q.readA (n - 32)
  else if n < 54 then (q.readK (n - 48)).setWidth 72
  else (q.readQ (n - 56)).setWidth 72

/-- A scalar operand: the low 64 bits (R110, R161). -/
def Seq.opnd (q : Seq) (c : BitVec 6) : Word := (q.readSrc c).setWidth 64

/-- An operand of an address sum: an address register whole, any other sign-extended to 72 bits (R175). -/
def Seq.addrOpnd (q : Seq) (c : BitVec 6) : Addr :=
  if 32 ≤ c.toNat ∧ c.toNat < 48 then q.readSrc c else (q.opnd c).signExtend 72

/-- The register a destination code names (R143). -/
def destOf (d : BitVec 6) : Dest := if d.toNat < 32 then .s d.toNat else .a (d.toNat - 32)

/-- An `imm8` read as signed, 32 bits long with `ext` (R141, R144). -/
def immSigned (e : Option (BitVec 24)) (i : BitVec 8) : Int :=
  match e with
  | none => i.toInt
  | some x => (x ++ i).toInt

/-- An `imm8` read as unsigned, 32 bits long with `ext` (R141, R144). -/
def immUnsigned (e : Option (BitVec 24)) (i : BitVec 8) : Nat :=
  match e with
  | none => i.toNat
  | some x => (x ++ i).toNat

/-- A signed bundle offset of 20 bits, 44 with `ext` (R141, R144). -/
def immOffset (e : Option (BitVec 24)) (i : BitVec 20) : Int :=
  match e with
  | none => i.toInt
  | some x => (x ++ i).toInt

/-- The bytes of a size field (R144). -/
def accessSize (z : BitVec 2) : Nat := 2 ^ z.toNat

/-- The effective address of an MA operand: base plus offset times size, modulo 2^72 (R165). -/
def Seq.effAddr (q : Seq) (b : BitVec 4) (off : Int) (size : Nat) : Nat :=
  (q.readA b.toNat + BitVec.ofInt 72 (off * size)).toNat

/-- The predicate of a word holds (R138, R139). -/
def Seq.holds (q : Seq) (h : Hdr) : Bool := decide (q.readQ h.pq.toNat ≠ h.ps)

/-- A result of the bundle being dispatched is scheduled to land after `l` bundle times; one to `s0` or `q0` is
discarded (R109, R115). -/
def State.result (s : State) (d : Dest) (v : Vec) (l : Nat) : State :=
  if d = .s 0 ∨ d = .q 0 then s else
  s.mapSeq s.focus (fun q => { q with
    lands := q.lands ++ [⟨d, v, l, s.ctx.num, s.ctx.pc, s.ctx.word, s.ctx.slot.index⟩] })

/-- A 64-bit result, zero-extended in an address register (R110). -/
def State.result64 (s : State) (d : BitVec 6) (v : Word) (l : Nat) : State := s.result (destOf d) (v.setWidth 512) l

/-- The tile the focus names; a grove sequencer has none, and its words never ask. -/
def State.tileNo (s : State) : Nat :=
  match s.focus with
  | .tile t => t
  | .seq _ => 0

/-- The registers and geometries a queued word captures at its bundle's dispatch (R111): the value of its register
operand, of its second one, and up to three geometries. -/
def captured (i : Instr) (q : Seq) (g : Nat → Vec) : Addr × Addr × Vec × Vec × Vec :=
  match i with
  | .slAffPort _ _ x _ | .ssAffPort _ _ x _ | .sConst _ _ x _ | .sDrop _ _ x _ | .sMcPort _ _ x _
  | .sChw _ _ x _ | .sChr _ _ x _ => (0, 0, g x.toNat, 0, 0)
  | .sBar _ _ x | .sWb _ _ x | .sTok _ _ x => (0, 0, g x.toNat, 0, 0)
  | .sResOut _ _ x _ | .sResIn _ _ x _ => (0, 0, g x.toNat, 0, 0)
  | .slAffCopy _ _ x t | .ssAffCopy _ _ x t | .sMcGeo _ _ x t => (0, 0, g x.toNat, g t.toNat, 0)
  | .slIndPort _ _ x _ y | .ssIndPort _ _ x _ y => (0, 0, g x.toNat, 0, g y.toNat)
  | .slIndCopy _ _ x t y | .ssIndCopy _ _ x t y => (0, 0, g x.toNat, g t.toNat, g y.toNat)
  | .mset _ _ a | .mgang _ _ a | .mtab _ _ a => (q.readSrc a, 0, 0, 0, 0)
  | .macc _ _ x _ | .mup _ x _ | .mepi _ x => (0, 0, g x.toNat, 0, 0)
  | .send _ _ a _ _ | .recv _ _ a _ _ | .recvadd _ _ a _ _ | .sendg _ _ a _ => (q.readA a.toNat, 0, 0, 0, 0)
  | .cntSet _ _ a => (q.readSrc a, 0, 0, 0, 0)
  | .ctlWr _ a _ | .cfgRun _ _ a _ | .cfgDec _ a _ _ | .tskAbort _ a | .tkStop _ a | .rgResume _ a
  | .chAlloc _ a _ => (q.readSrc a, 0, 0, 0, 0)
  | .qOpen _ _ a | .grpLd _ a => (q.readA a.toNat, 0, 0, 0, 0)
  | .tkStart _ a m => (q.readSrc a, q.readA m.toNat, 0, 0, 0)
  | .cfgLoad _ _ x _ => (0, 0, g x.toNat, 0, 0)
  | _ => (0, 0, 0, 0, 0)

/-- The source registers a word reads at dispatch, for the stall of R114 on an outstanding reply. -/
def sources (i : Instr) : List (BitVec 6) :=
  let areg (a : BitVec 4) : BitVec 6 := BitVec.ofNat 6 (32 + a.toNat)
  match i with
  | .add _ _ a b | .sub _ _ a b | .mul _ _ a b | .mulh _ _ a b | .mulhn _ _ a b | .and _ _ a b | .or _ _ a b
  | .xor _ _ a b | .andn _ _ a b | .shl _ _ a b | .shr _ _ a b | .sra _ _ a b | .min _ _ a b | .max _ _ a b
  | .minn _ _ a b | .maxn _ _ a b => [a, b]
  | .addi _ _ a _ | .shli _ _ a _ | .shri _ _ a _ | .srai _ _ a _ | .clz _ _ a | .popc _ _ a | .sext _ _ a _
  | .zext _ _ a _ | .mov _ _ a => [a]
  | .cmp _ _ _ a b => [a, b]
  | .cmpi _ _ _ a _ => [a]
  | .sel _ _ a b _ => [a, b.setWidth 6]
  | .ld _ _ b _ _ | .ldn _ _ b _ _ | .ldg _ _ b _ _ | .ldgn _ _ b _ _ => [areg b]
  | .st _ r b _ _ | .stg _ r b _ _ => [r, areg b]
  | .amoAdd _ _ b _ c | .amoMin _ _ b _ c | .amoMax _ _ b _ c | .amoAnd _ _ b _ c | .amoOr _ _ b _ c
  | .amoXor _ _ b _ c | .amoSwap _ _ b _ c => [areg b, c]
  | .amoCas _ d b _ c => [d, areg b, c]
  | .jmp _ a | .callr _ a | .ret _ a => [a]
  | .loop _ _ c => [c]
  | .aadd _ _ a b => [a, b]
  | .aaddi _ _ a _ => [a]
  | .amov _ _ a | .aget _ _ a | .ahi _ _ a _ => [areg a]
  | .aset _ _ a => [a]
  | .geoLd _ _ b _ | .geoSt _ _ b _ | .geoBase _ _ b => [areg b]
  | .geoAdv _ _ _ b => [b]
  | .mset _ _ a | .mgang _ _ a | .mtab _ _ a | .cntSet _ _ a => [a]
  | .send _ _ a _ _ | .recv _ _ a _ _ | .recvadd _ _ a _ _ | .sendg _ _ a _ => [areg a]
  | .ctlWr _ a _ | .cfgRun _ _ a _ | .cfgDec _ a _ _ | .tskAbort _ a | .tkStop _ a | .rgResume _ a
  | .chAlloc _ a _ => [a]
  | .qOpen _ _ a | .grpLd _ a => [areg a]
  | .tkStart _ a m => [a, areg m]
  | _ => []

/-- The destination register of a word, for R118 and the duplicate rule of R153. -/
def destination (i : Instr) : Option Dest :=
  match i with
  | .add _ d _ _ | .sub _ d _ _ | .mul _ d _ _ | .mulh _ d _ _ | .mulhn _ d _ _ | .and _ d _ _ | .or _ d _ _
  | .xor _ d _ _ | .andn _ d _ _ | .shl _ d _ _ | .shr _ d _ _ | .sra _ d _ _ | .min _ d _ _ | .max _ d _ _
  | .minn _ d _ _ | .maxn _ d _ _ | .addi _ d _ _ | .shli _ d _ _ | .shri _ d _ _ | .srai _ d _ _ | .clz _ d _
  | .popc _ d _ | .sext _ d _ _ | .zext _ d _ _ | .mov _ d _ | .li _ d _ | .sel _ d _ _ _ | .ld _ d _ _ _
  | .ldn _ d _ _ _ | .ldg _ d _ _ _ | .ldgn _ d _ _ _ | .amoAdd _ d _ _ _ | .amoMin _ d _ _ _ | .amoMax _ d _ _ _
  | .amoAnd _ d _ _ _ | .amoOr _ d _ _ _ | .amoXor _ d _ _ _ | .amoSwap _ d _ _ _ | .amoCas _ d _ _ _
  | .mstat _ d _ | .cntRd _ d _ | .ctlRd _ d _ | .qWait _ d _ | .grpRd _ d _ | .tkStat _ d _ => some (destOf d)
  | .cmp _ t _ _ _ | .cmpi _ t _ _ _ | .qop _ t _ _ _ => some (.q t.toNat)
  | .call _ _ | .callr _ _ => some (.s 30)
  | .aadd _ d _ _ | .aaddi _ d _ _ | .amov _ d _ | .aset _ d _ | .ahi _ d _ _ => some (.a d.toNat)
  | .aget _ d _ => some (.s d.toNat)
  | .geoLd _ g _ _ => some (.g g.toNat)
  | _ => none

/-- Whether a word takes an `ext` payload (the ext column of R146 to R151); a dash there, as at `loop`, `lexit` and `lnext`, counts as
no (log entry 44). -/
def takesExt (i : Instr) : Bool :=
  match i with
  | .addi .. | .li .. | .cmpi .. | .ld .. | .ldn .. | .st .. | .ldg .. | .ldgn .. | .stg .. | .br .. | .call ..
  | .loopi .. | .aaddi .. | .geoLd .. | .geoSt .. | .mseti .. | .cntAdd .. | .cntWait .. | .barInit .. => true
  | _ => false

/-- The header of a slot word; `nop`, `nop.y` and `ext` are never predicated. -/
def hdrOfWord (w : BitVec 32) : Hdr := hdrOf w

end Sys2Proof.Machine
end

