-- ==== Sys2Proof/Machine/Flags.lean ====
section
/-!
DEFINITION. The predicate computations of R164: the conditions of `cmp` and `cmpi`, the operations of `qop`. The core
has no other flags; a predicate is written as a result of latency 1 (R115).
-/
namespace Sys2Proof.Machine

/-- A condition between two scalars: 0 equal, 1 unequal, 2 less as signed, 3 less as unsigned (R144, R164). -/
def condition (k : BitVec 2) (a b : Word) : Bool :=
  match k.toNat with
  | 0 => a == b
  | 1 => a != b
  | 2 => a.slt b
  | _ => a.ult b

/-- An operation on two predicates: 0 and, 1 or, 2 exclusive or, 3 and not (R144, R164). -/
def predOp (o : BitVec 2) (a b : BitVec 1) : BitVec 1 :=
  match o.toNat with
  | 0 => a &&& b
  | 1 => a ||| b
  | 2 => a ^^^ b
  | _ => a &&& ~~~ b

/-- A truth value as a predicate. -/
def pred (b : Bool) : BitVec 1 := if b then 1 else 0

end Sys2Proof.Machine
end

