-- ==== Sys2Proof/Machine/Checks.lean ====
section
/-!
DEFINITION. The faults a word meets at the dispatch of its bundle (first case of R162), and the owner rule of the tile
scratchpad (R123, R124, R127).
-/
namespace Sys2Proof.Machine

/-- The panes of the spill carve-out, which ends at pane 255 (R127). -/
def Ctl.inCarve (c : Ctl) (p : Nat) : Bool :=
  decide (c.spillbase.toNat ≤ p) && decide (p < c.spillbase.toNat + c.spillpanes.toNat) && decide (p < 256)

/-- The owner bit of a pane as it reads: 0 inside the carve-out (R124, R127). -/
def Tile.engineOwns (x : Tile) (p : Nat) : Bool := !x.seq.ctl.inCarve p && x.own.get 0 p == 1

/-- The panes an access touches (R123, R124). -/
def panes (a n : Nat) : List Nat := (List.range ((a + n - 1) / 4096 - a / 4096 + 1)).map (· + a / 4096)

/-- Engines reach every pane of an access (R124). -/
def Tile.enginesReach (x : Tile) (a n : Nat) : Bool := (panes a n).all x.engineOwns

/-- A fault at dispatch: its cause and the whole of `trapinfo`. -/
abbrev DFault := BitVec 8 × Word

/-- The fault of the context's word with the detail its rule names (R162). -/
def State.dfault (s : State) (cause : BitVec 8) (detail : Nat) : Option DFault :=
  some (cause, trapInfo s.ctx.word detail s.ctx.slot.index)

/-- The checks of a core access to the tile scratchpad, in the order of R165. -/
def State.tspFault (s : State) (b : BitVec 4) (ea size : Nat) (load : Bool) : Option DFault :=
  let t := s.tileNo
  let x := s.tile t
  let low := ea % 0x100000
  if 0x100000 ≤ ea then s.dfault 0x0b low
  else if ea % size ≠ 0 then s.dfault 0x09 low
  else if b = 15 && !((panes ea size).all x.seq.ctl.inCarve) then some (0x0b, BitVec.ofNat 64 (2 ^ 63 + low))
  else if x.engineOwns (ea / 4096) then s.dfault 0x0a low
  else if load && s.mem.poisoned (tspAddr t ea) size then s.dfault 0x13 low
  else none

/-- The checks of an access to the grove scratchpad at dispatch (R167). -/
def State.gspFault (s : State) (ea size : Nat) : Option DFault :=
  if 0x1000000 ≤ ea then s.dfault 0x0b (ea % 0x1000000)
  else if ea % size ≠ 0 then s.dfault 0x09 (ea % 0x1000000)
  else none

/-- A group contains the tile (R192, R301). -/
def State.inGroup (s : State) (t grp : Nat) : Bool :=
  let e := (s.die (dieOf (groveOf t))).groups.get 0 grp
  groupValid e && e.getLsbD (s.dieTile t)

/-- The resident slot the tile's next `cfg.run` uses: a pending decision takes the place of the named slot, and a
re-run uses the slot of the aborted attempt (R305). -/
def Tile.runSlot (x : Tile) (l : BitVec 2) : Nat :=
  match x.task with
  | some k => if k.rerunning then k.slot else l.toNat
  | none => match x.fab.decision with
    | some (s1, s0) => if x.fab.latch then s1.toNat else s0.toNat
    | none => l.toNat

/-- A task is open on the tile and is not waiting to be run again. -/
def Tile.taskOpen (x : Tile) : Bool :=
  match x.task with
  | some k => !k.rerunning
  | none => false

/-- The loop levels that handlers have not frozen (R262). -/
def Seq.liveLevels (q : Seq) : Nat := q.loops.length - q.frozenLevels

/-- The fault a word meets at dispatch, if any. -/
def dispatchFault (s : State) (i : Instr) : Option DFault :=
  let q := s.seqOf s.focus
  let e := s.ctx.ext
  let ea (b : BitVec 4) (z : BitVec 2) (k : BitVec 8) : Nat := q.effAddr b (immSigned e k) (accessSize z)
  let amo (b : BitVec 4) (z : BitVec 1) : Option DFault := s.gspFault (q.readA b.toNat).toNat (if z = 1 then 8 else 4)
  match i with
  | .ld _ _ b z k | .ldn _ _ b z k => s.tspFault b (ea b z k) (accessSize z) true
  | .st _ _ b z k => s.tspFault b (ea b z k) (accessSize z) false
  | .ldg _ _ b z k | .ldgn _ _ b z k | .stg _ _ b z k => s.gspFault (ea b z k) (accessSize z)
  | .amoAdd _ _ b z _ | .amoMin _ _ b z _ | .amoMax _ _ b z _ | .amoAnd _ _ b z _ | .amoOr _ _ b z _
  | .amoXor _ _ b z _ | .amoSwap _ _ b z _ | .amoCas _ _ b z _ => amo b z
  | .loop _ _ c => if (q.opnd c).toNat % 2 ^ 32 ≠ 0 ∧ q.loops.length = 6 then s.dfault 0x07 0 else none
  | .loopi _ _ k => if immUnsigned e k ≠ 0 ∧ q.loops.length = 6 then s.dfault 0x07 0 else none
  | .lexit _ | .lnext _ => if q.liveLevels = 0 then s.dfault 0x08 0 else none
  | .geoLd _ _ b k => s.tspFault b (q.effAddr b (immSigned e k) 64) 64 true
  | .geoSt _ _ b k => s.tspFault b (q.effAddr b (immSigned e k) 64) 64 false
  | .barInit _ _ k => if immUnsigned e k = 0 ∨ 0xffff < immUnsigned e k then s.dfault 0x02 0 else none
  | .own _ f _ c => if 256 ≤ f.toNat + c.toNat then s.dfault 0x0b 0 else none
  | .tret _ => if q.inTrap || q.inEvent then none else s.dfault 0x02 0
  | .uiret _ => if q.handlers.head?.map (·.kind) = some .user then none else s.dfault 0x02 0
  | .halt _ => if s.focus.isGrove then none else
      if (s.tile s.tileNo).task.isSome then s.dfault 0x03 0 else none
  | .tskEnd _ => if (s.tile s.tileNo).task.isSome then none else s.dfault 0x03 0
  | .cfgLoad _ l _ _ =>
    let x := s.tile s.tileNo
    (match x.task with
      | some k => if k.slot = l.toNat then s.dfault 0x03 0 else none
      | none => none)
  | .cfgRun _ l _ g =>
    let x := s.tile s.tileNo
    if x.taskOpen || (x.fab.slots.get? (x.runSlot l)).isNone then s.dfault 0x03 0
    else if g ≠ 0 && !s.inGroup s.tileNo g.toNat then s.dfault 0x14 0
    else none
  | _ => none

/-- The meaning of a word that acts at dispatch: nothing where its predicate is false (R139), a trap at its bundle
where it faults (R162), its effect otherwise. -/
def atDispatch (i : Instr) (h : Hdr) (s : State) (act : State → State) : Result :=
  if (s.seqOf s.focus).holds h then
    match dispatchFault s i with
    | some (c, info) => .next (s.takeTrap s.focus c s.ctx.pc info)
    | none => .next (act s)
  else .next s

end Sys2Proof.Machine
end

