-- ==== Sys2Proof/Machine/Alu.lean ====
section
/-!
DEFINITION. The ALU instructions of slots A and B (R163, R164) and the fixed words of every slot (R140, R141). Each
reads its operands from the focus unit and schedules its result with the latency of R115.
-/
namespace Sys2Proof.Machine

/-- The high half of a product of signed operands (R163). -/
def mulHighSigned (a b : Word) : Word := BitVec.ofInt 64 (a.toInt * b.toInt / 2 ^ 64)
/-- The high half of a product of unsigned operands (R163). -/
def mulHighUnsigned (a b : Word) : Word := BitVec.ofNat 64 (a.toNat * b.toNat / 2 ^ 64)
/-- The count of leading zero bits, 64 for zero (R163). -/
def countLeadingZeros (a : Word) : Word := if a = 0 then 64 else BitVec.ofNat 64 (63 - Nat.log2 a.toNat)
/-- The count of one bits (R163). -/
def countOnes (a : Word) : Word := BitVec.ofNat 64 (((List.range 64).filter (fun i => a.getLsbD i)).length)
/-- The bits kept by `sext` and `zext` (R146, R163). -/
def extBits (i : BitVec 2) : Nat := 8 * 2 ^ i.toNat
/-- The low 8, 16 or 32 bits, sign-extended (R163). -/
def signExtendLow (a : Word) (i : BitVec 2) : Word := (a.setWidth (extBits i)).signExtend 64
/-- The low 8, 16 or 32 bits, zero-extended (R163). -/
def zeroExtendLow (a : Word) (i : BitVec 2) : Word := (a.setWidth (extBits i)).setWidth 64

/-- A three-register ALU word: `f` of its operands lands in d after `l` bundle times. -/
def aluR3 (i : Instr) (h : Hdr) (d a b : BitVec 6) (l : Nat) (f : Word → Word → Word) (s : State) : Result :=
  atDispatch i h s (fun s =>
    let q := s.seqOf s.focus
    s.result64 d (f (q.opnd a) (q.opnd b)) l)

/-- An ALU word of one register operand. -/
def aluR2 (i : Instr) (h : Hdr) (d a : BitVec 6) (f : Word → Word) (s : State) : Result :=
  atDispatch i h s (fun s => s.result64 d (f ((s.seqOf s.focus).opnd a)) 1)

/-- A predicate result (R164). -/
def aluPred (i : Instr) (h : Hdr) (t : BitVec 3) (f : State → BitVec 1) (s : State) : Result :=
  atDispatch i h s (fun s => s.result (.q t.toNat) ((f s).setWidth 512) 1)

/-- `add` (R163), L 1 (R115). -/
def execAdd (h : Hdr) (d a b : BitVec 6) (s : State) : Result :=
  aluR3 (.add h d a b) h d a b 1 (fun a b => a + b) s

/-- `sub` (R163), L 1 (R115). -/
def execSub (h : Hdr) (d a b : BitVec 6) (s : State) : Result :=
  aluR3 (.sub h d a b) h d a b 1 (fun a b => a - b) s

/-- `mul` (R163), L 3 (R115). -/
def execMul (h : Hdr) (d a b : BitVec 6) (s : State) : Result :=
  aluR3 (.mul h d a b) h d a b 3 (fun a b => a * b) s

/-- `mulh` (R163), L 3 (R115). -/
def execMulh (h : Hdr) (d a b : BitVec 6) (s : State) : Result :=
  aluR3 (.mulh h d a b) h d a b 3 (fun a b => mulHighSigned a b) s

/-- `mulhn` (R163), L 3 (R115). -/
def execMulhn (h : Hdr) (d a b : BitVec 6) (s : State) : Result :=
  aluR3 (.mulhn h d a b) h d a b 3 (fun a b => mulHighUnsigned a b) s

/-- `and` (R163), L 1 (R115). -/
def execAnd (h : Hdr) (d a b : BitVec 6) (s : State) : Result :=
  aluR3 (.and h d a b) h d a b 1 (fun a b => a &&& b) s

/-- `or` (R163), L 1 (R115). -/
def execOr (h : Hdr) (d a b : BitVec 6) (s : State) : Result :=
  aluR3 (.or h d a b) h d a b 1 (fun a b => a ||| b) s

/-- `xor` (R163), L 1 (R115). -/
def execXor (h : Hdr) (d a b : BitVec 6) (s : State) : Result :=
  aluR3 (.xor h d a b) h d a b 1 (fun a b => a ^^^ b) s

/-- `andn` (R163), L 1 (R115). -/
def execAndn (h : Hdr) (d a b : BitVec 6) (s : State) : Result :=
  aluR3 (.andn h d a b) h d a b 1 (fun a b => a &&& ~~~ b) s

/-- `shl` (R163), L 1 (R115). -/
def execShl (h : Hdr) (d a b : BitVec 6) (s : State) : Result :=
  aluR3 (.shl h d a b) h d a b 1 (fun a b => a <<< (b.toNat % 64)) s

/-- `shr` (R163), L 1 (R115). -/
def execShr (h : Hdr) (d a b : BitVec 6) (s : State) : Result :=
  aluR3 (.shr h d a b) h d a b 1 (fun a b => a >>> (b.toNat % 64)) s

/-- `sra` (R163), L 1 (R115). -/
def execSra (h : Hdr) (d a b : BitVec 6) (s : State) : Result :=
  aluR3 (.sra h d a b) h d a b 1 (fun a b => a.sshiftRight (b.toNat % 64)) s

/-- `min` (R163), L 1 (R115). -/
def execMin (h : Hdr) (d a b : BitVec 6) (s : State) : Result :=
  aluR3 (.min h d a b) h d a b 1 (fun a b => if b.slt a then b else a) s

/-- `max` (R163), L 1 (R115). -/
def execMax (h : Hdr) (d a b : BitVec 6) (s : State) : Result :=
  aluR3 (.max h d a b) h d a b 1 (fun a b => if a.slt b then b else a) s

/-- `minn` (R163), L 1 (R115). -/
def execMinn (h : Hdr) (d a b : BitVec 6) (s : State) : Result :=
  aluR3 (.minn h d a b) h d a b 1 (fun a b => if b.ult a then b else a) s

/-- `maxn` (R163), L 1 (R115). -/
def execMaxn (h : Hdr) (d a b : BitVec 6) (s : State) : Result :=
  aluR3 (.maxn h d a b) h d a b 1 (fun a b => if a.ult b then b else a) s

/-- `addi` (R163). -/
def execAddi (h : Hdr) (d a : BitVec 6) (i : BitVec 8) (s : State) : Result :=
  aluR2 (.addi h d a i) h d a (fun x => x + BitVec.ofInt 64 (immSigned s.ctx.ext i)) s

/-- `shli` (R163). -/
def execShli (h : Hdr) (d a : BitVec 6) (i : BitVec 6) (s : State) : Result :=
  aluR2 (.shli h d a i) h d a (fun x => x <<< i.toNat) s

/-- `shri` (R163). -/
def execShri (h : Hdr) (d a : BitVec 6) (i : BitVec 6) (s : State) : Result :=
  aluR2 (.shri h d a i) h d a (fun x => x >>> i.toNat) s

/-- `srai` (R163). -/
def execSrai (h : Hdr) (d a : BitVec 6) (i : BitVec 6) (s : State) : Result :=
  aluR2 (.srai h d a i) h d a (fun x => x.sshiftRight i.toNat) s

/-- `clz` (R163). -/
def execClz (h : Hdr) (d a : BitVec 6) (s : State) : Result :=
  aluR2 (.clz h d a) h d a (fun x => countLeadingZeros x) s

/-- `popc` (R163). -/
def execPopc (h : Hdr) (d a : BitVec 6) (s : State) : Result :=
  aluR2 (.popc h d a) h d a (fun x => countOnes x) s

/-- `mov` (R163). -/
def execMov (h : Hdr) (d a : BitVec 6) (s : State) : Result :=
  aluR2 (.mov h d a) h d a (fun x => x) s

/-- `sext` (R163). -/
def execSext (h : Hdr) (d a : BitVec 6) (i : BitVec 2) (s : State) : Result :=
  aluR2 (.sext h d a i) h d a (fun x => signExtendLow x i) s

/-- `zext` (R163). -/
def execZext (h : Hdr) (d a : BitVec 6) (i : BitVec 2) (s : State) : Result :=
  aluR2 (.zext h d a i) h d a (fun x => zeroExtendLow x i) s

/-- `li` (R163). -/
def execLi (h : Hdr) (d : BitVec 6) (i : BitVec 8) (s : State) : Result :=
  atDispatch (.li h d i) h s (fun s => s.result64 d (BitVec.ofInt 64 (immSigned s.ctx.ext i)) 1)

/-- `cmp` (R164). -/
def execCmp (h : Hdr) (t : BitVec 3) (k : BitVec 2) (a b : BitVec 6) (s : State) : Result :=
  aluPred (.cmp h t k a b) h t (fun s =>
    let q := s.seqOf s.focus
    pred (condition k (q.opnd a) (q.opnd b))) s

/-- `cmpi` (R164). -/
def execCmpi (h : Hdr) (t : BitVec 3) (k : BitVec 2) (a : BitVec 6) (i : BitVec 8) (s : State) : Result :=
  aluPred (.cmpi h t k a i) h t (fun s =>
    pred (condition k ((s.seqOf s.focus).opnd a) (BitVec.ofInt 64 (immSigned s.ctx.ext i)))) s

/-- `sel` (R164): a where the selector predicate reads 1, the scalar b otherwise. -/
def execSel (h : Hdr) (d a : BitVec 6) (b : BitVec 5) (c : BitVec 3) (s : State) : Result :=
  atDispatch (.sel h d a b c) h s (fun s =>
    let q := s.seqOf s.focus
    s.result64 d (if q.readQ c.toNat = 1 then q.opnd a else q.readS b.toNat) 1)

/-- `qop` (R164). -/
def execQop (h : Hdr) (t u v : BitVec 3) (o : BitVec 2) (s : State) : Result :=
  aluPred (.qop h t u v o) h t (fun s =>
    let q := s.seqOf s.focus
    predOp o (q.readQ u.toNat) (q.readQ v.toNat)) s

/-- `nop` does nothing (R140). -/
def execNop (s : State) : Result := .next s

/-- `nop.y` does nothing; its bundle is a realignment point, which the dispatch reads from the word (R113, R140). -/
def execNopY (s : State) : Result := .next s

/-- `ext` itself performs nothing (R141); the dispatch of its bundle keeps the payload for the next one. -/
def execExt (_x : BitVec 24) (s : State) : Result := .next s

end Sys2Proof.Machine
end

