-- ==== Sys2Proof/Machine/ElementOps.lean ====
section
/-!
DEFINITION. The operations of an element on lanes: the configuration word's fields (R65), operands (R66, R80), result
classes (R82) and every operation of the map of R85.
-/
namespace Sys2Proof.Machine

/-! ### The configuration word (R65) -/

def cf (w : BitVec 128) (lo n : Nat) : Nat := (w.extractLsb' lo n).toNat
def cOp (w : BitVec 128) : Nat := cf w 120 8
def cType (w : BitVec 128) : Nat := cf w 116 4
def cRnd (w : BitVec 128) : Round := Round.ofCode (cf w 114 2)
def cSat (w : BitVec 128) : Bool := w.getLsbD 113
def cFtz (w : BitVec 128) : Bool := w.getLsbD 112
def cMod (w : BitVec 128) : Nat := cf w 108 4
/-- The source code of input 0, 1 or 2. -/
def cSrc (w : BitVec 128) (i : Nat) : Nat := cf w (102 - 6 * i) 6
def cDst (w : BitVec 128) : Nat := cf w 84 6
def cGroup (w : BitVec 128) : Nat := cf w 80 4
def cAlign (w : BitVec 128) : Nat := cf w 76 4
/-- A counter limit: 0 means 65,536 (R11). -/
def cLim0 (w : BitVec 128) : Nat := if cf w 60 16 = 0 then 65536 else cf w 60 16
def cLim1 (w : BitVec 128) : Nat := if cf w 44 16 = 0 then 65536 else cf w 44 16
def cChain (w : BitVec 128) : Bool := w.getLsbD 43
def cHreset (w : BitVec 128) : Bool := w.getLsbD 42
def cEmit (w : BitVec 128) : Nat := cf w 40 2
def cImm (w : BitVec 128) : Nat := cf w 0 32

/-- The inputs an operation uses (R85). -/
def usedInputs (op mod : Nat) : List Nat :=
  if op = 0 then []
  else if [0x16, 0x17, 0x1c, 0x43, 0x44, 0x52, 0x70, 0x83].contains op then [0, 1, 2]
  else if (op = 0x24 ∨ op = 0x49) ∧ (mod = 6 ∨ mod = 7) then [0, 1, 2]
  else if op = 0x71 then (if mod = 0 then [0, 1] else [0])
  else if [0x10, 0x11, 0x12, 0x13, 0x14, 0x15, 0x18, 0x19, 0x1d, 0x1e, 0x1f, 0x20, 0x21, 0x22, 0x24, 0x25,
      0x40, 0x41, 0x42, 0x45, 0x46, 0x49, 0x51].contains op then [0, 1]
  else [0]

/-- The unsigned integer type of a type's width (R82). -/
def unsignedOf (ty : Nat) : Nat := match typeBytes ty with
  | 8 => 14
  | 4 => 13
  | 2 => 12
  | _ => 11

/-- The result type of a configuration word (R82). -/
def resultType (w : BitVec 128) : Nat := if cOp w = 0x24 ∨ cOp w = 0x49 then unsignedOf (cType w) else cType w

/-! ### Lanes and operands -/

/-- The lanes of a type in an element word (R8). -/
def laneCount (ty : Nat) : Nat := 64 / typeBytes ty
/-- The bits of a lane of a type. -/
def laneBits (ty : Nat) : Nat := 8 * typeBytes ty
/-- The pattern of lane k of a word in a type (R8). -/
def lanePat (ty : Nat) (w : Vec) (k : Nat) : Nat := (w.extractLsb' (laneBits ty * k) (laneBits ty)).toNat
/-- A word from its lanes. -/
def packLanes (ty : Nat) (f : Nat → Nat) : Vec :=
  BitVec.ofNat 512 ((List.range (laneCount ty)).foldl (fun a k => a + f k % 2 ^ laneBits ty * 2 ^ (laneBits ty * k)) 0)

/-- One input of a firing: its word, the type and scale its lanes are decoded in, and its value where it is a counter in
a floating operation (R80). -/
structure OpIn where
  word : Vec := 0
  fmt : Nat := 1
  scale : Int := 0
  num : Option XVal := none
  deriving DecidableEq, Repr

/-- What an operation reads: its configuration word, its inputs, the lo word of a pair, and the accumulator. -/
structure OpCtx where
  w : BitVec 128
  a : OpIn := {}
  b : OpIn := {}
  c : OpIn := {}
  lo : Vec := 0
  acc : Option Vec := none
  deriving DecidableEq, Repr

/-- A pattern is a subnormal of a floating type. -/
def isSubnormal (ty p : Nat) : Bool :=
  match floatFmt ty with
  | some f => decide (p / 2 ^ f.fbits % 2 ^ f.ebits = 0) && decide (p % 2 ^ f.fbits ≠ 0)
  | none => false

/-- A subnormal made a zero of its sign (R46). -/
def flush (ty p : Nat) : Nat := if isSubnormal ty p then p / 2 ^ (laneBits ty - 1) * 2 ^ (laneBits ty - 1) else p

/-- The pattern of a lane of an input. -/
def OpIn.pat (i : OpIn) (k : Nat) : Nat := lanePat i.fmt i.word k

/-- The value of a lane: flushed where `ftz` says so, then scaled exactly where it is floating (R46, R49, R80). A floating
operand is flushed whatever the configured type is, that of a conversion to an integer type too (log entry 57). -/
def OpIn.val (i : OpIn) (ftz : Bool) (k : Nat) : XVal :=
  match i.num with
  | some x => x
  | none =>
    let p := if ftz then flush i.fmt (i.pat k) else i.pat k
    if isFloat i.fmt then (decodeType i.fmt p).scale i.scale else decodeType i.fmt p

/-- The integer of an exact value that is an integer. -/
def XVal.int : XVal → Int
  | .fin neg m e => XVal.signedMant neg (m * 2 ^ e.toNat)
  | _ => 0

def OpCtx.ty (x : OpCtx) : Nat := cType x.w
def OpCtx.va (x : OpCtx) (k : Nat) : XVal := x.a.val (cFtz x.w) k
def OpCtx.vb (x : OpCtx) (k : Nat) : XVal := x.b.val (cFtz x.w) k
def OpCtx.vc (x : OpCtx) (k : Nat) : XVal := x.c.val (cFtz x.w) k
def OpCtx.ia (x : OpCtx) (k : Nat) : Int := (x.va k).int
def OpCtx.ib (x : OpCtx) (k : Nat) : Int := (x.vb k).int
def OpCtx.ic (x : OpCtx) (k : Nat) : Int := (x.vc k).int

/-! ### Result classes (R82) -/

/-- Class V: rounded in mode `rnd`, saturated first where `saturate` is 1, flushed where `ftz` is 1; an integer type
clamps. -/
def OpCtx.formV (x : OpCtx) (v : XVal) : Nat :=
  if isFloat x.ty then
    let p := quant x.ty (cRnd x.w) (if cSat x.w then sat x.ty v else v)
    if cFtz x.w then flush x.ty p else p
  else quant x.ty (cRnd x.w) v

/-- Class W: modulo 2^w, or clamped where `saturate` is 1. -/
def OpCtx.formW (x : OpCtx) (v : Int) : Nat :=
  let i := if cSat x.w then max (intMin x.ty) (min (intMax x.ty) v) else v
  (i % (2 ^ laneBits x.ty : Nat)).toNat

/-- Class M: all ones or all zeros in the lane width. -/
def OpCtx.formM (x : OpCtx) (b : Bool) : Nat := if b then 2 ^ laneBits x.ty - 1 else 0

/-- The pattern modulo the lane width (class B). -/
def OpCtx.formB (x : OpCtx) (p : Nat) : Nat := p % 2 ^ laneBits x.ty

/-! ### Integer operations (R86 to R89) -/

def opPass (x : OpCtx) (k : Nat) : Nat := x.formV (x.va k)
def opIadd (x : OpCtx) (k : Nat) : Nat := x.formW (x.ia k + x.ib k)
def opIsub (x : OpCtx) (k : Nat) : Nat := x.formW (x.ia k - x.ib k)
def opIadds (x : OpCtx) (k : Nat) : Nat := x.formV (.ofInt (x.ia k + x.ib k))
def opIsubs (x : OpCtx) (k : Nat) : Nat := x.formV (.ofInt (x.ia k - x.ib k))
def opImul (x : OpCtx) (k : Nat) : Nat := x.formW (x.ia k * x.ib k)
def opImulh (x : OpCtx) (k : Nat) : Nat :=
  let m : Int := (2 ^ laneBits x.ty : Nat)
  ((x.ia k * x.ib k / m) % m).toNat
def opImac (x : OpCtx) (k : Nat) : Nat := x.formW (x.ia k * x.ib k + x.ic k)

/-- The value of byte j of an `idot4` input: signed or unsigned by its header's format; where no header has given one
the spec states no signedness, and a free value of `Config` does (log entry 16). -/
def OpIn.byteAt (i : OpIn) (which j : Nat) : Int :=
  let p := lanePat 7 i.word j
  let signed := if i.fmt = 7 then true else if i.fmt = 11 then false else Config.idotSigned which
  if signed then (BitVec.ofNat 8 p).toInt else p

def opIdot4 (x : OpCtx) (k : Nat) : Nat :=
  x.formW (x.ic k + (List.range 4).foldl (fun t j => t + x.a.byteAt 0 (4 * k + j) * x.b.byteAt 1 (4 * k + j)) 0)
def opImin (x : OpCtx) (k : Nat) : Nat := x.formV (.ofInt (min (x.ia k) (x.ib k)))
def opImax (x : OpCtx) (k : Nat) : Nat := x.formV (.ofInt (max (x.ia k) (x.ib k)))
def opIabs (x : OpCtx) (k : Nat) : Nat := x.formW (x.ia k).natAbs
def opIneg (x : OpCtx) (k : Nat) : Nat := x.formW (-x.ia k)
def opIclip (x : OpCtx) (k : Nat) : Nat := x.formV (.ofInt (min (max (x.ia k) (x.ib k)) (x.ic k)))

/-- `ishl`: the pattern shifted, 0 from the width on; with `saturate` the value times 2^s. A shift past 64 saturates
like one of 64. -/
def opIshl (x : OpCtx) (k : Nat) : Nat :=
  let n := x.b.pat k
  if cSat x.w then x.formV (.ofInt (x.ia k * 2 ^ min n 64))
  else if laneBits x.ty ≤ n then 0 else x.formB (x.a.pat k * 2 ^ n)
def opIshr (x : OpCtx) (k : Nat) : Nat := if laneBits x.ty ≤ x.b.pat k then 0 else x.a.pat k / 2 ^ x.b.pat k
def opIsra (x : OpCtx) (k : Nat) : Nat :=
  ((BitVec.ofNat (laneBits x.ty) (x.a.pat k)).sshiftRight (min (x.b.pat k) (laneBits x.ty))).toNat
def opIand (x : OpCtx) (k : Nat) : Nat := x.formB (x.a.pat k &&& x.b.pat k)
def opIor (x : OpCtx) (k : Nat) : Nat := x.formB (x.a.pat k ||| x.b.pat k)
def opIxor (x : OpCtx) (k : Nat) : Nat := x.formB (x.a.pat k ^^^ x.b.pat k)
def opInot (x : OpCtx) (k : Nat) : Nat := x.formB (2 ^ laneBits x.ty - 1 - x.formB (x.a.pat k))

/-- The conditions of R88 on exact values. -/
def laneCond (mod : Nat) (a b c : XVal) : Bool :=
  let le (p q : XVal) : Bool := p.lt q || p.eq q
  match mod with
  | 0 => a.eq b
  | 1 => !a.eq b
  | 2 => a.lt b
  | 3 => le a b
  | 4 => b.lt a
  | 5 => le b a
  | 6 => !a.isNan && !b.isNan && !c.isNan && (a.lt b || c.lt a)
  | 7 => le b a && le a c
  | 8 => a.isNan || b.isNan
  | _ => !a.isNan && !b.isNan

def opIcmp (x : OpCtx) (k : Nat) : Nat := x.formM (laneCond (cMod x.w) (x.va k) (x.vb k) (x.vc k))
def opIscale (x : OpCtx) (k : Nat) : Nat := x.formV (((x.va k).mul (x.vb k)).scale (-(16 + cMod x.w : Int)))

/-! ### Floating operations (R90) -/

/-- The smaller of two values, −0 below +0; NaN where either is (R90). -/
def XVal.fmin (a b : XVal) : XVal :=
  if a.isNan || b.isNan then .nan
  else if a.lt b then a else if b.lt a then b else if a.isNeg then a else b
/-- The larger of two values, −0 below +0; NaN where either is (R90). -/
def XVal.fmax (a b : XVal) : XVal :=
  if a.isNan || b.isNan then .nan
  else if a.lt b then b else if b.lt a then a else if a.isNeg then b else a

def opFadd (x : OpCtx) (k : Nat) : Nat := x.formV (xsum (cRnd x.w) [x.va k, x.vb k])
def opFsub (x : OpCtx) (k : Nat) : Nat := x.formV (xsum (cRnd x.w) [x.va k, (x.vb k).neg])
def opFmul (x : OpCtx) (k : Nat) : Nat := x.formV ((x.va k).mul (x.vb k))
def opFma (x : OpCtx) (k : Nat) : Nat := x.formV (xsum (cRnd x.w) [(x.va k).mul (x.vb k), x.vc k])
def opFnma (x : OpCtx) (k : Nat) : Nat := x.formV (xsum (cRnd x.w) [x.vc k, ((x.va k).mul (x.vb k)).neg])
def opFmin (x : OpCtx) (k : Nat) : Nat := x.formV ((x.va k).fmin (x.vb k))
def opFmax (x : OpCtx) (k : Nat) : Nat := x.formV ((x.va k).fmax (x.vb k))
def opFabs (x : OpCtx) (k : Nat) : Nat := x.formV (x.va k).abs
def opFneg (x : OpCtx) (k : Nat) : Nat := x.formV (x.va k).neg
def opFcmp (x : OpCtx) (k : Nat) : Nat := x.formM (laneCond (cMod x.w) (x.va k) (x.vb k) (x.vc k))

/-! ### Compensated pairs (R91, R92) -/

/-- The normalised pair of an exact sum, whose zero sign is already that of R52 (R92). -/
def normPair (v : XVal) : Nat × Nat :=
  match v with
  | .nan => (rne32 .nan, 0)
  | .inf n => (rne32 (.inf n), 0)
  | .fin n m e =>
    let hi := rne32 (.fin n m e)
    let h := decodeType 1 hi
    if h.isInf || decide (m = 0) then (hi, 0) else (hi, rne32 (xsum .rne [.fin n m e, h.neg]))

/-- The hi and lo values of lane k of the pair an element reads. -/
def OpCtx.pair (x : OpCtx) (k : Nat) : XVal × XVal := (decodeType 1 (lanePat 1 x.a.word k), decodeType 1 (lanePat 1 x.lo k))

/-- `fadd.c2` on a lane: the new hi and lo patterns (R92). -/
def opFaddC2 (x : OpCtx) (k : Nat) : Nat × Nat := normPair (xsum .rne [(x.pair k).1, (x.pair k).2, x.vb k])
/-- `fma.c2` on a lane (R92). -/
def opFmaC2 (x : OpCtx) (k : Nat) : Nat × Nat :=
  normPair (xsum .rne [(x.vb k).mul (xsum .rne [(x.pair k).1, (x.pair k).2]), x.vc k])

/-! ### Conversions (R93, R94) -/

/-- A conversion of lane k with a power-of-two factor, by the lane counts of `a` and of the result (R93). The lanes of
`a` are those of the format it is decoded in: of `type` before any header, whatever the width of its edge (R80; log
entry 57). -/
def convert (x : OpCtx) (shift : Int) (k : Nat) : Nat :=
  let n := laneCount x.a.fmt
  let m := laneCount x.ty
  let form (j : Nat) : Nat := x.formV ((x.va j).scale shift)
  if n = m then form k
  else if m < n then form (cMod x.w * m + k)
  else if k / n = cMod x.w then form (k - cMod x.w * n) else 0

def opCvt (x : OpCtx) (k : Nat) : Nat := convert x 0 k
/-- `cvt.sc`: the factor is 2^m, m the signed low byte of the immediate. -/
def opCvtSc (x : OpCtx) (k : Nat) : Nat := convert x (BitVec.ofNat 8 (cImm x.w)).toInt k
/-- `qrnd`: rounded to the grid of the format `mod` and kept in `type`. -/
def opQrnd (x : OpCtx) (k : Nat) : Nat :=
  let f := cMod x.w
  let u := quant f (cRnd x.w) (if cSat x.w then sat f (x.va k) else x.va k)
  let p := quant x.ty (cRnd x.w) (decodeType f u)
  if cFtz x.w then flush x.ty p else p

/-! ### Selection and lane operations (R95, R96) -/

/-- `sel`: by the pattern of a's lane as it arrives. -/
def opElementSel (x : OpCtx) (k : Nat) : Nat := x.formV (if lanePat x.ty x.a.word k ≠ 0 then x.vb k else x.vc k)

/-- The lane that `lperm` moves to lane k. -/
def permLane (x : OpCtx) (k : Nat) : Nat :=
  let n := laneCount x.ty
  match cMod x.w with
  | 0 => lanePat x.ty x.b.word k % n
  | 1 => (k + cImm x.w) % n
  | 2 => n - 1 - k
  | _ => k ^^^ (cImm x.w % n)
def opLperm (x : OpCtx) (k : Nat) : Nat := x.formV (x.va (permLane x k))
def opLbcast (x : OpCtx) (k : Nat) : Nat := x.formV (x.va (cImm x.w % laneCount x.ty))

/-- The combination of R96 of lanes 0 to n − 1, formed by its class; a zero sum takes its sign by R52. -/
def combine (x : OpCtx) (n : Nat) : Nat :=
  let ks := List.range n
  match cMod x.w with
  | 0 =>
    if isFloat x.ty then x.formV (xsum (cRnd x.w) (ks.map x.va)) else x.formW (ks.foldl (fun t k => t + x.ia k) 0)
  | 1 => x.formV (ks.foldl (fun v k => v.fmin (x.va k)) (x.va 0))
  | 2 => x.formV (ks.foldl (fun v k => v.fmax (x.va k)) (x.va 0))
  | 3 => x.formB (ks.foldl (fun p k => p &&& x.a.pat k) (x.a.pat 0))
  | 4 => x.formB (ks.foldl (fun p k => p ||| x.a.pat k) 0)
  | _ => x.formB (ks.foldl (fun p k => p ^^^ x.a.pat k) 0)

def opLred (x : OpCtx) (_k : Nat) : Nat := combine x (laneCount x.ty)
def opLscan (x : OpCtx) (k : Nat) : Nat := combine x (k + 1)

/-- `racc`: the accumulator combined with a's lane, or the lane alone where it is empty (R97). -/
def opRacc (x : OpCtx) (k : Nat) : Nat :=
  match x.acc with
  | none =>
    (match cMod x.w with
    | 0 => if isFloat x.ty then x.formV (x.va k) else x.formW (x.ia k)
    | 1 | 2 => x.formV (x.va k)
    | _ => x.formB (x.a.pat k))
  | some w =>
    let p := lanePat x.ty w k
    let v := decodeType x.ty p
    match cMod x.w with
    | 0 => if isFloat x.ty then x.formV (xsum (cRnd x.w) [v, x.va k]) else x.formW (v.int + x.ia k)
    | 1 => x.formV (v.fmin (x.va k))
    | 2 => x.formV (v.fmax (x.va k))
    | 3 => x.formB (p &&& x.a.pat k)
    | 4 => x.formB (p ||| x.a.pat k)
    | _ => x.formB (p ^^^ x.a.pat k)

/-- `cnt`: one more where the pattern of a's lane is nonzero (R97). -/
def opElCnt (x : OpCtx) (k : Nat) : Nat :=
  let v : Int := match x.acc with
    | none => 0
    | some w => (decodeType x.ty (lanePat x.ty w k)).int
  x.formW (v + if lanePat x.ty x.a.word k ≠ 0 then 1 else 0)

/-- `cmask`: a's lane 0 ≤ c's lane 0 + k < b's lane 0 (R98). -/
def opCmask (x : OpCtx) (k : Nat) : Nat :=
  let p := x.ic 0 + k
  x.formM (decide (x.ia 0 ≤ p) && decide (p < x.ib 0))

/-- `tagck` and `tagset` pass their data (R99). -/
def opTagck (x : OpCtx) (k : Nat) : Nat := x.formV (x.va k)
def opTagset (x : OpCtx) (k : Nat) : Nat := x.formV (x.va k)

/-! ### Transcendental operations (R100 to R105) -/

/-- An `f32` constant. -/
def f32c (p : Nat) : XVal := decodeType 1 p

/-- `rne32`, as a value. -/
def r32 (x : XVal) : XVal := decodeType 1 (rne32 x)

/-- `rne32(p × d + c)`. -/
def polyStep (p d c : XVal) : XVal := r32 (xsum .rne [p.mul d, c])

/-- The largest r below 2^n whose k-th power does not exceed v. -/
def rootFloor (k v : Nat) : Nat → Nat → Nat
  | 0, r => r
  | n + 1, r => rootFloor k v n (if (r + 2 ^ n) ^ k ≤ v then r + 2 ^ n else r)

/-- m and e with |x| = m 2^e and 1 ≤ m < 2, m as a value (R100). -/
def normed (m : Nat) (e : Int) : XVal × Int :=
  (.fin false m (-(Nat.log2 m : Int)), e + Nat.log2 m)

/-- The floor of (v − low) × 2^n of a positive value. -/
def floorIdx (v : XVal) (n : Nat) (low : Nat) : Nat :=
  match v with
  | .fin _ m e => (roundAt .rtz false m (e + n) 0) - low
  | _ => 0

/-- t + t p, exact. -/
def tablePoly (t p : XVal) : XVal := xsum .rne [t, t.mul p]

/-- The exact final value of `frcp` (R100, R101). -/
def rcpValue (x : XVal) : XVal :=
  match x with
  | .nan => .nan
  | .inf n => .fin n 0 0
  | .fin n m' e' =>
    if m' = 0 then .inf n else
    let (m, e) := normed m' e'
    let i := floorIdx m 7 128
    let t := if i = 0 then f32c 0x3f800000 else r32 (quotient false 256 (2 * i + 257) 0)
    let d := r32 (xsum .rne [m.mul t, f32c 0xbf800000])
    let p := f32c 0xbf800000
    let p := polyStep p d (f32c 0x3f800000)
    let p := polyStep p d (f32c 0xbf800000)
    let p := r32 (p.mul d)
    let y := (tablePoly t p).scale (-e)
    if n then y.neg else y

/-- The table entry of `frsq`: rne32(1 / sqrt((2 i + 129) / 128)) (R102). -/
def rsqEntry (i : Nat) : XVal :=
  if i = 0 then f32c 0x3f800000
  else r32 (.fin false (2 * rootFloor 2 (2 ^ 127 / (2 * i + 129)) 62 0 + 1) (-61))

/-- The exact final value of `frsq` (R100, R102). -/
def rsqValue (x : XVal) : XVal :=
  match x with
  | .nan => .nan
  | .inf n => if n then .nan else .fin false 0 0
  | .fin n m' e' =>
    if m' = 0 then .inf n else if n then .nan else
    let (m0, e0) := normed m' e'
    let (m, e) := if e0 % 2 = 0 then (m0, e0) else (m0.scale 1, e0 - 1)
    let t := rsqEntry (floorIdx m 6 64)
    let d := r32 (xsum .rne [(m.mul t).mul t, f32c 0xbf800000])
    let p := f32c 0x3e8c0000
    let p := polyStep p d (f32c 0xbea00000)
    let p := polyStep p d (f32c 0x3ec00000)
    let p := polyStep p d (f32c 0xbf000000)
    let p := r32 (p.mul d)
    (tablePoly t p).scale (-(e / 2))

/-- The table entry of `fexp2`: rne32(2^(i / 64)) (R103). -/
def exp2Entry (i : Nat) : XVal :=
  if i = 0 then f32c 0x3f800000 else r32 (.fin false (2 * rootFloor 64 (2 ^ (i + 64 * 40)) 41 0 + 1) (-41))

/-- The exact final value of `fexp2` (R100, R103). The power k is cut at ±4,096: past it every format here overflows,
or rounds to the same value, alike. -/
def exp2Value (x : XVal) : XVal :=
  match x with
  | .nan => .nan
  | .inf n => if n then .fin false 0 0 else .inf false
  | .fin neg m e =>
    if m = 0 then .fin false 1 0 else
    let n := roundInt .rdn neg m (e + 6)
    let i := (n % 64).toNat
    let k := max (-4096) (min 4096 ((n - i) / 64))
    let g := xsum .rne [.fin neg m e, (XVal.ofInt (-n)).scale (-6)]
    let t := exp2Entry i
    let p := f32c 0x3d635847
    let p := polyStep p g (f32c 0x3e75fdf0)
    let p := polyStep p g (f32c 0x3f317218)
    let p := r32 (p.mul g)
    (tablePoly t p).scale k

/-- n binary digits of log2 of x / 2^256, 1 ≤ x / 2^256 < 2, by repeated squaring. -/
def log2Digits : Nat → Nat → Nat → Nat
  | 0, _, acc => acc
  | n + 1, x, acc =>
    let y := x * x / 2 ^ 256
    if 2 ^ 257 ≤ y then log2Digits n (y / 2) (2 * acc + 1) else log2Digits n y (2 * acc)

/-- rne32(−log2 t) of a positive `f32` value that is no power of two (R104): 80 digits and a sticky bit. -/
def negLog2 (t : XVal) : XVal :=
  match t with
  | .fin _ m e =>
    let b := Nat.log2 m
    let l := log2Digits 80 (m * 2 ^ (256 - b)) 0
    let v : Int := -(2 * ((e + b) * 2 ^ 80 + l) + 1)
    r32 (.fin (decide (v < 0)) v.natAbs (-81))
  | y => y

/-- The exact final value of `flog2` (R100, R104). At 1 the sum is an exact zero, whose sign R52 gives as the pseudocode says: −0 under RDN,
where the sentence "For x = 1 the result is +0" names no mode (DEDUCED, log entry 61). -/
def log2Value (rnd : Round) (x : XVal) : XVal :=
  match x with
  | .nan => .nan
  | .inf n => if n then .nan else .inf false
  | .fin n m' e' =>
    if m' = 0 then .inf true else if n then .nan else
    let (m0, e0) := normed m' e'
    let (m, e) := if floorIdx m0 1 0 = 3 then (m0.scale (-1), e0 + 1) else (m0, e0)
    let i := floorIdx m 7 96
    let unit : Bool := i = 31 || i = 32
    let t := if unit then f32c 0x3f800000 else r32 (quotient false 256 (2 * i + 193) 0)
    let l := if unit then f32c 0 else negLog2 t
    let d := r32 (xsum .rne [m.mul t, f32c 0xbf800000])
    let p := f32c 0xbeb8aa3b
    let p := polyStep p d (f32c 0x3ef6384f)
    let p := polyStep p d (f32c 0xbf38aa3b)
    let p := polyStep p d (f32c 0x3fb8aa3b)
    let p := r32 (p.mul d)
    xsum rnd [.ofInt e, l, p]

/-- The exact final value of `fsig` (R105). -/
def sigValue (x : XVal) : XVal :=
  match x with
  | .nan => .nan
  | y =>
    let t := r32 (y.neg.mul (f32c 0x3fb8aa3b))
    let g := r32 (exp2Value t)
    let s := r32 (xsum .rne [f32c 0x3f800000, g])
    rcpValue s

/-- The exact final value of `ftanh` (R105). -/
def tanhValue (rnd : Round) (x : XVal) : XVal :=
  match x with
  | .nan => .nan
  | y =>
    if y.abs.lt (.fin false 1 (-12)) then y
    else
      let t := r32 (y.mul (f32c 0x4038aa3b))
      let g := r32 (exp2Value t)
      let s := r32 (xsum .rne [f32c 0x3f800000, g])
      let h := r32 (rcpValue s)
      xsum rnd [f32c 0x3f800000, (h.scale 1).neg]

/-- The exact final value of `fsilu` (R105). -/
def siluValue (x : XVal) : XVal :=
  match x with
  | .nan => .nan
  | .inf n => if n then .fin true 0 0 else .inf false
  | y => y.mul (r32 (sigValue y))

def opFrcp (x : OpCtx) (k : Nat) : Nat := x.formV (rcpValue (x.va k))
def opFrsq (x : OpCtx) (k : Nat) : Nat := x.formV (rsqValue (x.va k))
def opFexp2 (x : OpCtx) (k : Nat) : Nat := x.formV (exp2Value (x.va k))
def opFlog2 (x : OpCtx) (k : Nat) : Nat := x.formV (log2Value (cRnd x.w) (x.va k))
def opFtanh (x : OpCtx) (k : Nat) : Nat := x.formV (tanhValue (cRnd x.w) (x.va k))
def opFsig (x : OpCtx) (k : Nat) : Nat := x.formV (sigValue (x.va k))
def opFsilu (x : OpCtx) (k : Nat) : Nat := x.formV (siluValue (x.va k))

/-! ### The operation map (R69, R85) -/

/-- The lane function of an opcode; those of the pairs write two words and stand apart. -/
def laneOp (op : Nat) : OpCtx → Nat → Nat :=
  match op with
  | 0x01 => opPass
  | 0x10 => opIadd | 0x11 => opIsub | 0x12 => opIadds | 0x13 => opIsubs | 0x14 => opImul | 0x15 => opImulh
  | 0x16 => opImac | 0x17 => opIdot4 | 0x18 => opImin | 0x19 => opImax | 0x1a => opIabs | 0x1b => opIneg
  | 0x1c => opIclip | 0x1d => opIshl | 0x1e => opIshr | 0x1f => opIsra | 0x20 => opIand | 0x21 => opIor
  | 0x22 => opIxor | 0x23 => opInot | 0x24 => opIcmp | 0x25 => opIscale
  | 0x40 => opFadd | 0x41 => opFsub | 0x42 => opFmul | 0x43 => opFma | 0x44 => opFnma | 0x45 => opFmin
  | 0x46 => opFmax | 0x47 => opFabs | 0x48 => opFneg | 0x49 => opFcmp
  | 0x4a => opFrcp | 0x4b => opFrsq | 0x4c => opFexp2 | 0x4d => opFlog2 | 0x4e => opFtanh | 0x4f => opFsig
  | 0x50 => opFsilu
  | 0x60 => opCvt | 0x61 => opCvtSc | 0x62 => opQrnd
  | 0x70 => opElementSel | 0x71 => opLperm | 0x72 => opLbcast | 0x73 => opLred | 0x74 => opLscan
  | 0x80 => opRacc | 0x82 => opElCnt | 0x83 => opCmask | 0x84 => opTagck | 0x85 => opTagset
  | _ => fun _ _ => 0

/-- The result word of a data firing, and the lo word of a pair (R82, R92). -/
def OpCtx.results (x : OpCtx) : Vec × Vec :=
  match cOp x.w with
  | 0x51 => (packLanes 1 (fun k => (opFaddC2 x k).1), packLanes 1 (fun k => (opFaddC2 x k).2))
  | 0x52 => (packLanes 1 (fun k => (opFmaC2 x k).1), packLanes 1 (fun k => (opFmaC2 x k).2))
  | op => (packLanes x.ty (laneOp op x), 0)

end Sys2Proof.Machine
end

