-- ==== Sys2Proof/Machine/Memory.lean ====
section
/-!
DEFINITION. Memory as tasks see it: the log, the read signature, channel words (R168, R293, R294, R317 to R321, R375),
and the loads, stores and atomics of slot A (R165 to R169) with the reply of a scoreboarded one (R116).
-/
namespace Sys2Proof.Machine

/-! ### The log and the signature of a task -/

/-- A command or access of the tile belongs to a task: one is open, has not ended, and has not had its commit point (R134,
R229). -/
def Tile.inTask (x : Tile) : Bool := x.taskOpen && !x.seq.ctl.tended && !(match x.task with
  | some k => k.committed
  | none => false)

/-- The number of distinct aligned 64-byte blocks in a log, whose keys rise (R375). -/
def logBlocks : KMap Byte → Nat → Nat → Nat
  | [], _, n => n
  | (a, _) :: t, last, n => if a / 64 + 1 = last then logBlocks t last n else logBlocks t (a / 64 + 1) (n + 1)

/-- The destination of a remote write: a peer edge of the die, or a namespace behind a store port (R310, R318). -/
def Remote.dest : Remote → Nat × Nat
  | .peer e _ _ _ => (0, e)
  | .store p n _ _ => (p + 1, n)

/-- The aligned 64-byte blocks that a remote write writes (R375). -/
def Remote.blocks (r : Remote) : List ((Nat × Nat) × Nat) :=
  match r with
  | .peer _ a _ _ => [(r.dest, a.toNat / 64)]
  | .store _ _ o bs => (List.range ((o + bs.length - 1) / 64 - o / 64 + 1)).map (fun i => (r.dest, o / 64 + i))

/-- The blocks that a task's log counts, those of its remote writes with them (R375). -/
def blockCount (log : KMap Byte) (remote : List Remote) : Nat :=
  logBlocks log 0 0 + (remote.flatMap Remote.blocks).eraseDups.length

/-- The signature key of a location: grove scratchpads by die, grove and address, HBM by physical address (R320). -/
def granuleKey (a : Nat) : Nat :=
  if a < hbmEnd then 2 ^ 40 + a / 256
  else
    let g := (a - gspAddr 0 0) / 0x1000000
    let off := (a - gspAddr 0 0) % 0x1000000
    (dieOf g * 2 ^ 28 + g % 10 * 2 ^ 24 + off) / 256

/-- The first signature bit of a key (R320). -/
def sigBit0 (k : Nat) : Nat := (k ^^^ (k / 2 ^ 10) ^^^ (k / 2 ^ 20) ^^^ (k / 2 ^ 30) ^^^ (k / 2 ^ 40)) % 1024
/-- The second signature bit of a key (R320). -/
def sigBit1 (k : Nat) : Nat := k * 0x9E3779B97F4A7C15 % 2 ^ 64 / 2 ^ 54

/-- A key enters a signature. -/
def signKey (sig : BitVec 1024) (k : Nat) : BitVec 1024 :=
  sig ||| BitVec.twoPow 1024 (sigBit0 k) ||| BitVec.twoPow 1024 (sigBit1 k)

/-- A key has both its bits set (R321). -/
def sigHas (sig : BitVec 1024) (k : Nat) : Bool := sig.getLsbD (sigBit0 k) && sig.getLsbD (sigBit1 k)

/-- The 256-byte granules an access touches (R320). -/
def granules (a n : Nat) : List Nat := (List.range ((a + n - 1) / 256 - a / 256 + 1)).map (fun i => (a / 256 + i) * 256)

/-- A read of the tile's task enters its signature (R320). -/
def State.sign (s : State) (t a n : Nat) : State :=
  s.mapTile t (fun x => { x with task := x.task.map (fun k =>
    { k with signature := (granules a n).foldl (fun sig b => signKey sig (granuleKey b)) k.signature }) })

/-- One byte as a reader sees it: from its own task's log first (R317). -/
def State.taskByte (s : State) (t : Nat) (inTask : Bool) (a : Nat) : Byte :=
  match inTask, (s.tile t).task with
  | true, some k => (KMap.get? k.log a).getD (s.mem.bytes.read a)
  | _, _ => s.mem.bytes.read a

/-- A run of bytes as a reader sees it (R317). -/
def State.taskBytes (s : State) (t : Nat) (inTask : Bool) (a n : Nat) : List Byte :=
  (List.range n).map (fun i => s.taskByte t inTask (a + i))

/-- The 4-byte words of which an access covers a part only (R340). -/
def partWords (a n : Nat) : List Nat :=
  ((List.range ((a + n - 1) / 4 - a / 4 + 1)).map (fun i => 4 * (a / 4 + i))).filter (fun w =>
    !(decide (a ≤ w) && decide (w + 4 ≤ a + n)))

/-- The log of a tile's task takes its place in HBM, `blocks` blocks of 64 bytes in an arrangement of the device's own; no log is
placed at the reset value of `dlogbase` (R368, R375; log entry 60). -/
def State.placeLog (s : State) (t first blocks : Nat) : State :=
  let base := (s.die (dieOf (groveOf t))).dlogbase.toNat
  if base = 0 ∨ blocks ≤ first then s else
    let s' := s.write (base + s.dieTile t * 0x1000000 + 64 * first) ((List.range (8 * (blocks - first))).flatMap (fun i =>
      leBytes 8 (Config.freeWord (s.fresh + i)).toNat))
    { s' with fresh := s.fresh + 8 * (blocks - first) }

/-- A task's record with more in its log; where that would need block 262,145 the task ends instead (R375). -/
def State.growLog (s : State) (t : Nat) (k new : Task) : State :=
  let blocks := blockCount new.log new.remote
  if blocks ≤ 262144 then
    (s.placeLog t (blockCount k.log k.remote) blocks).mapTile t (fun x => { x with task := some new })
  else s.endTask t .fault 0x0b

/-- A buffered write enters the log (R317). -/
def State.logWrite (s : State) (t a : Nat) (bs : List Byte) : State :=
  match (s.tile t).task with
  | none => s
  | some k => s.growLog t k { k with
      log := (bs.zipIdx).foldl (fun l e => KMap.put l (a + e.2) e.1) k.log
      part := (partWords a bs.length).foldl (fun l w => insertNat w l) k.part }

/-- Remote writes enter the log of a tile's task (R317, R432, R435). -/
def State.logRemote (s : State) (t : Nat) (rs : List Remote) : State :=
  match (s.tile t).task with
  | none => s
  | some k => s.growLog t k { k with remote := k.remote ++ rs }

/-- The word at a grove-scratchpad address is present for a reader: committed, or in its own task's log (R293, R317). -/
def State.presentFor (s : State) (t : Nat) (inTask : Bool) (a : Nat) : Bool :=
  s.present a || (inTask && match (s.tile t).task with
    | some k => k.present.contains (a / 64 * 64)
    | none => false)

/-- The element words of a grove scratchpad that an access touches, by number. -/
def touchedWords (a n : Nat) : List Nat := (List.range ((a + n - 1) / 64 - a / 64 + 1)).map (fun i => a / 64 + i)

/-- A write meets a channel word that is present already: in committed state, or, where it is to be buffered, in the log
(R293, R294). -/
def State.rewrites (s : State) (t : Nat) (inTask : Bool) (g w : Nat) : Bool :=
  match (s.grove g).channelOf (64 * w) with
  | none => false
  | some (_, e) => if inTask && chanXtask e then s.presentFor t true (gspAddr g (64 * w)) else s.present (gspAddr g (64 * w))

/-- The bytes of a store that lie in one element word perform, or enter the log, with the presence of a channel word (R293,
R294, R317). -/
def State.putWord (s : State) (t : Nat) (inTask : Bool) (g w a : Nat) (bs : List Byte) : State :=
  let lo := max a (64 * w)
  let ga := gspAddr g lo
  let part := (bs.drop (lo - a)).take (64 * w + 64 - lo)
  match (s.grove g).channelOf lo with
  | none => if inTask then s.logWrite t ga part else s.write ga part
  | some (_, e) =>
    if inTask && chanXtask e then
      (s.logWrite t ga part).mapTile t (fun x => { x with task := x.task.map (fun k =>
        { k with present := insertNat (ga / 64 * 64) k.present }) })
    else
      let s := (s.write ga part).setPresent ga
      if inTask then s.mapTile t (fun x => { x with task := x.task.map (fun k =>
        { k with chanSet := insertNat (ga / 64 * 64) k.chanSet }) }) else s

/-- A store to a grove scratchpad performs, or enters the log: the rules of every channel word it touches (R168, R293, R294)
and of buffering (R317). A refused channel word gives the cause, and nothing is written. -/
def State.gspPut (s : State) (t : Nat) (inTask : Bool) (g a : Nat) (bs : List Byte) : Except (BitVec 8) State :=
  let ws := touchedWords a bs.length
  if ws.any (s.rewrites t inTask g) then .error 0x16
  else .ok (ws.foldl (fun s w => s.putWord t inTask g w a bs) s)

/-! ### Requests of slot A to the grove scratchpad -/

/-- Two requests touch a common byte. -/
def Req.overlaps (r : Req) (ea size : Nat) : Bool := decide (r.ea < ea + size) && decide (ea < r.ea + r.size)

/-- The bytes an atomic leaves, from the old value and its operands of `n` bits (R169). -/
def atomicNew (k : ReqKind) (n : Nat) (old b c : Nat) : Nat :=
  let m := 2 ^ n
  let signed (x : Nat) : Int := (BitVec.ofNat n x).toInt
  match k with
  | .add => (old + b) % m
  | .min => if signed b < signed old then b else old
  | .max => if signed old < signed b then b else old
  | .and => old &&& b
  | .or => old ||| b
  | .xor => old ^^^ b
  | .swap => b
  | .cas => if old = c then b else old
  | .load _ | .store => old

/-- The value a load delivers (R166, R167). -/
def loaded (signed : Bool) (size v : Nat) : Word :=
  if signed then (BitVec.ofNat (8 * size) v).signExtend 64 else BitVec.ofNat 64 v

/-- The unit's tile for its task, or no task at all (a grove sequencer opens none, R297). -/
def State.unitTask (s : State) (u : Agent) : Bool :=
  match u with
  | .tile t => (s.tile t).inTask
  | .seq _ => false

def Agent.tileNo : Agent → Nat
  | .tile t => t
  | .seq _ => 0

/-- What a request's access at its bank gives: nothing, the value of a reply, or a trap with the detail of `trapinfo`. -/
inductive Reply where
  | none
  | value (v : Word)
  | trap (cause : BitVec 8) (detail : Nat)
  deriving DecidableEq, Repr

/-- What performing a request does: nothing yet where its channel word is absent; otherwise the state after it, and what it
gives. A poisoned word is reported with the address (R167 to R169, R290, R293). -/
def State.perform (s : State) (u : Agent) (r : Req) : Option (State × Reply) :=
  let g := u.grove
  let t := u.tileNo
  let ga := gspAddr g r.ea
  let chan := (s.grove g).channelOf r.ea
  match r.kind with
  | .load signed =>
    if chan.isSome && !s.presentFor t r.inTask ga then none
    else if s.mem.poisoned ga r.size then some (s, .trap 0x13 r.ea)
    else
      let v := loaded signed r.size (leNat (s.taskBytes t r.inTask ga r.size))
      some (if r.inTask then s.sign t ga r.size else s, .value v)
  | .store =>
    match s.gspPut t r.inTask g r.ea (leBytes r.size r.data.toNat) with
    | .ok s' => some (s', .none)
    | .error c => some (s, .trap c 0)
  | k =>
    if chan.isSome then some (s, .trap 0x16 0)
    else if s.mem.poisoned ga r.size then some (s, .trap 0x13 r.ea)
    else
      let old := s.readNat ga r.size
      let m := 2 ^ (8 * r.size)
      some (s.writeNat ga r.size (atomicNew k (8 * r.size) old (r.data.toNat % m) (r.cmp.toNat % m)),
        .value (BitVec.ofNat 64 old))

/-- The bank of a grove-scratchpad address (R289). -/
def gspBank (a : Nat) : Nat := a / 128 % 32

/-- An earlier request keeps a later one from performing: to the same byte (R168, R315), or to the same bank (R289). A store
that enters the task's buffer makes no access to a bank (log entry 23). -/
def Req.before (p r : Req) : Bool :=
  p.val.isNone && (p.overlaps r.ea r.size || (!p.buffered && !r.buffered && decide (gspBank p.ea = gspBank r.ea)))

/-- A request issues with its bundle, and performs at its bank in a later step (R168, R169, R289, R316). -/
def State.request (s : State) (r : Req) : State :=
  s.mapSeq s.focus (fun q => { q with reqs := q.reqs ++ [{ r with num := s.ctx.num }] })

/-- The destination of a scoreboarded word; `s0` discards its result but the request is made (R109). -/
def replyDest (d : BitVec 6) : Option Dest := some (destOf d)

/-- `ld` and `ldn`: the tile scratchpad is read at dispatch, and the value lands four bundle times later (R166). -/
def loadTsp (signed : Bool) (d : BitVec 6) (b : BitVec 4) (z : BitVec 2) (i : BitVec 8) (s : State) : State :=
  let ea := (s.seqOf s.focus).effAddr b (immSigned s.ctx.ext i) (accessSize z)
  s.result64 d (loaded signed (accessSize z) (s.readNat (tspAddr s.tileNo ea) (accessSize z))) 4

/-- `ldg` and `ldgn`: a scoreboarded request (R167). -/
def loadGsp (signed : Bool) (d : BitVec 6) (b : BitVec 4) (z : BitVec 2) (i : BitVec 8) (s : State) : State :=
  let ea := (s.seqOf s.focus).effAddr b (immSigned s.ctx.ext i) (accessSize z)
  s.request { kind := .load signed, dest := replyDest d, ea := ea, size := accessSize z, data := 0, cmp := 0,
              pc := s.ctx.pc, word := s.ctx.word, inTask := s.unitTask s.focus }

/-- The tile-scratchpad load `ld`, sign-extended (R165, R166). -/
def execLd (h : Hdr) (d : BitVec 6) (b : BitVec 4) (z : BitVec 2) (i : BitVec 8) (s : State) : Result :=
  atDispatch (.ld h d b z i) h s (loadTsp true d b z i)

/-- `ldn`, zero-extended (R165, R166). -/
def execLdn (h : Hdr) (d : BitVec 6) (b : BitVec 4) (z : BitVec 2) (i : BitVec 8) (s : State) : Result :=
  atDispatch (.ldn h d b z i) h s (loadTsp false d b z i)

/-- `st` performs at the dispatch of its bundle (R166). -/
def execSt (h : Hdr) (r : BitVec 6) (b : BitVec 4) (z : BitVec 2) (i : BitVec 8) (s : State) : Result :=
  atDispatch (.st h r b z i) h s (fun s =>
    let q := s.seqOf s.focus
    s.writeNat (tspAddr s.tileNo (q.effAddr b (immSigned s.ctx.ext i) (accessSize z))) (accessSize z) (q.opnd r).toNat)

/-- `ldg` (R167, R168). -/
def execLdg (h : Hdr) (d : BitVec 6) (b : BitVec 4) (z : BitVec 2) (i : BitVec 8) (s : State) : Result :=
  atDispatch (.ldg h d b z i) h s (loadGsp true d b z i)

/-- `ldgn` (R167, R168). -/
def execLdgn (h : Hdr) (d : BitVec 6) (b : BitVec 4) (z : BitVec 2) (i : BitVec 8) (s : State) : Result :=
  atDispatch (.ldgn h d b z i) h s (loadGsp false d b z i)

/-- `stg` goes to its bank, or to the task's buffered stores (R167, R168). -/
def execStg (h : Hdr) (r : BitVec 6) (b : BitVec 4) (z : BitVec 2) (i : BitVec 8) (s : State) : Result :=
  atDispatch (.stg h r b z i) h s (fun s =>
    let q := s.seqOf s.focus
    s.request { kind := .store, dest := none, ea := q.effAddr b (immSigned s.ctx.ext i) (accessSize z), size := accessSize z,
                data := q.opnd r, cmp := 0, pc := s.ctx.pc, word := s.ctx.word, inTask := s.unitTask s.focus })

/-- An atomic of 32 or 64 bits at the base address: an indivisible read-modify-write, never buffered (R169). -/
def atomicReq (k : ReqKind) (d : BitVec 6) (b : BitVec 4) (z : BitVec 1) (c : BitVec 6) (s : State) : State :=
  let q := s.seqOf s.focus
  s.request { kind := k, dest := replyDest d, ea := (q.readA b.toNat).toNat, size := if z = 1 then 8 else 4,
              data := q.opnd c, cmp := q.opnd d, pc := s.ctx.pc, word := s.ctx.word, inTask := false }

/-- `amo.add` (R169). -/
def execAmoAdd (h : Hdr) (d : BitVec 6) (b : BitVec 4) (z : BitVec 1) (c : BitVec 6) (s : State) : Result :=
  atDispatch (.amoAdd h d b z c) h s (atomicReq .add d b z c)

/-- `amo.min` (R169). -/
def execAmoMin (h : Hdr) (d : BitVec 6) (b : BitVec 4) (z : BitVec 1) (c : BitVec 6) (s : State) : Result :=
  atDispatch (.amoMin h d b z c) h s (atomicReq .min d b z c)

/-- `amo.max` (R169). -/
def execAmoMax (h : Hdr) (d : BitVec 6) (b : BitVec 4) (z : BitVec 1) (c : BitVec 6) (s : State) : Result :=
  atDispatch (.amoMax h d b z c) h s (atomicReq .max d b z c)

/-- `amo.and` (R169). -/
def execAmoAnd (h : Hdr) (d : BitVec 6) (b : BitVec 4) (z : BitVec 1) (c : BitVec 6) (s : State) : Result :=
  atDispatch (.amoAnd h d b z c) h s (atomicReq .and d b z c)

/-- `amo.or` (R169). -/
def execAmoOr (h : Hdr) (d : BitVec 6) (b : BitVec 4) (z : BitVec 1) (c : BitVec 6) (s : State) : Result :=
  atDispatch (.amoOr h d b z c) h s (atomicReq .or d b z c)

/-- `amo.xor` (R169). -/
def execAmoXor (h : Hdr) (d : BitVec 6) (b : BitVec 4) (z : BitVec 1) (c : BitVec 6) (s : State) : Result :=
  atDispatch (.amoXor h d b z c) h s (atomicReq .xor d b z c)

/-- `amo.swap` (R169). -/
def execAmoSwap (h : Hdr) (d : BitVec 6) (b : BitVec 4) (z : BitVec 1) (c : BitVec 6) (s : State) : Result :=
  atDispatch (.amoSwap h d b z c) h s (atomicReq .swap d b z c)

/-- `amo.cas` (R169). -/
def execAmoCas (h : Hdr) (d : BitVec 6) (b : BitVec 4) (z : BitVec 1) (c : BitVec 6) (s : State) : Result :=
  atDispatch (.amoCas h d b z c) h s (atomicReq .cas d b z c)

/-- The trap of a request (R162, R167). -/
def Req.trapOf (r : Req) (cause : BitVec 8) (detail : Nat) : Trap := ⟨cause, trapInfo r.word detail 0, 0, none, none⟩

/-- The i-th of a unit's own requests performs, after the earlier ones that it must follow, and its reply arrives (R116). -/
def State.replyOwn (s : State) (u : Agent) (i : Nat) : State :=
  let q := s.seqOf u
  match q.reqs[i]? with
  | none => s
  | some r =>
    if (q.handlers.flatMap (fun h => h.image.reqs) ++ q.reqs.take i).any (fun p => p.before r) then s else
    match (s.mapSeq u (fun q => { q with reqs := q.reqs.eraseIdx i })).perform u r with
    | none => s
    | some (s', .none) => s'
    | some (s', .value v) => match r.dest with
      | some d => s'.writeDest u d (v.setWidth 512)
      | none => s'
    | some (s', .trap c d) => s'.mapSeq u (fun q => { q with traps := q.traps ++ [r.trapOf c d] })

/-- The landing buffer of the n-th handler, counted from the innermost, with a change. -/
def Seq.mapImage (q : Seq) (n : Nat) (f : Image → Image) : Seq :=
  { q with handlers := q.handlers.modify n (fun h => { h with image := f h.image }) }

/-- The j-th request that the n-th handler, counted from the innermost, has interrupted performs; the landing buffer keeps
what it gives for the return (R119). -/
def State.replyHeld (s : State) (u : Agent) (n j : Nat) : State :=
  let hs := (s.seqOf u).handlers
  match hs[n]? with
  | none => s
  | some h => match h.image.reqs[j]? with
    | none => s
    | some r =>
      if r.val.isSome || ((hs.drop (n + 1)).flatMap (fun h => h.image.reqs) ++ h.image.reqs.take j).any (fun p => p.before r) then s
      else match (s.mapSeq u (·.mapImage n (fun im => { im with reqs := im.reqs.eraseIdx j }))).perform u r with
        | none => s
        | some (s', .none) => s'
        | some (s', .value v) => s'.mapSeq u (·.mapImage n (fun im => { im with reqs := im.reqs ++ [{ r with val := some v }] }))
        | some (s', .trap c d) => s'.mapSeq u (·.mapImage n (fun im => { im with traps := im.traps ++ [r.trapOf c d] }))

/-- The handler and the place in its landing buffer of the i-th of the requests captured, the innermost handler's first. -/
def heldPlace : List Handler → Nat → Nat → Option (Nat × Nat)
  | [], _, _ => none
  | h :: t, n, i => if i < h.image.reqs.length then some (n, i) else heldPlace t (n + 1) (i - h.image.reqs.length)

/-- The clock of a unit's region is stopped, and replies to it are held (R370). -/
def State.stopped (s : State) (u : Agent) : Bool :=
  match u with
  | .tile t => (s.tile t).freeze.isSome
  | .seq _ => false

/-- The i-th outstanding request of a unit performs and its reply arrives (R116); those that landing buffers captured are
counted after the unit's own (R119). -/
def State.reply (s : State) (u : Agent) (i : Nat) : State :=
  let q := s.seqOf u
  if s.stopped u then s
  else if i < q.reqs.length then s.replyOwn u i
  else match heldPlace q.handlers 0 (i - q.reqs.length) with
    | none => s
    | some (n, j) => s.replyHeld u n j

/-- The reply of the i-th outstanding request of the focus unit (R116, R119). -/
def execScoreboardReply (i : Nat) (s : State) : Result := .next (s.reply s.focus i)

/-- The units of a grove. -/
def groveUnits (g : Nat) : List Agent := (List.range 17).map (fun p => .tile (tileAt g p)) ++ [.seq g]

/-- A channel word that has become present releases the reads of slot A that wait on it; streams look again at their own
next step (R293). -/
def execChannelWordPresent (g w : Nat) (s : State) : Result :=
  .next ((groveUnits g).foldl (fun s u =>
    let q := s.seqOf u
    ((List.range q.reqs.length).reverse).foldl (fun s i => match (s.seqOf u).reqs[i]? with
      | some r => if r.ea / 64 = w && s.present (gspAddr g r.ea) then s.reply u i else s
      | none => s) s) s)

end Sys2Proof.Machine
end

