-- ==== Sys2Proof/Machine/Control.lean ====
section
/-!
DEFINITION. Branches and software traps of slot B (R170, R171), and slot L: loops (R172 to R174), addresses (R175)
and geometries (R176).
-/
namespace Sys2Proof.Machine

/-! ### Slot B -/

/-- A taken branch: the next bundle is its target (R170). -/
def State.branchTo (s : State) (target : Int) : State := s.mapSeq s.focus (fun q => { q with branch := some target })

/-- The link of `call` and `callr`, with L 1 (R170). -/
def State.link (s : State) : State := s.result (.s 30) (BitVec.ofNat 512 (s.ctx.pc + 1)) 1

/-- The bundle in bits 10-0 of a register (R170). -/
def State.regTarget (s : State) (a : BitVec 6) : Int := (((s.seqOf s.focus).opnd a).toNat % 2048 : Nat)

/-- `br` (R170). -/
def execBr (h : Hdr) (i : BitVec 20) (s : State) : Result :=
  atDispatch (.br h i) h s (fun s => s.branchTo (s.ctx.pc + immOffset s.ctx.ext i))

/-- `jmp` (R170). -/
def execJmp (h : Hdr) (a : BitVec 6) (s : State) : Result :=
  atDispatch (.jmp h a) h s (fun s => s.branchTo (s.regTarget a))

/-- `call` (R170). -/
def execCall (h : Hdr) (i : BitVec 20) (s : State) : Result :=
  atDispatch (.call h i) h s (fun s => (s.branchTo (s.ctx.pc + immOffset s.ctx.ext i)).link)

/-- `callr` reads its target before the link lands (R170). -/
def execCallr (h : Hdr) (a : BitVec 6) (s : State) : Result :=
  atDispatch (.callr h a) h s (fun s => (s.branchTo (s.regTarget a)).link)

/-- `ret` differs from `jmp` only in its opcode (R170). -/
def execRet (h : Hdr) (a : BitVec 6) (s : State) : Result :=
  atDispatch (.ret h a) h s (fun s => s.branchTo (s.regTarget a))

/-- A trap word takes effect after every other word of its bundle: the trap is taken before the next dispatch, with
`trappc` the bundle that would come next and `imm8` in `trapinfo` bits 10-3 (R171). -/
def State.softTrap (s : State) (cause : BitVec 8) (i : BitVec 8) : State :=
  s.raise s.focus cause (trapInfo s.ctx.word i.toNat s.ctx.slot.index) s.ctx.slot.index

/-- `trap` raises software trap 0x0E (R171). -/
def execTrap (h : Hdr) (i : BitVec 8) (s : State) : Result :=
  atDispatch (.trap h i) h s (fun s => s.softTrap 0x0e i)

/-- `brk` raises break 0x0D (R171). -/
def execBrk (h : Hdr) (i : BitVec 8) (s : State) : Result :=
  atDispatch (.brk h i) h s (fun s => s.softTrap 0x0d i)

/-! ### Loops -/

/-- A loop word: a count of 0 skips the body, any other pushes a level (R172). -/
def State.pushLoop (s : State) (count : Nat) (l : BitVec 11) : State :=
  let last := s.ctx.pc + l.toNat + 1
  s.mapSeq s.focus (fun q =>
    if count = 0 then { q with next := some (last + 1) }
    else { q with loops := ⟨s.ctx.pc + 1, last, .ofNat 32 count, 0⟩ :: q.loops, next := some (s.ctx.pc + 1)
                  began := true })

/-- The innermost level ends its iteration: it advances to its start, an iteration boundary, or pops and goes past
its end (R173, R174). -/
def Seq.endIteration (q : Seq) : Seq :=
  match q.loops with
  | [] => q
  | k :: t =>
    if k.index.toNat + 1 < k.trip.toNat then
      { q with loops := { k with index := k.index + 1 } :: t, next := some k.start, began := true }
    else { q with loops := t, next := some (k.last + 1) }

/-- `loop` (R172). -/
def execLoop (h : Hdr) (l : BitVec 11) (c : BitVec 6) (s : State) : Result :=
  atDispatch (.loop h l c) h s (fun s => s.pushLoop (((s.seqOf s.focus).opnd c).toNat % 2 ^ 32) l)

/-- `loopi` (R172). -/
def execLoopi (h : Hdr) (l : BitVec 11) (i : BitVec 8) (s : State) : Result :=
  atDispatch (.loopi h l i) h s (fun s => s.pushLoop (immUnsigned s.ctx.ext i) l)

/-- `lexit` pops the innermost level, in place of the action of R173 (R174). -/
def execLexit (h : Hdr) (s : State) : Result :=
  atDispatch (.lexit h) h s (fun s => s.mapSeq s.focus (fun q => { q with loops := q.loops.drop 1, loopDone := true }))

/-- `lnext` ends the current iteration, in place of the action of R173 (R174). -/
def execLnext (h : Hdr) (s : State) : Result :=
  atDispatch (.lnext h) h s (fun s => s.mapSeq s.focus (fun q => { q.endIteration with loopDone := true }))

/-! ### Addresses (R175) -/

/-- A 72-bit result in an address register, L 1. -/
def State.resultA (s : State) (d : BitVec 4) (v : Addr) : State := s.result (.a d.toNat) (v.setWidth 512) 1

/-- `aadd`: an address register is read whole, a scalar sign-extended (R175). -/
def execAadd (h : Hdr) (d : BitVec 4) (a b : BitVec 6) (s : State) : Result :=
  atDispatch (.aadd h d a b) h s (fun s =>
    let q := s.seqOf s.focus
    s.resultA d (q.addrOpnd a + q.addrOpnd b))

/-- `aaddi` (R175). -/
def execAaddi (h : Hdr) (d : BitVec 4) (a : BitVec 6) (i : BitVec 8) (s : State) : Result :=
  atDispatch (.aaddi h d a i) h s (fun s =>
    s.resultA d ((s.seqOf s.focus).addrOpnd a + BitVec.ofInt 72 (immSigned s.ctx.ext i)))

/-- `amov` (R175). -/
def execAmov (h : Hdr) (d a : BitVec 4) (s : State) : Result :=
  atDispatch (.amov h d a) h s (fun s => s.resultA d ((s.seqOf s.focus).readA a.toNat))

/-- `aset`: a scalar, zero-extended (R175). -/
def execAset (h : Hdr) (d : BitVec 4) (a : BitVec 6) (s : State) : Result :=
  atDispatch (.aset h d a) h s (fun s => s.resultA d (((s.seqOf s.focus).opnd a).setWidth 72))

/-- `aget`: bits 63-0 of an address (R175). -/
def execAget (h : Hdr) (d : BitVec 5) (a : BitVec 4) (s : State) : Result :=
  atDispatch (.aget h d a) h s (fun s =>
    s.result (.s d.toNat) (((s.seqOf s.focus).readA a.toNat).setWidth 64 |>.setWidth 512) 1)

/-- `ahi`: bits 71-64 replaced (R175). -/
def execAhi (h : Hdr) (d a : BitVec 4) (i : BitVec 8) (s : State) : Result :=
  atDispatch (.ahi h d a i) h s (fun s =>
    s.resultA d (i ++ ((s.seqOf s.focus).readA a.toNat).setWidth 64))

/-! ### Geometries (R176) -/

/-- A geometry register of the focus tile. -/
def State.geo (s : State) (g : Nat) : Vec := (s.tile s.tileNo).g.get 0 g

/-- Bits 455-384 of a geometry: its base address (R176, R198). -/
def geoBaseOf (g : Vec) : Addr := g.extractLsb' 384 72
/-- The geometry with another base address. -/
def geoWithBase (g : Vec) (a : Addr) : Vec := g.extractLsb' 456 56 ++ a ++ g.extractLsb' 0 384
/-- The signed byte stride of a dimension (R198). -/
def geoStride (g : Vec) (d : Nat) : Int := (g.extractLsb' (128 + 40 * d) 40).toInt

/-- `geo.ld` lands four bundle times later (R115, R176). -/
def execGeoLd (h : Hdr) (g b : BitVec 4) (i : BitVec 8) (s : State) : Result :=
  atDispatch (.geoLd h g b i) h s (fun s =>
    let ea := (s.seqOf s.focus).effAddr b (immSigned s.ctx.ext i) 64
    s.result (.g g.toNat) (BitVec.ofNat 512 (s.readNat (tspAddr s.tileNo ea) 64)) 4)

/-- `geo.st` (R176). -/
def execGeoSt (h : Hdr) (g b : BitVec 4) (i : BitVec 8) (s : State) : Result :=
  atDispatch (.geoSt h g b i) h s (fun s =>
    let ea := (s.seqOf s.focus).effAddr b (immSigned s.ctx.ext i) 64
    s.writeNat (tspAddr s.tileNo ea) 64 (s.geo g.toNat).toNat)

/-- `geo.base` replaces the base address field, L 1 (R115, R176). -/
def execGeoBase (h : Hdr) (g b : BitVec 4) (s : State) : Result :=
  atDispatch (.geoBase h g b) h s (fun s =>
    s.result (.g g.toNat) (geoWithBase (s.geo g.toNat) ((s.seqOf s.focus).readA b.toNat)) 1)

/-- `geo.adv` adds a stride times a signed scalar to the base, modulo 2^72, L 1 (R115, R176). -/
def execGeoAdv (h : Hdr) (g : BitVec 4) (k : BitVec 2) (b : BitVec 6) (s : State) : Result :=
  atDispatch (.geoAdv h g k b) h s (fun s =>
    let old := s.geo g.toNat
    let step := geoStride old k.toNat * ((s.seqOf s.focus).opnd b).toInt
    s.result (.g g.toNat) (geoWithBase old (geoBaseOf old + BitVec.ofInt 72 step)) 1)

end Sys2Proof.Machine
end

