-- ==== Sys2Proof/Machine/Pk8.lean ====
section
/-!
DEFINITION. PK8 blocks (R53 to R55), store encoding and the noise-shaping conversion (R56, R58).
-/
namespace Sys2Proof.Machine

/-- The code lengths of the four tables, by offset (R54). -/
def pkLengths (table : Nat) : List Nat := match table with
  | 0 => [4, 4, 4, 4, 4, 4, 4, 4, 4, 4, 4, 4, 4, 4, 4, 4]
  | 1 => [1, 2, 3, 6, 6, 6, 7, 7, 7, 7, 7, 7, 7, 7, 7, 7]
  | 2 => [2, 2, 3, 3, 4, 4, 6, 6, 6, 6, 6, 6, 7, 7, 7, 7]
  | _ => [3, 3, 3, 3, 4, 4, 4, 4, 5, 5, 5, 5, 5, 5, 5, 5]

/-- Canonical codes: the first is all zeros, each next the previous plus one, shifted by the growth in length (R54). -/
def canonicalCodes (last code : Nat) : List Nat → List (Nat × Nat)
  | [] => []
  | n :: t =>
    let c := (code + 1) * 2 ^ (n - last)
    (n, c) :: canonicalCodes n c t

/-- The codes of a table as (length, code), by offset (R54). -/
def pkCodes (table : Nat) : List (Nat × Nat) :=
  match pkLengths table with
  | [] => []
  | n :: t => (n, 0) :: canonicalCodes n 0 t

/-- The bits of bytes, each from bit 7 down (R53). -/
def bitsOf (bs : List Byte) : List Bool := bs.flatMap (fun b => (List.range 8).map (fun i => b.getLsbD (7 - i)))

/-- One offset code read from a bit string: the offset and the bits after it. `n` and `c` are what is read so far. -/
def readCode (codes : List (Nat × Nat)) : Nat → Nat → List Bool → Option (Nat × List Bool)
  | _, _, [] => none
  | n, c, b :: t =>
    let n' := n + 1
    let c' := 2 * c + (if b then 1 else 0)
    match codes.findIdx? (fun x => decide (x = (n', c'))) with
    | some o => some (o, t)
    | none => readCode codes n' c' t

/-- A run of offset codes. -/
def readCodes (codes : List (Nat × Nat)) : Nat → List Bool → Option (List Nat × List Bool)
  | 0, bs => some ([], bs)
  | k + 1, bs =>
    match readCode codes 0 0 bs with
    | none => none
    | some (o, t) => match readCodes codes k t with
      | none => none
      | some (os, t') => some (o :: os, t')

/-- The bytes of the block at the head of a byte string, up to its final code and padding, if the string holds them (R53). -/
def pkSize (bs : List Byte) : Option Nat :=
  match bs with
  | [] => none
  | h :: t =>
    if t.length < 16 then none else
    (readCodes (pkCodes (h.extractLsb' 6 2).toNat) 32 (bitsOf (t.drop 16))).map (fun r =>
      17 + (8 * (t.length - 16) - r.2.length + 7) / 8)

/-- A block decoded from the head of a byte string: its 32 `e4m3` bytes and its length, or nothing where R55 refuses
it. -/
def pkDecode (bs : List Byte) : Option (List Byte × Nat) :=
  match bs with
  | [] => none
  | h :: t =>
    let table := (h.extractLsb' 6 2).toNat
    let anchor := (h.extractLsb' 2 4).toNat
    if h.extractLsb' 0 2 ≠ 0 ∨ t.length < 16 then none
    else match readCodes (pkCodes table) 32 (bitsOf (t.drop 16)) with
      | none => none
      | some (os, rest) =>
        let used := 8 * (t.length - 16) - rest.length
        let pad := (8 - used % 8) % 8
        let size := 17 + (used + 7) / 8
        if (rest.take pad).any id || os.any (fun o => decide (anchor < o)) || decide (33 < size) then none
        else
          let nib (i : Nat) : BitVec 4 :=
            let b := (t[i / 2]?).getD 0
            if i % 2 = 0 then b.extractLsb' 4 4 else b.extractLsb' 0 4
          some ((os.zipIdx).map (fun (o, i) =>
            (nib i).extractLsb' 3 1 ++ BitVec.ofNat 4 (anchor - o) ++ (nib i).extractLsb' 0 3), size)

/-- The exponent field of an `e4m3` byte. -/
def e4m3Exp (b : Byte) : Nat := (b.extractLsb' 3 4).toNat

/-- Bits packed into bytes, most significant first, padded with zeros. -/
def packBits (bs : List Bool) : List Byte :=
  (List.range ((bs.length + 7) / 8)).map (fun i =>
    BitVec.ofNat 8 (((bs.drop (8 * i)).take 8).zipIdx.foldl (fun a (b, j) => a + (if b then 2 ^ (7 - j) else 0)) 0))

/-- The encoder of 32 `e4m3` bytes: the largest exponent as anchor, the table of the shortest block, the lowest on a
tie (R55). -/
def pkEncode (vs : List Byte) : List Byte :=
  let anchor := (vs.map e4m3Exp).foldl max 0
  let offs := vs.map (fun v => anchor - e4m3Exp v)
  let cost (t : Nat) : Nat := ((offs.map (fun o => ((pkLengths t)[o]?).getD 0)).foldl (· + ·) 0 + 7) / 8
  let table := [1, 2, 3].foldl (fun b t => if cost t < cost b then t else b) 0
  let nibs := vs.map (fun v => v.extractLsb' 7 1 ++ v.extractLsb' 0 3)
  let pair (i : Nat) : Byte := (nibs[2 * i]?).getD 0 ++ (nibs[2 * i + 1]?).getD 0
  let bits := offs.flatMap (fun o =>
    let (n, c) := ((pkCodes table)[o]?).getD (0, 0)
    (List.range n).map (fun i => Nat.testBit c (n - 1 - i)))
  (BitVec.ofNat 8 (table * 64 + anchor * 4)) :: (List.range 16).map pair ++ packBits bits

/-- The stored element of a value under mode round: quantised and saturated after the store scale (R56). -/
def encodeRound (ty : Nat) (e : Int) (x : XVal) : Nat := quant ty .rne (sat ty (x.scale (-e)))

/-- A rounding of a finite value to a type would overflow (R45, R58). -/
def overflows (ty : Nat) (x : XVal) : Bool :=
  match x with
  | .fin neg m e => match floatFmt ty with
    | some f => decide (m ≠ 0) && decide (f.maxBits < f.roundBits .rne neg m e)
    | none =>
      let i := roundInt .rne neg m e
      decide (i < intMin ty) || decide (intMax ty < i)
  | _ => true

/-- The noise-shaped conversion of one element: the stored bits, the new residue lane, and whether the count advances
(R58). -/
def noiseShape (ty : Nat) (e : Int) (x : XVal) (lane : BitVec 32) : Nat × BitVec 32 × Bool :=
  let v := decodeType 1 (rne32 (xsum .rne [x.scale (-e), decodeType 1 lane.toNat]))
  if overflows ty v then (quant ty .rne (sat ty v), 0, true)
  else
    let q := quant ty .rne v
    (q, BitVec.ofNat 32 (rne32 (xsum .rne [v, (decodeType ty q).neg])), false)

end Sys2Proof.Machine
end

