-- ==== Sys2Proof/Machine/Geometry.lean ====
section
/-!
DEFINITION. The geometry record and its visits (R198 to R200), the checks at issue (R201, R217, R225, R431, R454),
header words (R30, R202), and the translation of virtual addresses (R132, R365 to R367).
-/
namespace Sys2Proof.Machine

/-! ### Fields (R198) -/

def gSpace (g : Vec) : Nat := gf g 508 4
def gFmt (g : Vec) : Nat := gf g 504 4
def gEnc (g : Vec) : Nat := gf g 502 2
def gAxis (g : Vec) : Nat := gf g 500 2
def gNz (g : Vec) : Nat := gf g 496 4
def gNzEntry (g : Vec) : Nat := gf g 494 2
def gDims (g : Vec) : Nat := gf g 480 2 + 1
def gScale (g : Vec) : Int := (g.extractLsb' 472 8).toInt
def gPlen (g : Vec) : Nat := if gf g 464 8 = 0 then 256 else gf g 464 8
def gTagbase (g : Vec) : Nat := gf g 456 8
def gBase (g : Vec) : Addr := geoBaseOf g
def gSize (g : Vec) (d : Nat) : Nat := gf g (288 + 24 * d) 24
def gId (g : Vec) : Nat := gf g 112 16
def gAux (g : Vec) : Nat := gf g 96 16

/-- The bytes of an element (R199). -/
def gBytes (g : Vec) : Nat := typeBytes (gFmt g)

/-- The number of elements over the first `d` dimensions. -/
def gCountTo (g : Vec) (d : Nat) : Nat := (List.range d).foldl (fun n i => n * gSize g i) 1

/-- The number N of elements (R199). -/
def gCount (g : Vec) : Nat := gCountTo g (gDims g)

/-- The index of an element along a dimension, dimension 0 fastest (R199). -/
def gIndex (g : Vec) (j d : Nat) : Nat := j / gCountTo g d % gSize g d

/-- The address of the j-th element visited, modulo 2^72 (R199). -/
def gAddr (g : Vec) (j : Nat) : Addr :=
  (List.range (gDims g)).foldl (fun a d => a + BitVec.ofInt 72 (gIndex g j d * geoStride g d)) (gBase g)

/-- Data words of a geometry, W = ceil (N z / 64) (R212, R213). -/
def gWords (g : Vec) : Nat := (gCount g * gBytes g + 63) / 64

/-- The end of a space's byte range, for the bounds of base and of elements (R200, R226). -/
def spaceEnd (space : Nat) : Nat := match space with
  | 0 => 0x100000
  | 1 => 0x1000000
  | 6 => 0x40000
  | _ => 2 ^ 72

/-! ### Headers (R30, R202) -/

/-- A header word: `fmt` 511-508, `scale` 507-500, `len` 499-492, `tag` 491-476, `axpos` 475-452, `axis` 451-450. -/
def headerWord (fmt scale len tag axpos axis : Nat) : Vec :=
  BitVec.ofNat 512 (fmt % 16 * 2 ^ 508 + scale % 256 * 2 ^ 500 + len % 256 * 2 ^ 492 + tag % 65536 * 2 ^ 476
    + axpos % 2 ^ 24 * 2 ^ 452 + axis % 4 * 2 ^ 450)

def hFmt (w : Vec) : BitVec 4 := w.extractLsb' 508 4
def hScale (w : Vec) : BitVec 8 := w.extractLsb' 500 8
def hLen (w : Vec) : Nat := if gf w 492 8 = 0 then 256 else gf w 492 8
def hTag (w : Vec) : BitVec 16 := w.extractLsb' 476 16
def hAxpos (w : Vec) : Nat := gf w 452 24
def hAxis (w : Vec) : Nat := gf w 450 2

/-- The header of packet k of a geometry (R202). -/
def packetHeader (g : Vec) (k first len axpos : Nat) : Vec :=
  let _ := first
  headerWord (if gFmt g = 6 then 4 else gFmt g) (gf g 472 8) (if len = 256 then 0 else len) (gTagbase g * 256 + k) axpos
    (gAxis g)

/-! ### Checks at issue -/

/-- Which geometry of a command a check reads: what it may be used for. -/
structure GeoUse where
  spaces : List Nat
  reads : Bool := false
  writesMem : Bool := false
  copies : Bool := false
  fieldBits : Nat := 0
  residue : Bool := false
  whole : Bool := false
  deriving DecidableEq, Repr

/-- The field that R454 gives `s.wb` and `s.mc`: `id` in spaces 0-2, `aux` in spaces 3 and 4. -/
def gField (g : Vec) : Nat := if gSpace g ≤ 2 then gId g else gAux g

/-- The `id` is one its space and use allow (R200, R216, R454). -/
def idOk (u : GeoUse) (g : Vec) : Bool :=
  match gSpace g with
  | 0 | 1 | 2 =>
    if u.fieldBits ≠ 0 then decide (gId g < 2 ^ u.fieldBits)
    else if u.copies then gId g = 0 || (decide (gId g / 2 ^ 14 = 2) && decide (gId g / 2 ^ 12 % 4 = 0))
    else decide (gId g = 0)
  | 3 | 4 => true
  | 5 => decide (gId g < 256)
  | _ => decide (gId g = 0)

/-- `aux` is zero but where R454 uses it. -/
def auxOk (u : GeoUse) (g : Vec) : Bool :=
  if u.fieldBits ≠ 0 && (gSpace g = 3 || gSpace g = 4) then decide (gAux g < 2 ^ u.fieldBits) else decide (gAux g = 0)

/-- A used dimension has a size, an unused one neither size nor stride (R201). -/
def dimsOk (g : Vec) : Bool :=
  (List.range 4).all (fun d =>
    if d < gDims g then decide (gSize g d ≠ 0) else decide (gSize g d = 0) && decide (geoStride g d = 0))

/-- The number of lines along the declared axis (R57). -/
def gLines (g : Vec) : Nat := gCount g / max 1 (gSize g (gAxis g))

/-- The line of element j: lines are numbered in the order of their first visit (R57). -/
def gLine (g : Vec) (j : Nat) : Nat := j % gCountTo g (gAxis g) + gCountTo g (gAxis g) * (j / gCountTo g (gAxis g + 1))

/-- The checks of R201 on one geometry in table order: the cause of the first that fails, with the constraint of whole
words where a command has it (R217, R431). -/
def geoFault (u : GeoUse) (g : Vec) : Option (BitVec 8) :=
  let z := gBytes g
  let strides := (List.range (gDims g)).map (geoStride g)
  if gf g 0 96 ≠ 0 ∨ 7 ≤ gSpace g ∨ gFmt g = 15 ∨ gEnc g = 3 ∨ gNzEntry g = 3 then some 0x14
  else if !u.spaces.contains (gSpace g) || !idOk u g || !auxOk u g then some 0x14
  else if u.residue then
    if (gBase g).toNat % (if gSpace g = 5 then 64 else z) ≠ 0 then some 0x09 else if spaceEnd (gSpace g) ≤ (gBase g).toNat then some 0x0b else none
  else if !dimsOk g then some 0x14
  else if gEnc g = 2 && (decide (gDims g ≤ gAxis g) || decide (256 < gLines g)) then some 0x14
  else if gFmt g = 6 && (strides.any (· ≠ 0) || decide (gCount g % 32 ≠ 0)) then some 0x14
  else if gEnc g ≠ 0 && (u.reads || !u.writesMem) then some 0x14
  else if (gBase g).toNat % z ≠ 0 ∨ strides.any (fun d => d % (z : Int) ≠ 0)
      ∨ ((gSpace g = 5 ∨ gSpace g = 6) ∧ (gBase g).toNat % 64 ≠ 0) then some 0x09
  else if (u.whole || gSpace g = 3) && (decide (geoStride g 0 ≠ z) || decide (gSize g 0 * z % 64 ≠ 0)
      || (strides.drop 1).any (fun d => d % 64 ≠ 0)) then some 0x09
  else if spaceEnd (gSpace g) ≤ (gBase g).toNat then some 0x0b
  else none

/-- The format pair of a store is one R56 allows; `src` is the source format. -/
def pairOk (src : Nat) (g : Vec) : Bool :=
  let norm (f : Nat) := if f = 6 then 4 else f
  match gEnc g with
  | 0 => decide (norm src = norm (gFmt g))
  | 1 => true
  | _ => decide (src = 1) && [2, 3, 4, 5, 6, 7].contains (gFmt g)

/-! ### Translation -/

/-- The outcome of a translation: a physical address, or the cause that meets the access (R223, R366). -/
inductive Trans where
  | ok (pa : Nat)
  | fault (cause : BitVec 8)
  deriving DecidableEq, Repr

/-- The root table of an ASID: the partition table names it (R365, R394). -/
def State.rootOf (s : State) (asid : BitVec 9) : Option Nat :=
  (s.hub.parts.find? (fun e => partValid e.2 && decide (partAsid e.2 = asid))).map (fun e => partRoot e.2)

/-- The index of a virtual address at a level (R365). -/
def vaIndex (level va : Nat) : Nat := match level with
  | 3 => va / 2 ^ 56
  | 2 => va / 2 ^ 43 % 2 ^ 13
  | 1 => va / 2 ^ 30 % 2 ^ 13
  | _ => va / 2 ^ 16 % 2 ^ 14

/-- An entry is malformed at a level (R366). -/
def entryBad (level e : Nat) : Bool :=
  let leaf := Nat.testBit e 1
  let pa := e / 2 ^ 16 % 2 ^ 30
  decide (e / 2 ^ 46 ≠ 0) || decide (e / 2 ^ 4 % 2 ^ 12 ≠ 0)
    || (leaf && decide (2 ≤ level)) || (!leaf && decide (level = 0))
    || (leaf && decide (level = 1) && decide (pa % 2 ^ 14 ≠ 0))
    || (!leaf && decide (level = 1) && decide (pa % 2 ≠ 0))
    || decide (2 ^ 39 ≤ pa * 2 ^ 16)
    || (!leaf && decide (e / 4 % 4 ≠ 0))

/-- A walk from a table down through the levels (R366). -/
def State.walk (s : State) (asid : BitVec 9) (va : Nat) : Nat → Nat → TlbEntry ⊕ BitVec 8
  | level, table =>
    let a := table + 8 * vaIndex level va
    if s.mem.poisoned a 8 then .inr 0x13
    else
      let e := s.readNat a 8
      if !Nat.testBit e 0 then .inr 0x10
      else if entryBad level e then .inr 0x11
      else
        let pa := e / 2 ^ 16 % 2 ^ 30 * 2 ^ 16
        if Nat.testBit e 1 then
          .inl ⟨asid, level = 1, if level = 1 then va / 2 ^ 30 else va / 2 ^ 16, Nat.testBit e 2, Nat.testBit e 3, pa⟩
        else match level with
          | 0 => .inr 0x11
          | l + 1 => s.walk asid va l pa

/-- An entry translates an address of an ASID (R367). -/
def TlbEntry.hits (e : TlbEntry) (asid : BitVec 9) (va : Nat) : Bool :=
  decide (e.asid = asid) && decide (e.vpn = if e.big then va / 2 ^ 30 else va / 2 ^ 16)

/-- The slice and set of a VPN, as one number: slice times 512 plus set (R367). -/
def sliceSet (vpn : Nat) : Nat :=
  let p := vpn * 0x9E3779B97F4A7C15 % 2 ^ 64
  10 * (p / 2 ^ 48) / 2 ^ 16 * 512 + p / 2 ^ 39 % 512

/-- An entry at the front of a least-recently-used list of bounded length (R132, R367). -/
def lruPut (n : Nat) (e : TlbEntry) (es : List TlbEntry) : List TlbEntry := (e :: es.filter (· ≠ e)).take n

/-- The translation an entry gives, under its permissions (R223). -/
def TlbEntry.use (e : TlbEntry) (va : Nat) (read write : Bool) : Trans :=
  if (read && !e.r) || (write && !e.w) then .fault 0x11
  else .ok (e.page + (if e.big then va % 2 ^ 30 else va % 2 ^ 16))

/-- A translation for a tile: its L1 TLB, the two slices that the page sizes select, then a walk; what is found fills
the L1 and becomes the most recently used of its set (R132, R367). -/
def State.translate (s : State) (t : Nat) (asid : BitVec 9) (va : Addr) (read write : Bool) : State × Trans :=
  let v := va.toNat
  let x := s.tile t
  match x.tlb.find? (·.hits asid v) with
  | some e => (s.setTile t { x with tlb := lruPut 128 e x.tlb }, e.use v read write)
  | none =>
    let d := dieOf (groveOf t)
    let probe (k : Nat) := ((s.die d).tlb.get [] k).find? (·.hits asid v)
    let found := match probe (sliceSet (v / 2 ^ 16)) with
      | some e => some e
      | none => probe (sliceSet (v / 2 ^ 30))
    match found with
    | some e =>
      let k := sliceSet e.vpn
      let s := s.mapDie d (fun y => { y with tlb := y.tlb.put k (lruPut 8 e (y.tlb.get [] k)) })
      (s.mapTile t (fun x => { x with tlb := lruPut 128 e x.tlb }), e.use v read write)
    | none => match s.rootOf asid with
      | none => (s, .fault 0x10)
      | some root => match s.walk asid v 3 root with
        | .inr c => (s, .fault c)
        | .inl e =>
          let k := sliceSet e.vpn
          let s := s.mapDie d (fun y => { y with tlb := y.tlb.put k (lruPut 8 e (y.tlb.get [] k)) })
          (s.mapTile t (fun x => { x with tlb := lruPut 128 e x.tlb }), e.use v read write)

end Sys2Proof.Machine
end

