-- ==== Sys2Proof/Machine/Region.lean ====
section
/-!
DEFINITION. Physical regions (R303): the stop of their clock and its end (R347, R370, R372), the abort of their tasks, and
soft errors: what a stored bit that flips leaves, and what its detection does (R37 to R39, R273, R274).
-/
namespace Sys2Proof.Machine

/-- The active configuration image of a tile, empty where none is active. -/
def Tile.image (x : Tile) : CfgImage :=
  match x.fab.active with
  | some k => x.fab.slots.get {} k
  | none => {}

/-- A tile whose clock is stopped or whose context is saved moves nothing (R370, R269). -/
def Tile.still (x : Tile) : Bool := x.freeze.isSome || (match x.preempt with | some .saved => true | _ => false)

/-- The physical regions by tile: a tile of a glade belongs to its group, any other is a region by itself (R303). A spare tile has
no logical number and so no region number of its own; it is known here by its place above them. -/
def State.regionOf (s : State) (t : Nat) : Nat :=
  let d := dieOf (groveOf t)
  if s.logicalOf t = 31 then 512 + t else
  match (s.die d).groups.find? (fun e => groupValid e.2 && e.2.getLsbD 254 && e.2.getLsbD (s.dieTile t)) with
  | some (k, _) => k
  | none => 256 + s.dieTile t

/-- The tiles of a region of a die. -/
def State.regionTiles (s : State) (d r : Nat) : List Nat :=
  if r < 256 then s.groupTiles d r else if r < 512 then [s.ofDieTile d (r - 256)] else [r - 512]

/-- A region's clock stops: every member's array, engines and sequencer, with its landing buffer captured at the stop
(R370). The faulting command and its address are recorded; scan-out follows (R371). -/
def State.freezeRegion (s : State) (t : Nat) (reason : BitVec 8) (fault : Option (Nat × Addr)) : State :=
  let d := dieOf (groveOf t)
  let r := s.regionOf t
  (s.regionTiles d r).foldl (fun s m => s.mapTile m (fun x =>
    let own := if m = t then fault.toList else []
    match x.freeze with
    | some f => { x with freeze := some { f with faults := f.faults ++ own } }
    | none => { x with freeze := some { reason := reason, region := r, faults := own, taskOpen := x.inTask, since := s.cycle } })) s

/-- The clock of a tile's region stops with the next cycle, and a command that faults in this one is recorded too (R370). -/
def State.faultsToo (s : State) (t : Nat) : Bool :=
  match (s.tile t).freeze with
  | some f => decide (f.since = s.cycle) && !f.scanned && decide (f.reason = 0x10)
  | none => false

/-- A unit that runs on while its region's clock stands still may add a fault: no stop stands, or one of this very cycle (R370). -/
def State.mayFreeze (s : State) (t : Nat) : Bool := (s.tile t).freeze.isNone || s.faultsToo t

/-! ### The end of a freeze -/

/-- The commands of a tile that a freeze stopped go on, the faulting ones with the element they stopped at (R223). -/
def Tile.retry (x : Tile) : Tile :=
  { x with
    str := { x.str with cmds := x.str.cmds.map (fun e => (e.1, { e.2 with frozen := false })) }
    mx := { x.mx with
      tokens := x.mx.tokens.map (fun k => { k with cmd := { k.cmd with frozen := false } })
      mups := x.mx.mups.map (fun l => { l with frozen := false })
      mepis := x.mx.mepis.map (fun l => { l with frozen := false }) } }

/-- A change of the `i`-th of a list. -/
def changeAt {α : Type} (f : α → α) (i : Nat) (l : List α) : List α := l.zipIdx.map (fun e => if e.2 = i then f e.1 else e.1)

/-- A change of the listed entry of a table. -/
def KMap.change {α : Type} (m : KMap α) (k : Nat) (f : α → α) : KMap α := m.map (fun e => if e.1 = k then (e.1, f e.2) else e)

/-- Fields of an edge-table entry (R72). -/
def eKind (e : BitVec 64) : Nat := (e.extractLsb' 62 2).toNat
def eFrom (e : BitVec 64) : Nat := (e.extractLsb' 54 8).toNat
def eFout (e : BitVec 64) : Nat := (e.extractLsb' 52 2).toNat
def eTo (e : BitVec 64) : Nat := (e.extractLsb' 44 8).toNat
def eTin (e : BitVec 64) : Nat := (e.extractLsb' 42 2).toNat
def eDepth (e : BitVec 64) : Nat := (e.extractLsb' 38 4).toNat + 1
def eClass (e : BitVec 64) : Nat := (e.extractLsb' 31 3).toNat

/-- The words of a result in the pipeline stages. -/
def Staged.words (p : Staged) : List Slot512 := p.results ++ p.sends.map (·.2) ++ p.carries.map (·.2)

/-- A change of one of those words. -/
def Staged.changeWord (p : Staged) (j : Nat) (f : Slot512 → Slot512) : Staged :=
  let a := p.results.length
  let b := a + p.sends.length
  let second (e : Nat × Slot512) : Nat × Slot512 := (e.1, f e.2)
  if j < a then { p with results := changeAt f j p.results }
  else if j < b then { p with sends := changeAt second (j - a) p.sends }
  else { p with carries := changeAt second (j - b) p.carries }

/-- What scan-out copies of an array, each item in a word of its own (R76): a slot of an edge or a carry edge, the held word and
the phase of a router operator, a word in an element's stages, its accumulator with the empty flag, and its counters. -/
inductive ScanItem where
  | slot (k i : Nat)
  | carry (c i : Nat)
  | held (n : Nat)
  | phase (n : Nat)
  | stage (n i j : Nat)
  | acc (n : Nat)
  | counters (n : Nat)
  deriving DecidableEq, Repr

/-- The occupied slots of the edges into the nodes that satisfy a condition. -/
def Tile.slotsInto (x : Tile) (p : Nat → Bool) : List ScanItem :=
  (x.image.edges.zipIdx.filter (fun e => p (eTo e.1))).flatMap (fun e =>
    (List.range (x.fab.edges.get [] e.2).length).map (ScanItem.slot e.2))

/-- What bit n of the save mask names, n below 64: the registers of element n, its router operators, and the slots of every edge
its router receives (R64, R76). -/
def Tile.elemItems (x : Tile) (n : Nat) : List ScanItem :=
  [.counters n, .acc n]
    ++ (x.fab.elems.get {} n).pipe.zipIdx.flatMap (fun p => (List.range p.1.words.length).map (ScanItem.stage n p.2))
    ++ [64 + n, 128 + n].flatMap (fun m => .phase m :: (if (x.fab.ops.get {} m).held.isSome then [.held m] else []))
    ++ x.slotsInto (fun d => decide (d < 192) && decide (d % 64 = n))

/-- What the save mask of the active configuration names, in the order of its bits (R76). -/
def Tile.scanItems (x : Tile) : List ScanItem :=
  let named (k : Nat) : Bool := x.image.saveMask.getLsbD k
  ((List.range 64).filter named).flatMap x.elemItems
    ++ ((List.range 16).filter (fun c => named (64 + c))).flatMap (fun c =>
      (List.range (x.fab.carry.get [] c).length).map (ScanItem.carry c))
    ++ ((List.range 16).filter (fun p => named (80 + p))).flatMap (fun p => x.slotsInto (fun d => decide (d = 208 + p)))

/-- The tile with an item of its array read back as other bits. -/
def Tile.putItem (x : Tile) (p : ScanItem) (v : BitVec 514) : Tile :=
  let data : Vec := v.extractLsb' 0 512
  let word (w : Slot512) : Slot512 := { w with kind := v.extractLsb' 512 2, data := data }
  let elem (n : Nat) (f : Elem → Elem) : Tile := { x with fab := { x.fab with elems := x.fab.elems.set {} n (f (x.fab.elems.get {} n)) } }
  let oper (n : Nat) (f : RouterOp → RouterOp) : Tile := { x with fab := { x.fab with ops := x.fab.ops.set {} n (f (x.fab.ops.get {} n)) } }
  match p with
  | .slot k i => { x with fab := { x.fab with edges := x.fab.edges.change k (changeAt word i) } }
  | .carry c i => { x with fab := { x.fab with carry := x.fab.carry.change c (changeAt word i) } }
  | .held n => oper n (fun o => { o with held := o.held.map word })
  | .phase n => oper n (fun o => { o with looping := v.getLsbD 0 })
  | .stage n i j => elem n (fun e => { e with pipe := changeAt (·.changeWord j word) i e.pipe })
  | .acc n => elem n (fun e => { e with acc := if v.getLsbD 512 then some data else none })
  | .counters n => elem n (fun e => { e with lc0 := v.extractLsb' 0 16, lc1 := v.extractLsb' 16 16, tags := v.extractLsb' 32 16 })

/-- The save slot of a tile (R373). -/
def State.saveSlot (s : State) (t : Nat) : Nat := (s.die (dieOf (groveOf t))).dsavebase.toNat + s.dieTile t * 131072

/-- The bytes of the i-th word of a scan-out, as written. -/
def scanBytes (n i : Nat) : List Byte := (List.range 64).map (fun k => Config.scanByte n (64 * i + k))

/-- The i-th word of a tile's scan-out as it stands in its save slot. -/
def State.slotWord (s : State) (t i : Nat) : List Byte := s.mem.bytes.readList (s.saveSlot t + 1088 + 64 * i) 64

/-- A tile's state is scanned back from its save slot: items that stand there as scan-out wrote them come back unchanged, items that
have been altered are read as found (R372, R373; log entry 9). -/
def State.scanBack (s : State) (t : Nat) : State :=
  match (s.tile t).freeze with
  | none => s
  | some f => s.mapTile t (fun x => x.scanItems.zipIdx.foldl (fun y e =>
      let bs := s.slotWord t e.2
      if bs = scanBytes f.drawn e.2 then y else y.putItem e.1 (Config.scanWord bs)) x)

/-- Some tile's scanned state has been altered in its slot. -/
def State.slotAltered (s : State) (t : Nat) : Bool :=
  match (s.tile t).freeze with
  | none => false
  | some f => (List.range (s.tile t).scanItems.length).any (fun i => decide (s.slotWord t i ≠ scanBytes f.drawn i))

/-- The members of a tile's frozen region. -/
def State.frozenWith (s : State) (t : Nat) : List Nat :=
  match (s.tile t).freeze with
  | none => []
  | some f => s.regionTiles (dieOf (groveOf t)) f.region

/-- A frozen region's clocks restart, every member's array reset where its tasks are gone (R347, R372). -/
def State.thaw (s : State) (t : Nat) (reset : Bool) : State :=
  let r := match (s.tile t).freeze with
    | some f => f.region
    | none => 0
  let s := (s.frozenWith t).foldl (fun s m => s.mapTile m (fun x =>
    let y : Tile := if reset then x.resetArray else x
    { y.retry with freeze := none })) s
  s.mapDie (dieOf (groveOf t)) (fun d => { d with still := d.still.erase r })

/-- A frozen region's freeze ends of itself: at once where it has been scanned out, otherwise with its scan-out (R347, R371). -/
def State.endFreeze (s : State) (t : Nat) : State :=
  match (s.tile t).freeze with
  | none => s
  | some f =>
    if f.scanned then s.thaw t true
    else (s.frozenWith t).foldl (fun s m => s.mapTile m (fun x => { x with freeze := x.freeze.map (fun g => { g with ending := true }) })) s

/-- The freeze of a region ends when the task of every member that had one at the freeze has been aborted or killed
(R39, R347). -/
def State.thawIfFree (s : State) (t : Nat) : State :=
  match (s.tile t).freeze with
  | none => s
  | some f =>
    if !f.taskOpen then s else
    let s := s.mapTile t (fun x => { x with freeze := some { f with taskOpen := false } })
    if (s.frozenWith t).any (fun m => match (s.tile m).freeze with
      | some g => g.taskOpen
      | none => false) then s
    else s.endFreeze t

/-- The open task of a tile ends without a re-run, on a frozen region too; one that has ended or committed is left alone
(R134, R347). -/
def State.abortTask (s : State) (t : Nat) (st : TaskStatus) (cause : BitVec 8) : State :=
  match (s.tile t).task with
  | none => s
  | some k => if (s.tile t).seq.ctl.tended || k.committed then s else (s.endTask t st cause).thawIfFree t

/-- The open task of a tile is aborted to be run again, on a frozen region too (R38, R39, R321). -/
def State.retryTask (s : State) (t : Nat) (st : TaskStatus) : State := (s.rerunTask t st).thawIfFree t

/-! ### Soft errors (R37 to R39, R273, R274) -/

/-- The configuration of a tile's array is written again from its image (R38). -/
def Tile.reinstall (x : Tile) : Tile :=
  match x.fab.active with
  | none => x
  | some k => { x with fab := { x.fab with slots := x.fab.slots.put k { x.image with bad := [] } } }

/-- What a detected error does to one member of the region: its array is reset from its image, and an open task is aborted
and re-run, its count of re-runs permitting; one with a quorum kill pending ends killed (R38, R39, R274). -/
def State.softMember (s : State) (t : Nat) : State :=
  let s := s.mapTile t Tile.reinstall
  let x := s.tile t
  if !x.inTask then s.mapTile t Tile.resetArray
  else if (x.task.map (·.killPending)).getD false then s.abortTask t .quorum 0
  else if x.seq.ctl.trerun.toNat ≤ (x.task.map (·.soft)).getD 0 then s.abortTask t .fault 0x1f
  else s.retryTask t .softError

/-- The members of the region of a tile (R303). -/
def State.regionMates (s : State) (t : Nat) : List Nat := s.regionTiles (dieOf (groveOf t)) (s.regionOf t)

/-- A detected error meets tiles, the lowest logical index first: a gang records the status in which a member's task ends; a gang whose
member had none to abort records 0x13 (R38, R334, R336). -/
def State.softMembers (s : State) (ms : List Nat) : State :=
  ms.foldl (fun s m => s.abortGangsOf m 0x13) (ms.foldl State.softMember s)

/-- A parity error detected at a tile concerns its whole region: its tasks are aborted (R38), and the gangs of its members
(R336). Where each has ended or has
committed, the error is charged to the next activation (R39; log entry 58); where none is open, it escalates the tile with
0x13 (R273). -/
def State.softError (s : State) (t : Nat) : State :=
  let ms := s.regionMates t
  if ms.any (fun m => (s.tile m).inTask) then s.softMembers ms
  else
    let s := ms.foldl (fun s m => s.abortGangsOf m 0x13) s
    if ms.any (fun m => (s.tile m).task.isSome) then s.mapTile t (fun x => { x with parityDue := true })
    else s.takeEscalation t 0x13

/-- A soft error charged to the next activation of a region meets it (R39). -/
def State.chargeParity (s : State) (t : Nat) : State :=
  if (s.tile t).parityDue && (s.regionMates t).any (fun m => (s.tile m).inTask) then
    (s.mapTile t (fun x => { x with parityDue := false })).softError t
  else s

/-- The parts of a slot that a flipped bit leaves in disagreement with their parity bits (R37). -/
def Slot512.flip (w : Slot512) (part : Nat) : Slot512 := { w with bad := w.bad ||| BitVec.twoPow 16 part }

def Slot512.parityBad (w : Slot512) : Bool := w.bad ≠ 0

/-- Some bit of what an element's registers hold disagrees with its parity bit (R37). -/
def Elem.parityBad (e : Elem) : Bool :=
  e.lcBad ≠ 0 || e.accBad ≠ 0 || e.pipe.any (fun p => p.words.any Slot512.parityBad)

/-- The nodes whose stored word disagrees with its parity bit (R37). -/
def Tile.configBad (x : Tile) (ns : List Nat) : Bool := ns.any x.image.bad.contains

/-- A parity error meets a read of the array's state, as scan-out makes it (R37, R371). -/
def Tile.parityBad (x : Tile) : Bool :=
  x.fab.elems.any (fun e => e.2.parityBad)
    || (x.fab.edges ++ x.fab.carry).any (fun e => e.2.any Slot512.parityBad)
    || x.fab.ops.any (fun e => match e.2.held with
      | some w => w.parityBad
      | none => false)

/-- A parity error meets a context save, which reads the array's state and every installed configuration (R37, R270). -/
def Tile.saveBad (x : Tile) : Bool := x.parityBad || x.fab.slots.any (fun e => !e.2.bad.isEmpty)

end Sys2Proof.Machine
end

