-- ==== Sys2Proof/Machine/Streams.lean ====
section
/-!
DEFINITION. The stream engines: ports (R29, R30, R197, R204), the accesses of a running command (R223 to R232), the
delivery and the taking of words (R202, R203, R205, R206), completion (R196), and the steps of the engines.
-/
namespace Sys2Proof.Machine

/-! ### Ports -/

/-- The edges with their index that satisfy a condition. -/
def CfgImage.edgesBy (i : CfgImage) (p : BitVec 64 → Bool) : List (Nat × BitVec 64) :=
  (i.edges.zipIdx.filter (fun e => p e.1)).map (fun e => (e.2, e.1))

/-- The edge of an input port, and of an output port (R29, R73). -/
def CfgImage.inPort (i : CfgImage) (n : Nat) : Option (Nat × BitVec 64) := (i.edgesBy (fun e => eFrom e = 192 + n)).head?
def CfgImage.outPort (i : CfgImage) (n : Nat) : Option (Nat × BitVec 64) := (i.edgesBy (fun e => eTo e = 208 + n)).head?

/-- A slot enters an edge. -/
def Tile.pushEdge (x : Tile) (k : Nat) (w : Slot512) : Tile :=
  { x with fab := { x.fab with edges := x.fab.edges.set [] k (x.fab.edges.get [] k ++ [w]) } }

/-- The head of an edge is taken. -/
def Tile.popEdge (x : Tile) (k : Nat) : Tile :=
  { x with fab := { x.fab with edges := x.fab.edges.set [] k ((x.fab.edges.get [] k).drop 1) } }

/-- The head of an edge. -/
def Tile.headOf (x : Tile) (k : Nat) : Option Slot512 := (x.fab.edges.get [] k).head?

/-- The slots of an edge that results in the pipeline stages have reserved (R15). -/
def Fabric.reserved (f : Fabric) (k : Nat) : Nat :=
  (f.elems.flatMap (fun e => e.2.pipe.flatMap (fun p => p.sends.filter (fun w => w.1 = k)))).length

/-- The words of an edge, and those that have reserved a slot of it, stand below its depth (R15). -/
def Tile.edgeRoom (x : Tile) (k : Nat) (e : BitVec 64) : Bool :=
  decide ((x.fab.edges.get [] k).length + x.fab.reserved k < eDepth e)

/-- An input port has room: a task is open and has not ended, its configuration reads the port, and a slot is free
(R197). -/
def State.portOpen (s : State) (t n : Nat) : Bool :=
  let x := s.tile t
  x.inTask && !x.still && match x.image.inPort n with
    | some (k, e) => x.edgeRoom k e
    | none => false

/-- An input port accepts a command's word: it has room, and its tile is not draining, for then a firebreak stands in it or
comes next (R197, R230). -/
def State.portReady (s : State) (t n : Nat) : Bool := s.portOpen t n && !(s.tile t).fab.draining

/-- A word placed in an input port of a grove spends a whole token, but under no throttle (R306). -/
def Grove.spend (g : Grove) : Grove := if g.bkrate.getLsbD 16 then g else { g with bklevel := g.bklevel - 256 }

/-- The place of a tile's input port in the rotation of its grove: by logical tile, then by port (R306). -/
def State.portNumber (s : State) (t n : Nat) : Nat := 16 * s.logicalOf t + n

/-- An element fault stops the region: the task of each member ends without a re-run, and kind 3 is posted for the element's tile
(R84, R266, R303; log entry 58). -/
def State.elementFault (s : State) (t : Nat) (cause : BitVec 8) (node : Nat) (w1 : Word) : State :=
  ((s.regionMates t).foldl (fun s m => s.endTask m .fault cause) s).postTile t 3 cause.toNat 0 node w1

/-- A word placed in an input port, with the packet checks of R30 and one token spent (R204). -/
def State.putPort (s : State) (t n : Nat) (w : Slot512) : State :=
  let x := s.tile t
  match x.image.inPort n with
  | none => s
  | some (k, _) =>
    let due := x.str.ixDue.get 0 n
    let bad : Bool := match w.kind.toNat with
      | 0 => due = 0
      | 1 => due ≠ 0 || decide (gf w.data 0 450 ≠ 0) || decide (hFmt w.data = 15)
      | _ => false
    let s := s.mapGrove (groveOf t) (fun g => { g.spend with served := s.portNumber t n })
    if bad then s.elementFault t 0x14 (192 + n) 0
    else
      let due' := match w.kind.toNat with
        | 0 => due - 1
        | 1 => hLen w.data
        | _ => due
      s.mapTile t (fun x => { (x.pushEdge k w).move with str := { x.str with ixDue := x.str.ixDue.set 0 n due' } })

/-! ### Commands on ports -/

/-- The members a command copies to or casts to, as physical tiles. -/
def State.castTiles (s : State) (t : Nat) (c : Cmd) : List Nat := c.members.map (s.ofDieTile (dieOf (groveOf t)))

/-- The input ports that a tile's command feeds, as (tile, port) (R194, R214, R216). -/
def State.feeds (s : State) (t : Nat) (c : Cmd) : List (Nat × Nat) :=
  match c.kind with
  | .feed | .gather | .const | .chr | .recirc => [(t, c.port)]
  | .mcPort => (s.castTiles t c).map (fun m => (m, c.port))
  | .drain | .scatter => (s.castTiles t c).map (fun m => (m, gId c.geo / 256 % 16))
  | _ => []

/-- The output port that a command drains. -/
def Cmd.drains (c : Cmd) : Option Nat :=
  match c.kind with
  | .drain | .scatter | .drop | .chw => some (c.port % 16)
  | .recirc => some (gf c.geo 0 4)
  | _ => none

/-- No running command feeds the port (R194). -/
def State.portFree (s : State) (p : Nat × Nat) : Bool :=
  s.tiles.all (fun e => e.2.str.cmds.all (fun c => !(s.feeds e.1 c.2).contains p))

def State.cmd? (s : State) (t h : Nat) : Option Cmd := (s.tile t).str.cmds.get? h
def State.setCmd (s : State) (t h : Nat) (c : Cmd) : State :=
  s.mapTile t (fun x => { x with str := { x.str with cmds := x.str.cmds.put h c } })

/-- The command stops on a fault, to be completed with its cause and its position (R226, R228). -/
def State.stopCmd (s : State) (t h : Nat) (c : Cmd) (cause : BitVec 8) : State :=
  s.setCmd t h { c with cause := cause, done := true }

/-- A command that may act now. -/
def Cmd.active (c : Cmd) : Bool := !c.done && !c.paused && !c.frozen

/-! ### Accesses -/

/-- A landing pauses the matrix unit, a routine at a micro-op boundary (R260, R269). -/
def Tile.landing? (x : Tile) : Bool := match x.preempt with
  | some (.landing _ _ _ _) | some (.killing _) => true
  | some .saved => true
  | _ => false

/-- The outcome of an access of a command: a value, a wait, a fault with its position where that is not the element's number, or
an unmapped page with the address that met it (R223, R226, R228). -/
inductive Acc (α : Type) where
  | ok (a : α)
  | wait
  | stop (cause : BitVec 8) (pos : Option Nat)
  | unmapped (va : Addr)
  deriving DecidableEq, Repr

/-- An access after another one that has succeeded. -/
def andThen {α β : Type} (r : State × Acc α) (f : State → α → State × Acc β) : State × Acc β :=
  match r with
  | (s, .ok a) => f s a
  | (s, .wait) => (s, .wait)
  | (s, .stop c p) => (s, .stop c p)
  | (s, .unmapped a) => (s, .unmapped a)

/-- The position that a fault has where its access gives none (R228). -/
def Acc.at {α : Type} (e : Acc α) (j : Nat) : Acc α :=
  match e with
  | .stop c none => .stop c (some j)
  | e => e

/-- What a translation gives an access to a run of bytes. -/
def Trans.run (r : State × Trans) (a : Addr) (n : Nat) : State × Acc (List (Nat × Nat)) :=
  match r with
  | (s, .ok pa) => (s, .ok [(pa, n)])
  | (s, .fault c) => (s, if c = 0x10 then .unmapped a else .stop c none)

/-- The nodes of an access by space: runs of addresses in the model's numbering, one for each page it touches, with the bounds
of the space, the owner rule and the translation applied (R124, R200, R223, R226). Spaces 3 and 4 have no address here. -/
def State.locate (s : State) (t : Nat) (g : Vec) (a : Addr) (n : Nat) (write : Bool) : State × Acc (List (Nat × Nat)) :=
  let k := a.toNat
  match gSpace g with
  | 0 =>
    if 0x100000 < k + n then (s, .stop 0x0b none)
    else if !(s.tile t).enginesReach k n then (s, .stop 0x0a none)
    else (s, .ok [(tspAddr t k, n)])
  | 1 => if 0x1000000 < k + n then (s, .stop 0x0b none) else (s, .ok [(gspAddr (groveOf t) k, n)])
  | 2 =>
    let n0 := min n (65536 - k % 65536)
    let tr (s : State) (a : Addr) (n : Nat) := Trans.run (s.translate t (s.tile t).seq.ctl.asid a (!write) write) a n
    if n0 = n then tr s a n
    else andThen (tr s a n0) (fun s p => andThen (tr s (a + BitVec.ofNat 72 n0) (n - n0)) (fun s q => (s, .ok (p ++ q))))
  | 5 =>
    let e := (s.grove (groveOf t)).chans.get 0 (gId g)
    if !chanValid e then (s, .stop 0x14 none)
    else if chanSize e * 64 < k + n then (s, .stop 0x0b none)
    else (s, .ok [(gspAddr (groveOf t) (chanBase e * 64 + k), n)])
  | 6 => if 0x40000 < k + n then (s, .stop 0x0b none) else (s, .ok [(wbAddr t k, n)])
  | _ => (s, .stop 0x14 none)

/-- The namespace a store-port geometry names, in the table of the tile's partition (R225, R406). -/
def State.nameSpace (s : State) (t : Nat) (g : Vec) : Option Namespace :=
  match s.partOf (groveOf t) with
  | none => none
  | some (p, _) => s.hub.spaces.get? (p * 256 + gId g % 256)

/-- The number of a byte of flash in the model's table: port, namespace identifier and offset. -/
def flashKey (port nsid a : Nat) : Nat := (port * 2 ^ 32 + nsid) * 2 ^ 72 + a

/-- Bytes of a namespace as a Read command returns them: what has been written, else what the drive holds (log entry
15). -/
def State.flash (s : State) (ns : Namespace) (a n : Nat) : List Byte := (List.range n).map (fun i =>
  (s.mem.flash.get? (flashKey ns.port ns.nsid (a + i))).getD (Config.flashByte ns.port ns.nsid (a + i)))

/-- The bytes of a namespace with the stores of a task's log upon them, in log order (R317). -/
def overlay (ns : Namespace) (a : Nat) (bs : List Byte) (log : List Remote) : List Byte :=
  log.foldl (fun bs r => match r with
    | .store p n o new => if p = ns.port ∧ n = ns.nsid then
        bs.zipIdx.map (fun e => if o ≤ a + e.2 then (new[a + e.2 - o]?).getD e.1 else e.1) else bs
    | .peer _ _ _ _ => bs) bs

/-- The drive behind a store port answers (R224, R378). -/
def State.driveUp (s : State) (ns : Namespace) : Bool := (s.hub.driveDown.get? ns.port).isNone

/-- The drive behind a store port answers from now on, or no longer (R224, R378). -/
def State.setDrive (s : State) (p : Nat) (up : Bool) : State :=
  { s with hub := { s.hub with driveDown := if up then s.hub.driveDown.erase p
    else if (s.hub.driveDown.get? p).isSome then s.hub.driveDown else s.hub.driveDown.put p s.cycle } }

/-- A Write command of a namespace (R225, R406). -/
def State.writeFlash (s : State) (port nsid a : Nat) (bs : List Byte) : State :=
  { s with mem := { s.mem with flash := bs.zipIdx.foldl (fun m e => KMap.put m (flashKey port nsid (a + e.2)) e.1) s.mem.flash } }

/-- The staging slot of a verified read (R225). -/
def State.slotOf (s : State) (g : Vec) : Staging := s.hub.imgs.get {} (gId g / 256 % 128)

/-- The block of a verified read at a namespace offset (R408); none before the image's data, where the spec names no block
(DESIGN CHOICE, log entry 12). -/
def State.blockIndex (s : State) (g : Vec) (a : Addr) : Option Nat :=
  let first := (s.slotOf g).offset.toNat + (s.slotOf g).data
  if a.toNat < first then none else some ((a.toNat - first) / 65536)

/-- A geometry whose reads are verified (R225). -/
def gVerified (g : Vec) : Bool := decide (gSpace g = 4) && decide (gId g / 2 ^ 15 ≠ 0)

/-- What a block of a verified read meets: 0x1E where its slot is not ready, 0x1D with the block's index where the block's tag differs,
or where the image has no tag for it (R225, R407, R408). -/
def State.verified (s : State) (t : Nat) (g : Vec) (a : Addr) : Option (BitVec 8 × Option Nat) :=
  match s.nameSpace t g with
  | none => some (0x14, none)
  | some ns =>
    let st := s.slotOf g
    if !st.ready then some (0x1e, none) else
    match s.blockIndex g a with
    | none => some (0x1d, some 0)
    | some i =>
      let block := s.flash ns (st.offset.toNat + st.data + 65536 * i) 65536
      if st.tags[i]? = some (Config.sha3 (st.imageid ++ leBytes 8 i ++ block)) then none else some (0x1d, some i)

/-- Some channel word that an access to the grove scratchpad touches is absent for its reader (R293, R317). -/
def State.absent (s : State) (t : Nat) (inTask : Bool) (g a n : Nat) : Bool :=
  (touchedWords a n).any (fun w => ((s.grove g).channelOf (64 * w)).isSome && !s.presentFor t inTask (gspAddr g (64 * w)))

/-- Bytes of a geometry's element or word read for a command, with translation, owner, bounds, presence, poison and the
task's log and signature (R124, R223, R226, R229, R293, R317). -/
def State.fetch (s : State) (t : Nat) (inTask : Bool) (g : Vec) (a : Addr) (n : Nat) : State × Acc (List Byte) :=
  if gSpace g = 4 then
    match s.nameSpace t g with
    | none => (s, .stop 0x14 none)
    | some ns =>
      if !s.driveUp ns then (s, .wait) else
      let bs := s.flash ns a.toNat n
      (s, .ok (match inTask, (s.tile t).task with
        | true, some k => overlay ns a.toNat bs k.remote
        | _, _ => bs))
  else
    andThen (s.locate t g a n false) (fun s ps =>
      let gsp : Bool := gSpace g = 1 || gSpace g = 5
      if gsp && ps.any (fun p => s.absent t inTask (groveOf t) (p.1 - gspAddr (groveOf t) 0) p.2) then (s, .wait)
      else if ps.any (fun p => s.mem.poisoned p.1 p.2) then (s, .stop 0x13 none)
      else
        let merges : Bool := inTask && (gsp || gSpace g = 2)
        (if merges then ps.foldl (fun s p => s.sign t p.1 p.2) s else s,
          .ok (ps.flatMap (fun p => s.taskBytes t merges p.1 p.2))))

/-- Runs of addresses with the bytes that go to each. -/
def alot : List (Nat × Nat) → List Byte → List (Nat × List Byte)
  | [], _ => []
  | (a, n) :: t, bs => (a, bs.take n) :: alot t (bs.drop n)

/-- Bytes written for a command: buffered in a task where R229 says so, otherwise performed (R229, R293, R294); the answer is the
runs written. Words of a peer edge go another way (R432). -/
def State.put (s : State) (t : Nat) (inTask : Bool) (g : Vec) (a : Addr) (bs : List Byte) : State × Acc (List (Nat × Nat)) :=
  let n := bs.length
  match gSpace g with
  | 4 =>
    match s.nameSpace t g with
    | none => (s, .stop 0x14 none)
    | some ns =>
      if inTask then (s.logRemote t [.store ns.port ns.nsid a.toNat bs], .ok [])
      else if !s.driveUp ns then (s, .wait)
      else (s.writeFlash ns.port ns.nsid a.toNat bs, .ok [])
  | sp =>
    andThen (s.locate t g a n true) (fun s ps =>
      if sp = 1 ∨ sp = 5 then
        match s.gspPut t inTask (groveOf t) (((ps.head?).map (·.1)).getD 0 - gspAddr (groveOf t) 0) bs with
        | .ok s' => (s', .ok ps)
        | .error c => (s, .stop c none)
      else if sp = 2 && inTask then ((alot ps bs).foldl (fun s w => s.logWrite t w.1 w.2) s, .ok ps)
      else ((alot ps bs).foldl (fun s w => s.write w.1 w.2) s, .ok ps))

/-- Command h of tile t meets a page that is not mapped: it pauses there and its region freezes (R223, R370). -/
def State.pageFault (s : State) (t h : Nat) (c : Cmd) (a : Addr) : State :=
  (s.setCmd t h { c with frozen := true }).freezeRegion t 0x10 (some (h, a))

/-! ### What a reading command sends -/

/-- The dimension an index runs along, and the elements of a row (R210). -/
def rowDim (g : Vec) : Nat := gDims g - 1
def rowLen (g : Vec) : Nat := gCountTo g (rowDim g)

/-- A gather or scatter visits rows by an index geometry (R210). -/
def Cmd.indexed (c : Cmd) : Bool :=
  match c.kind with
  | .gather | .scatter | .gatherCopy | .scatterCopy => true
  | _ => false

/-- The source and the target geometry of a copy: `sl` forms read the first, `ss` forms the second (R209, R210). -/
def Cmd.fromFirst (c : Cmd) : Bool := c.port = 0
def Cmd.source (c : Cmd) : Vec := if c.fromFirst then c.geo else c.other
def Cmd.target (c : Cmd) : Vec :=
  match c.kind with
  | .copy | .gatherCopy | .scatterCopy => if c.fromFirst then c.other else c.geo
  | .mcGeo => c.other
  | _ => c.geo

/-- A command that moves elements to a geometry of its own: a copy (R209, R210). -/
def Cmd.isCopy (c : Cmd) : Bool :=
  match c.kind with
  | .copy | .gatherCopy | .scatterCopy => true
  | _ => false

/-- The number of elements of a command (R199, R210). -/
def Cmd.count (c : Cmd) : Nat := if c.indexed then gCount c.index * rowLen c.geo else gCount c.geo

/-- The geometry a command reads its elements from. -/
def Cmd.readGeo (c : Cmd) : Vec := if c.isCopy then c.source else c.geo

/-- The element at which a command stands: the first that it has not read, or, where it takes words, not formed (R228). -/
def Cmd.standAt (c : Cmd) : Nat :=
  let per := 64 / gBytes c.geo
  match c.kind with
  | .feed | .gather | .mcPort | .chr => c.pos * per
  | .wb => (c.pos - 1) * per
  | .mcGeo => (if gSpace c.other = 6 then c.pos - 1 else c.pos) * per
  | .const => 0
  | _ => c.pos

/-- A command has an element to read next; a weight-buffer image begins with a word of its own (R202, R209, R212, R220). -/
def Cmd.reading (c : Cmd) : Bool :=
  let image : Bool := !c.ended && (decide (c.pos ≠ 0) || gFmt c.geo = 6)
  !c.done && match c.kind with
    | .feed | .gather | .mcPort | .chr | .copy | .gatherCopy | .scatterCopy => decide (c.standAt < c.count)
    | .wb => image
    | .mcGeo => if gSpace c.other = 6 then image else !c.ended
    | .const => decide (c.reply.length ≠ 64)
    | _ => false

/-- Single elements gathered from a peer edge lie each in a word of its own (R210, R433). -/
def Cmd.single (c : Cmd) : Bool :=
  (c.kind = .gather || c.kind = .gatherCopy) && decide (gSpace c.geo = 3) && decide (rowLen c.geo = 1)

/-- The element for which a command asks a peer edge: the next, or of single elements the first that it has not got (R433). -/
def Cmd.readAt (c : Cmd) : Nat :=
  if c.single then c.standAt + ((List.range (min (64 / gBytes c.geo) (c.count - c.standAt))).takeWhile (fun i =>
    (c.ahead.get? (c.standAt + i)).isSome)).length
  else c.standAt

/-- A peer-edge read waits for its reply (R224, R376). -/
def Cmd.awaitsReply (c : Cmd) : Bool :=
  c.reading && decide (gSpace c.readGeo = 3) && if c.single then
      decide (c.readAt < min c.count (c.standAt + if c.kind = .gather then 64 / gBytes c.geo else 1))
    else decide (c.reply.length ≠ 64)

/-- The index of element j along the declared axis of a geometry, in a row that an index names (R202, R210). -/
def Cmd.axisOf (c : Cmd) (g : Vec) (j row : Nat) : Nat :=
  if c.indexed && g = c.geo then (if gAxis g = rowDim g then row else gIndex g (j % rowLen g) (gAxis g)) else gIndex g j (gAxis g)

/-- The address of element j of the data geometry, given the index value of its row (R199, R210). -/
def Cmd.addr (c : Cmd) (j row : Nat) : Addr :=
  if c.indexed then gAddr c.geo (j % rowLen c.geo) + BitVec.ofInt 72 (row * geoStride c.geo (rowDim c.geo))
  else gAddr c.geo j

/-- The bytes of a command's geometry from an address on, as two commands of one tile name them: a channel's lie in its grove's
scratchpad. -/
def State.flatAddr (s : State) (t : Nat) (g : Vec) (a : Nat) : Nat × Nat :=
  if gSpace g = 5 then (1, chanBase ((s.grove (groveOf t)).chans.get 0 (gId g)) * 64 + a) else (gSpace g, a)

/-- Some element of a geometry, from number `k` on, holds a byte of a range of a space. Blocks of `pk8` lie within 33 bytes for each
from `base` on, and may hold any byte there (R53, R199; log entry 57). -/
def gMeets (g : Vec) (k space a n : Nat) : Bool :=
  decide (gSpace g = space) && if gFmt g = 6 then
    decide (k < gCount g) && decide ((gBase g).toNat < a + n) && decide (a < (gBase g).toNat + 33 * (gCount g / 32))
  else (List.range (gCount g - k)).any (fun j =>
    let p := (gAddr g (k + j)).toNat
    decide (p < a + n) && decide (a < p + gBytes g))

/-- A `s.bar` issued before the command, not complete, whose region holds a byte of the access (R219). -/
def State.barred (s : State) (t : Nat) (c : Cmd) (g : Vec) (a : Addr) (n : Nat) : Bool :=
  let p := s.flatAddr t g a.toNat
  (s.tile t).str.cmds.any (fun e =>
    decide (e.2.kind = .bar) && !e.2.done && decide (e.2.num < c.num) && gMeets e.2.geo 0 p.1 p.2 n)

/-- The block that a verified read enters is checked, once, before its words are released (R225, R408). -/
def State.checkBlock (s : State) (t : Nat) (c : Cmd) (g : Vec) (a : Addr) : State × Acc Unit :=
  let i := s.blockIndex g a
  if i.isSome && (s.tile t).str.checked.get? c.num = i then (s, .ok ())
  else match s.verified t g a with
    | some (e, p) => (s, .stop e p)
    | none => (s.mapTile t (fun x => { x with str := { x.str with checked := x.str.checked.put c.num (i.getD 0) } }), .ok ())

/-- A read of a command, which waits for every `s.bar` before it whose region it touches, and for a drive that does not answer
(R219, R224, R225). -/
def State.read (s : State) (t : Nat) (c : Cmd) (g : Vec) (a : Addr) (n : Nat) : State × Acc (List Byte) :=
  if s.barred t c g a n then (s, .wait)
  else if gVerified g && ((s.nameSpace t g).map s.driveUp).getD true then
    andThen (s.checkBlock t c g a) (fun s _ => s.fetch t c.inTask g a n)
  else s.fetch t c.inTask g a n

/-- The index value of the row that element j lies in; a value outside the dimension is a protection fault at the index's
position (R210). -/
def State.rowOf (s : State) (t : Nat) (c : Cmd) (j : Nat) : State × Acc Nat :=
  if !c.indexed then (s, .ok 0) else
  let k := j / rowLen c.geo
  andThen (s.read t c c.index (gAddr c.index k) 4) (fun s bs =>
    let w : Int := if gFmt c.index = 9 then (BitVec.ofNat 32 (leNat bs)).toInt else leNat bs
    if w < 0 ∨ (gSize c.geo (rowDim c.geo) : Int) ≤ w then (s, .stop 0x11 (some k)) else (s, .ok w.toNat))

/-- The block of a `pk8` source from a place on, its k-th: read byte by byte up to its final code and padding, then checked and
decoded (R55, R203; log entry 57). -/
def State.readBlock (s : State) (t : Nat) (c : Cmd) (k off : Nat) : State × Acc (List Byte × Nat) :=
  let rec go (s : State) (n : Nat) (acc : List Byte) : State × Acc (List Byte × Nat) :=
    match pkSize acc with
    | some _ => (s, match pkDecode acc with
      | some r => .ok r
      | none => .stop 0x14 (some k))
    | none => match n with
      | 0 => (s, .stop 0x14 (some k))
      | n + 1 => andThen (s.read t c c.geo (gBase c.geo + BitVec.ofNat 72 (off + acc.length)) 1) (fun s bs => go s n (acc ++ bs))
  let r := go s 33 []
  (r.1, r.2.at (32 * k))

/-- The k-th block of a `pk8` source, found from the first one on (R203, R210). -/
def State.blockFrom (s : State) (t : Nat) (c : Cmd) (i off : Nat) : Nat → State × Acc (List Byte × Nat)
  | 0 => s.readBlock t c i off
  | k + 1 => andThen (s.readBlock t c i off) (fun s b => s.blockFrom t c (i + 1) (off + b.2) k)

/-- The bytes of one element of a reading command, unless it has read them ahead (R316); those of a peer edge are in the word replied
(R433), and those of a row of a `pk8` source in the row's blocks (R210; log entry 57). -/
def State.readElem (s : State) (t : Nat) (c : Cmd) (j : Nat) : State × Acc (List Byte) :=
  let z := gBytes c.geo
  let r : State × Acc (List Byte) := if let some bs := c.ahead.get? j then (s, .ok bs)
    else if gSpace c.geo = 3 then
      (s, if c.reply.length = 64 && !c.single then .ok ((c.reply.drop (j % (64 / z) * z)).take z) else .wait)
    else andThen (s.rowOf t c j) (fun s row =>
      if gFmt c.geo = 6 then
        let e := row * rowLen c.geo + j % rowLen c.geo
        andThen (s.blockFrom t c 0 0 (e / 32)) (fun s b => (s, .ok ((b.1.drop (e % 32)).take 1)))
      else s.read t c c.geo (c.addr j row) z)
  (r.1, r.2.at j)

/-- The bytes of elements `j` to `j + n - 1`. -/
def State.readElems (s : State) (t : Nat) (c : Cmd) : Nat → Nat → State × Acc (List Byte)
  | _, 0 => (s, .ok [])
  | j, n + 1 => andThen (s.readElem t c j) (fun s bs =>
      andThen (s.readElems t c (j + 1) n) (fun s rest => (s, .ok (bs ++ rest))))

/-- The data word at place `w` of a reading command, and the bytes of `pk8` blocks that it takes: two blocks make a word, and
`sent` counts the bytes already read (R202, R203, R212). -/
def State.dataWord (s : State) (t : Nat) (c : Cmd) (w : Nat) : State × Acc (Vec × Nat) :=
  let per := 64 / gBytes c.geo
  let word (bs : List Byte) : Vec := BitVec.ofNat 512 (leNat bs)
  if (gSpace c.geo = 3 ∧ !c.single) ∨ c.kind = .const then (s, if c.reply.length = 64 then .ok (word c.reply, 0) else .wait)
  else if gFmt c.geo = 6 ∧ !c.indexed then
    andThen (s.readBlock t c (2 * w) c.sent) (fun s b =>
      if 2 * w + 1 < gCount c.geo / 32 then
        andThen (s.readBlock t c (2 * w + 1) (c.sent + b.2)) (fun s d => (s, .ok (word (b.1 ++ d.1), b.2 + d.2)))
      else (s, .ok (word b.1, b.2)))
  else andThen (s.readElems t c (w * per) (min per (c.count - w * per))) (fun s bs => (s, .ok (word bs, 0)))

/-- The data words of a feeding command (R202, R210, R212). -/
def Cmd.words (c : Cmd) : Nat := (c.count * gBytes c.geo + 63) / 64

/-- The index along the declared axis of the first element of a packet (R202, R210). -/
def State.axposOf (s : State) (t : Nat) (c : Cmd) (w : Nat) : State × Acc Nat :=
  let j := w * (64 / gBytes c.geo)
  if c.indexed && gAxis c.geo = rowDim c.geo then
    let r := s.rowOf t c j
    (r.1, r.2.at j)
  else (s, .ok (c.axisOf c.geo j 0))

/-- A command with its elements below a number read: none of them is kept ahead any more. -/
def Cmd.past (c : Cmd) (j : Nat) : Cmd := { c with ahead := c.ahead.filter (fun e => decide (j ≤ e.1)) }

/-- The next slot a feeding command sends: a header where a packet begins, else its data word. `pos` is the next data
word; a header due is `header`. -/
def State.nextSlot (s : State) (t : Nat) (c : Cmd) : State × Acc (Slot512 × Cmd) :=
  let plen := gPlen c.geo
  if c.header && c.pos % plen = 0 then
    andThen (s.axposOf t c c.pos) (fun s ax =>
      let len := min plen (c.words - c.pos)
      (s, .ok (⟨1, packetHeader c.geo (c.pos / plen) c.pos len ax, 0⟩, { c with header := false })))
  else
    andThen (s.dataWord t c c.pos) (fun s w =>
      (s, .ok (⟨0, w.1, 0⟩, ({ c with
        pos := c.pos + 1, sent := c.sent + w.2, header := true, waitSince := s.cycle
        reply := if c.kind = .const then c.reply else [] } : Cmd).past ((c.pos + 1) * (64 / gBytes c.geo)))))

/-! ### Multicast (R214 to R216) -/

/-- The members that still take part. -/
def Cmd.live (c : Cmd) : List Nat := (List.range c.members.length).filter (fun i => !c.detached.contains i)

/-- The words the farthest member has accepted, and the nearest; with no member left, all that have been read. -/
def Cmd.far (c : Cmd) : Nat := (c.live.map (fun i => c.accepted.get 0 i)).foldl max 0
def Cmd.near (c : Cmd) : Nat := (c.live.map (fun i => c.accepted.get 0 i)).foldl min c.total

/-- Some member's lead stands at the limit (R215). -/
def Cmd.held (c : Cmd) (lag : Nat) : Bool := decide (lag ≤ c.far - c.near)

/-- The number of the first word in the window, which holds the words not yet accepted by all. -/
def Cmd.start (c : Cmd) : Nat := c.total - c.window.length

/-- A word enters the window, at a place of a `pk8` target. -/
def Cmd.pushWindow (c : Cmd) (w : Slot512) (off : Nat) : Cmd :=
  { c with window := c.window ++ [w], offs := c.offs ++ [off], total := c.total + 1 }

/-- The words that every member has accepted leave the window. -/
def Cmd.slide (c : Cmd) : Cmd :=
  let n := min c.near c.total - c.start
  { c with window := c.window.drop n, offs := c.offs.drop n }

/-- A member accepts its next word. -/
def Cmd.acceptBy (c : Cmd) (i : Nat) : Cmd :=
  ({ c with accepted := c.accepted.set 0 i (c.accepted.get 0 i + 1), lagSince := c.lagSince.erase i } : Cmd).slide

/-- The next word of a member, if one waits for it in the window and its lead permits one more (R215). -/
def Cmd.nextFor (c : Cmd) (lag i : Nat) : Option (Slot512 × Nat) :=
  let k := c.accepted.get 0 i
  if c.held lag && decide (k = c.far) then none
  else match c.window[k - c.start]?, c.offs[k - c.start]? with
    | some w, some o => some (w, o)
    | _, _ => none

/-- The multicast unit of a tile's grove can take one more element word (R296). -/
def State.castRoom (s : State) (t : Nat) : Bool :=
  decide (((s.tiles.filter (fun e => decide (groveOf e.1 = groveOf t))).map (fun e =>
    (e.2.str.cmds.map (fun c => c.2.window.length)).foldl (· + ·) 0)).foldl (· + ·) 0 < 4096)

/-- A word of command `c` of tile `u` waits for input port `n` of tile `t` (R306). -/
def State.waitsFor (s : State) (u : Nat) (c : Cmd) (t n : Nat) : Bool :=
  c.active && !(s.tile u).still && (s.feeds u c).contains (t, n) && match c.kind with
    | .mcPort | .drain | .scatter =>
      ((s.castTiles u c).zipIdx).any (fun e => decide (e.1 = t) && c.live.contains e.2
        && (c.nextFor (s.tile u).seq.ctl.mclag.toNat e.2).isSome)
    | .recirc => (match (s.tile u).image.outPort (gf c.geo 0 4) with
      | some (k, _) => ((s.tile u).headOf k).isSome
      | none => false)
    | _ => decide (c.pos < c.words) && (match (s.nextSlot u c).2 with
      | .ok _ => true
      | _ => false)

/-- The input ports of a grove at which a word waits, room being there for it (R306). -/
def State.waitingPorts (s : State) (g : Nat) : List (Nat × Nat) :=
  (s.tiles.filter (fun e => decide (groveOf e.1 = g))).flatMap (fun e => (List.range 16).filterMap (fun n =>
    if s.portOpen e.1 n && (e.2.fab.fed.contains n || s.tiles.any (fun u => u.2.str.cmds.any (fun c => s.waitsFor u.1 c.2 e.1 n)))
    then some (e.1, n) else none))

/-- A word may enter an input port: its grove has no throttle, or a whole token for the port, where tokens that are fewer than the
words waiting go to ports in rotation after the one served last (R204, R306). -/
def State.hasToken (s : State) (t n : Nat) : Bool :=
  let g := s.grove (groveOf t)
  let place (p : Nat × Nat) : Nat := (s.portNumber p.1 p.2 + 1023 - g.served) % 256
  let ahead := (s.waitingPorts (groveOf t)).filter (fun p => decide (place p < place (t, n)))
  g.bkrate.getLsbD 16 || decide (256 * (ahead.length + 1) ≤ g.bklevel)

/-- Member i takes its next word from the window at its port, if it can (R214, R215). -/
def State.castTo (s : State) (t port : Nat) (c : Cmd) (i : Nat) : Option (State × Cmd) :=
  match (s.castTiles t c)[i]?, c.nextFor (s.tile t).seq.ctl.mclag.toNat i with
  | some m, some (w, _) =>
    if s.portReady m port && s.hasToken m port then some (s.putPort m port w, c.acceptBy i) else none
  | _, _ => none

/-- The first member whose port can take its next word from the window takes it (R214, R215). -/
def State.castOne (s : State) (t port : Nat) (c : Cmd) : Option (State × Cmd) := c.live.findSome? (s.castTo t port c)

/-- A command has come to its end: it has read or taken all that it moves, every value it formed has performed, and every member has
accepted its words (R209, R210, R213, R214, R216, R220, R222). -/
def Cmd.finished (c : Cmd) : Bool :=
  c.due.isEmpty && c.window.isEmpty && match c.kind with
    | .drain | .scatter | .chw | .copy | .gatherCopy | .scatterCopy => decide (c.count ≤ c.pos)
    | .mcGeo | .wb => c.ended
    | .resOut | .resIn => decide (17 ≤ c.pos)
    | _ => decide (c.words ≤ c.pos)

/-! ### The steps that feed ports -/

/-- The result of an access that did not succeed: the command stops, or its region freezes (R223, R226, R228). -/
def State.failCmd {α : Type} (s : State) (t h : Nat) (c : Cmd) (e : Acc α) : State :=
  match e with
  | .stop cause pos => s.stopCmd t h { c with pos := pos.getD c.standAt } cause
  | .unmapped a => s.pageFault t h c a
  | _ => s

/-- A feeding command places its next word in its port, or finishes (R197, R202, R204, R209). -/
def State.deliverWord (s : State) (t h : Nat) (c : Cmd) : State :=
  if c.words ≤ c.pos then s.setCmd t h { c with done := true }
  else if !s.portReady t c.port || !s.hasToken t c.port then s
  else match s.nextSlot t c with
    | (s, .ok (w, c')) => (s.setCmd t h { c' with done := decide (c'.words ≤ c'.pos) }).putPort t c.port w
    | (s, e) => s.failCmd t h c e

/-- `s.const` reads its word once, before it sends it (R212). -/
def State.deliverConst (s : State) (t h : Nat) (c : Cmd) : State :=
  if c.reply.length = 64 then s.deliverWord t h c
  else match s.read t c c.geo (gBase c.geo) 64 with
    | (s, .ok bs) => (s.setCmd t h { c with reply := bs }).markMoved (.tile t)
    | (s, e) => s.failCmd t h c e

/-- A multicast to ports: a member accepts a word, or the next word is read (R214, R215, R296). -/
def State.deliverCast (s : State) (t h : Nat) (c : Cmd) : State :=
  match s.castOne t c.port c with
  | some (s, c') => s.setCmd t h { c' with done := c'.finished }
  | none =>
    if c.words ≤ c.pos || c.held (s.tile t).seq.ctl.mclag.toNat || !s.castRoom t then s
    else match s.nextSlot t c with
      | (s, .ok (w, c')) => (s.setCmd t h (c'.pushWindow w 0)).markMoved (.tile t)
      | (s, e) => s.failCmd t h c e

/-- A store copy: a member accepts a word that the store has taken from its port (R216). -/
def State.deliverCopy (s : State) (t h : Nat) (c : Cmd) : State :=
  match s.castOne t (gId c.geo / 256 % 16) c with
  | some (s, c') => s.setCmd t h { c' with done := c'.finished }
  | none => s

/-- The i-th member of a multicast to ports, or of a store copy, accepts its next word (R214 to R216). -/
def State.deliverMember (s : State) (t h : Nat) (c : Cmd) (i : Nat) : State :=
  let port := if c.kind = .mcPort then c.port else gId c.geo / 256 % 16
  if c.kind ≠ .mcPort && c.kind ≠ .drain && c.kind ≠ .scatter || !c.live.contains i then s else
  match s.castTo t port c i with
  | some (s, c') => s.setCmd t h { c' with done := c'.finished }
  | none => s

/-- The elements of a command that it may read before their turn: they lie in memory, each at its own address, no channel word among
them (R217, R316). -/
def Cmd.readsAhead (c : Cmd) : Bool :=
  decide (gSpace c.readGeo ≠ 3) && decide (gSpace c.readGeo ≠ 5) && decide (gFmt c.readGeo ≠ 6) && match c.kind with
    | .feed | .gather | .mcPort | .wb | .mcGeo | .copy | .gatherCopy | .scatterCopy => true
    | _ => false

/-- The command as a plain reader of its source geometry. -/
def Cmd.reader (c : Cmd) : Cmd :=
  match c.kind with
  | .gatherCopy => c
  | _ => if c.isCopy then { c with geo := c.source, kind := .copy } else c

/-- A command reads element j before its turn: the accesses of one command that share no byte have no order among them (R232,
R316). -/
def State.readAhead (s : State) (t h : Nat) (c : Cmd) (j : Nat) : State :=
  if !c.readsAhead || decide (j < c.standAt) || decide (c.count ≤ j) then s else
  match s.readElem t c.reader j with
  | (s, .ok bs) => s.setCmd t h { c with ahead := c.ahead.put j bs }
  | _ => s

/-- The decision latch takes bit 0 of a data word's lane 0 at `ox15` (R304). -/
def Tile.latchWord (x : Tile) (port : Nat) (w : Vec) : Tile :=
  if port = 15 then { x with fab := { x.fab with latch := w.getLsbD 0 } } else x

/-- A word is taken from an output port: a header sets the port's decode, and a data word of `ox15` the decision latch (R205,
R304). -/
def Tile.takeWord (x : Tile) (p k : Nat) (w : Slot512) : Tile :=
  let y := (x.popEdge k).move
  match w.kind.toNat with
  | 0 => y.latchWord p w.data
  | 1 => { y with str := { y.str with ox := y.str.ox.put p ⟨hFmt w.data, hScale w.data⟩ } }
  | _ => y

/-- `s.rec` moves the next word of its output port into its input port unchanged; after a firebreak it pauses (R211). -/
def State.deliverRec (s : State) (t h : Nat) (c : Cmd) : State :=
  let x := s.tile t
  let p := gf c.geo 0 4
  match x.image.outPort p with
  | none => s
  | some (k, _) => match x.headOf k with
    | none => s
    | some w =>
      if !s.portOpen t c.port || !s.hasToken t c.port then s
      else if w.parityBad then s.softError t
      else
        let s := (s.mapTile t (·.takeWord p k w)).putPort t c.port w
        if w.kind = 2 then s.setCmd t h { c with paused := true } else s

/-- The firebreak still due on an input port of a tile that drains enters it (R33, R204, R230). -/
def State.placeBreak (s : State) (t n : Nat) : State :=
  if (s.tile t).fab.fed.contains n && s.portOpen t n && s.hasToken t n then
    (s.putPort t n ⟨2, 0, 0⟩).mapTile t (fun x => { x with fab := { x.fab with fed := x.fab.fed.filter (· != n) } })
  else s

/-- One word of a port-feeding command enters its port, or a member accepts one (R197, R202, R211, R214, R216). Of the number, 0 to 63
modulo 128 is the handle, and 64 on the ports at which the stream engines themselves place the firebreaks of a drain (R33). Its 128s
say which of the moves that have no order among them is made: none for the next, an odd `2 j + 1` for the read of element j before its
turn, an even `2 i + 2` for the word that member i accepts (R215, R232, R316; log entry 2). -/
def execStreamWordDeliver (t n : Nat) (s : State) : Result :=
  let h := n % 128
  let k := n / 128
  .next (if 64 ≤ h then s.placeBreak t (h - 64) else match s.cmd? t h with
    | none => s
    | some c =>
      if !c.active || (s.tile t).still then s else
      if k ≠ 0 then (if k % 2 = 1 then s.readAhead t h c (k / 2) else s.deliverMember t h c (k / 2 - 1)) else
      match c.kind with
      | .feed | .gather | .chr => s.deliverWord t h c
      | .const => s.deliverConst t h c
      | .mcPort => s.deliverCast t h c
      | .recirc => s.deliverRec t h c
      | .drain | .scatter => s.deliverCopy t h c
      | _ => s)

/-- A member that has held its multicast at the limit for `replylimit` cycles is detached; the command completes with
0x17 when the others have taken the last word, and the member takes fault 0x17 (R215). -/
def execMulticastDetach (t h m : Nat) (s : State) : Result :=
  .next (match s.cmd? t h with
    | none => s
    | some c =>
      let lag := (s.tile t).seq.ctl.mclag.toNat
      let held := !c.done && c.held lag && c.live.contains m && decide (lag ≤ c.far - c.accepted.get 0 m)
      let limit := (s.grove (groveOf t)).replylimit.toNat
      if held && decide (limit ≤ s.cycle - c.lagSince.get s.cycle m) then
        let c' := ({ c with detached := c.detached ++ [m], cause := if c.cause = 0 then 0x17 else c.cause,
                            prev := if c.cause = 0 then BitVec.ofNat 32 m else c.prev
                            due := if c.kind = .mcGeo then c.due.filter (fun d => d.word ≠ m) else c.due } : Cmd).slide
        let s := s.setCmd t h { c' with done := c'.finished }
        let victim := ((s.castTiles t c)[m]?).getD 0
        if (s.tile victim).inTask then s.endTask victim .fault 0x17
        else s.raise (.tile victim) 0x17 (trapInfo 0 (s.dieTile t) 0) 0
      else s)

end Sys2Proof.Machine
end

