-- ==== Sys2Proof/Machine/Drains.lean ====
section
/-!
DEFINITION. The steps of commands that take words from ports or write memory: drains, copies, multicast into
geometries, channel and weight-buffer writes, tokens, residues, barriers (R205 to R222), and completion (R196).
-/
namespace Sys2Proof.Machine

/-! ### Storing one value -/

/-- The residue register a command uses (R57, R61, R222). -/
def Cmd.residue (c : Cmd) : Option Nat :=
  match c.kind with
  | .resOut | .resIn => some c.port
  | .drain | .copy => if gEnc c.target = 2 then some (gNz c.target) else none
  | _ => none

/-- No earlier command holds the residue register (R61). -/
def State.residueFree (s : State) (t : Nat) (c : Cmd) : Bool :=
  match c.residue with
  | none => true
  | some r => (s.tile t).str.cmds.all (fun e => !(decide (e.2.num < c.num) && decide (e.2.residue = some r)))

/-- The residue lanes before the first element of a noise-shaped store (R59). -/
def State.enterResidue (s : State) (t : Nat) (c : Cmd) : State :=
  if gEnc c.target = 2 && c.pos = 0 && c.lane = 0 && c.buf.isEmpty && gNzEntry c.target = 0 then
    s.mapTile t (fun x => { x with nz := x.nz.set {} (gNz c.target) {} })
  else s

/-- The bit pattern stored for a lane of a source format: unchanged under mode none, rounded under mode round, noise
shaped with the line's residue otherwise (R56, R58, R206). -/
def State.formed (s : State) (t : Nat) (c : Cmd) (fmt : Nat) (scale : Int) (bits j : Nat) : State × Nat :=
  let g := c.target
  let ty := if gFmt g = 6 then 4 else gFmt g
  let x := if isFloat fmt then (decodeType fmt bits).scale scale else decodeType fmt bits
  match gEnc g with
  | 0 => (s, bits)
  | 1 => (s, encodeRound ty (gScale g) x)
  | _ =>
    let r := (s.tile t).nz.get {} (gNz g)
    let line := gLine g j
    let (q, lane, full) := noiseShape ty (gScale g) x (r.lanes.get 0 line)
    let count := if full then (if r.count = BitVec.allOnes 32 then r.count else r.count + 1) else r.count
    (s.mapTile t (fun x => { x with nz := x.nz.set {} (gNz g) ⟨r.lanes.set 0 line lane, count⟩ }), q)

/-- The bytes a copy writes are remembered as they stood before, for R232. -/
def State.remember (s : State) (t : Nat) (c : Cmd) (ga n : Nat) : Cmd :=
  match c.kind with
  | .copy | .gatherCopy | .scatterCopy =>
    { c with written := (List.range n).foldl (fun m i =>
        if (KMap.get? m (ga + i)).isSome then m else KMap.put m (ga + i) (s.taskByte t c.inTask (ga + i))) c.written }
  | _ => c

/-- Bytes written at an address of the target, remembered for R232. -/
def State.putAt (s : State) (t : Nat) (c : Cmd) (a : Addr) (bs : List Byte) : State × Acc Cmd :=
  andThen (s.put t c.inTask c.target a bs) (fun s' ps => (s', .ok (ps.foldl (fun c p => s.remember t c p.1 p.2) c)))

/-- A word enters the routing entry of its virtual stream number at a port, from a source (R428, R439). -/
def State.hold (s : State) (p vsn src : Nat) (w : FabricWord) : State :=
  let x := s.port p
  let k := 16 * vsn + src
  s.setPort p { x with held := x.held.set [] k (x.held.get [] k ++ [w]) }

/-- The first port and the virtual stream number of an edge of a die (R430). -/
def edgePort (e : Word) : Nat := (e.extractLsb' 56 4).toNat
def edgeVsn (e : Word) : Nat := (e.extractLsb' 44 12).toNat

/-- A word of a peer edge is sent, as local injection at the edge's port (R432). -/
def State.sendPeer (s : State) (d edge : Nat) (w : FabricWord) : State :=
  let e := (s.die d).edges.get 0 edge
  s.hold (edgePort e) (edgeVsn e) 12 { w with src := Config.package }

/-- Words of a peer edge: a header where a packet begins, then the data word, each with its address, and a marker after
the last; in a task they enter the log (R432, R435). -/
def State.putPeer (s : State) (t : Nat) (c : Cmd) (v : Due) : State × Acc Cmd :=
  let g := c.target
  let w := v.elem / (64 / gBytes g)
  let words := (c.count * gBytes g + 63) / 64
  let d := dieOf (groveOf t)
  let head := packetHeader g (w / gPlen g) w (min (gPlen g) (words - w)) (c.axisOf g v.elem v.row)
  let edge := gId g % 4096
  let mk := ((s.die d).edges.get 0 edge).getLsbD 60
  let ws : List (BitVec 2 × Vec) := (if w % gPlen g = 0 then [(1, head)] else [])
    ++ [(0, BitVec.ofNat 512 (leNat v.bytes))] ++ (if mk && w + 1 = words then [(2, 0)] else [])
  if c.inTask then (s.logRemote t (ws.map (fun e => Remote.peer edge v.addr e.2 e.1)), .ok c)
  else
    (ws.foldl (fun s e => s.sendPeer d edge { kind := e.1, addr := v.addr, data := e.2, senders := [(t, c.num + 1, v.elem)] }) s,
      .ok { c with unacked := c.unacked ++ ws.map (fun _ => (v.elem, s.cycle)) })

/-- The address of element j of a command's target, in a row that an index names (R199, R210). -/
def Cmd.place (c : Cmd) (j row : Nat) : Addr :=
  match c.kind with
  | .scatter | .scatterCopy => c.addr j row
  | _ => gAddr c.target j

/-- One formed element j of a row goes on its way: gathered into blocks for `pk8`, into words for channels and peers, the last one of a
peer padded with zero bytes, otherwise by itself (R202, R206, R217, R432). The blocks of an `ss.ind` follow one another from `base`
on, whatever their rows, and a last part block is dropped: the spec gives them no other place (DESIGN CHOICE, log entry 57). -/
def Cmd.form (c : Cmd) (j row bits : Nat) : Cmd :=
  let g := c.target
  let z := gBytes g
  let bs := leBytes z bits
  let c := if c.buf.isEmpty then { c with row := row } else c
  let buf := c.buf ++ bs
  let first := j + 1 - buf.length / z
  if gFmt g = 6 then
    if buf.length < 32 then { c with buf := buf }
    else
      let block := pkEncode buf
      { c with buf := [], sent := c.sent + block.length
               due := c.due ++ [⟨first, gBase g + BitVec.ofNat 72 c.sent, block, c.row, c.total⟩] }
  else if gSpace g = 5 ∨ gSpace g = 3 then
    if buf.length < 64 ∧ j + 1 < c.count then { c with buf := buf }
    else { c with buf := [], due := c.due ++ [⟨first, c.place first c.row, buf ++ List.replicate (64 - buf.length) 0, c.row, c.total⟩] }
  else { c with due := c.due ++ [⟨j, c.place j row, bs, row, c.total⟩] }

/-! ### Values on their way (R206, R232, R316) -/

/-- The member of a multicast into geometries that a value goes to. -/
def State.dueTile (s : State) (t : Nat) (c : Cmd) (d : Due) : Nat := ((s.castTiles t c)[d.word]?).getD t

/-- The space that a command's values go to. -/
def Cmd.dueSpace (c : Cmd) : Nat := if c.kind = .wb then 6 else gSpace c.target

/-- A command begins to write the weight buffer of a tile, which waits for the tile's gang instance to end (R332). -/
def State.mayBegin (s : State) (m : Nat) (c : Cmd) : Bool :=
  c.begun.contains m || match (s.tile m).mx.running with
    | some r => r.gang.isNone
    | none => true

/-- A value on its way performs: in a weight buffer, in a member's scratchpad, on a peer edge, or at its node (R206, R214, R217, R220,
R229, R432). A member has accepted its word when the last of its values has performed (R385). -/
def State.performDue (s : State) (t : Nat) (c : Cmd) (d : Due) : State × Acc Cmd :=
  let m := if c.kind = .mcGeo then s.dueTile t c d else t
  let r : State × Acc Cmd := if c.dueSpace = 6 then
      if s.mayBegin m c then (s.write (wbAddr m d.addr.toNat) d.bytes, .ok { c with begun := insertNat m c.begun }) else (s, .wait)
    else if c.dueSpace = 3 then s.putPeer t c d
    else if c.kind = .mcGeo then andThen (s.put m false c.other d.addr d.bytes) (fun s _ => (s, .ok c))
    else s.putAt t c d.addr d.bytes
  match r with
  | (s, .ok c) => (s, .ok (if c.kind = .mcGeo && c.due.all (fun e => e.word ≠ d.word) then c.acceptBy d.word else c))
  | (s, e) => (s, e.at d.elem)

/-- A value may perform: the members of a store copy have accepted its word (R326). -/
def Cmd.dueOpen (c : Cmd) (d : Due) : Bool := c.kind = .mcGeo || decide (d.word ≤ c.near)

/-- The runs of bytes, in the model's numbering, that a value goes to. -/
def State.dueRuns (s : State) (t : Nat) (c : Cmd) (d : Due) : List (Nat × Nat) :=
  let m := if c.kind = .mcGeo then s.dueTile t c d else t
  match c.dueSpace with
  | 6 => [(wbAddr m d.addr.toNat, d.bytes.length)]
  | _ => match (s.locate m c.target d.addr d.bytes.length true).2 with
    | .ok ps => ps
    | _ => []

/-- Two runs of bytes share one. -/
def runsMeet (ps qs : List (Nat × Nat)) : Bool :=
  ps.any (fun p => qs.any (fun q => decide (p.1 < q.1 + q.2) && decide (q.1 < p.1 + p.2)))

/-- The i-th value on its way may perform before those formed before it: none of them goes to a byte of it, and the words of a peer
edge and of a store port keep their order (R232, R316, R428). -/
def State.dueFree (s : State) (t : Nat) (c : Cmd) (i : Nat) (d : Due) : Bool :=
  i = 0 || (decide (c.dueSpace ≠ 3) && decide (c.dueSpace ≠ 4)
    && (c.due.take i).all (fun e => !runsMeet (s.dueRuns t c e) (s.dueRuns t c d)))

/-- The i-th value on its way performs where it may; a fault waits for its turn. -/
def State.performNth (s : State) (t : Nat) (c : Cmd) (i : Nat) : Option (State × Cmd) :=
  match c.due[i]? with
  | none => none
  | some d =>
    if !c.dueOpen d || !s.dueFree t c i d then none
    else match s.performDue t { c with due := c.due.eraseIdx i } d with
      | (s, .ok c) => some (s, c)
      | _ => none

/-- The values on their way perform in order, up to one that may not, that waits or that meets a fault. -/
def State.performFrom (s : State) (t : Nat) (c : Cmd) : List Due → State × Cmd × Acc Nat
  | [] => (s, { c with due := [] }, .ok 0)
  | d :: ds =>
    if !c.dueOpen d then (s, { c with due := d :: ds }, .wait) else
    match s.performDue t { c with due := ds } d with
    | (s, .ok c) => s.performFrom t c ds
    | (s, .wait) => (s, { c with due := d :: ds }, .wait)
    | (s, .stop e p) => (s, { c with due := d :: ds }, .stop e p)
    | (s, .unmapped a) => (s, { c with due := d :: ds }, .unmapped a)

/-- A command after its step: its values on their way perform, or stay so, and it ends with the last. -/
def State.settleCmd (s : State) (t h : Nat) (c : Cmd) (hold : Bool) : State :=
  match (if hold then (s, c, Acc.ok 0) else s.performFrom t c c.due) with
  | (s', c', e) =>
    let s' := if c'.due.length < c.due.length then s'.markMoved (.tile t) else s'
    (s'.setCmd t h { c' with done := c'.finished }).failCmd t h c' e

/-- A command after what it has read or taken: a stop comes when the values formed before it have performed (R226). -/
def State.afterTake (s : State) (t h : Nat) (c : Cmd) (hold : Bool) (e : Acc Nat) : State :=
  match e with
  | .ok _ => s.settleCmd t h c hold
  | .wait => s.settleCmd t h c hold
  | .unmapped a => (s.setCmd t h c).failCmd t h c (.unmapped a : Acc Nat)
  | .stop cause p => if c.due.isEmpty then (s.setCmd t h c).failCmd t h c (.stop cause p : Acc Nat) else s.settleCmd t h c hold

/-! ### Draining a port -/

/-- The lanes of a data word taken for the elements from `pos` on; the word stays in the port where a row cannot be told (R205, R206,
R210). -/
def State.formLanes (s : State) (t : Nat) (c : Cmd) (d : Decode) (w : Vec) : Nat → State × Cmd × Acc Nat
  | 0 => (s, c, .ok 0)
  | n + 1 =>
    let z := typeBytes d.fmt.toNat
    if c.count ≤ c.pos then (s, c, .ok 0) else
    match s.rowOf t c c.pos with
    | (s, .ok row) =>
      let r := s.formed t c d.fmt.toNat d.scale.toInt (gf w (8 * z * c.lane) (8 * z)) c.pos
      r.1.formLanes t { c.form c.pos row r.2 with pos := c.pos + 1, lane := c.lane + 1 } d w n
    | (s, .wait) => (s, c, .wait)
    | (s, .stop e p) => (s, c, .stop e p)
    | (s, .unmapped a) => (s, c, .unmapped a)

/-- The word that a store copy takes from its port enters the window, once (R216); `header` says that it has not. -/
def Cmd.pushCast (c : Cmd) (w : Slot512) : Cmd :=
  if c.members.isEmpty || !c.header then c else { c.pushWindow w 0 with header := false }

/-- A store copy can take another word from its port: no member holds it, and the multicast unit has room (R215, R216, R296). -/
def State.copyOpen (s : State) (t : Nat) (c : Cmd) : Bool :=
  c.members.isEmpty || !c.header || (!c.held (s.tile t).seq.ctl.mclag.toNat && s.castRoom t)

/-- The next word of an output port, taken by a command that drains it. -/
def State.takeFor (s : State) (t h p k : Nat) (w : Slot512) (c : Cmd) : State :=
  (s.mapTile t (·.takeWord p k w)).setCmd t h { c with header := true }

/-- A draining command that stores takes a header or a data word: a header for the port's decode, a data word for its values. A word
that stops the command is met once every value before it has performed (R205, R206, R216, R226). -/
def State.takeNext (s : State) (t p k : Nat) (c : Cmd) (w : Slot512) : State × Cmd × Acc Nat :=
  let took (s : State) : State := s.mapTile t (·.takeWord p k w)
  let stop (s : State) (c : Cmd) (cause : BitVec 8) : State × Cmd × Acc Nat := (s, c, .stop cause none)
  match w.kind.toNat with
  | 1 =>
    if pairOk (hFmt w.data).toNat c.geo then (took s, { c.pushCast w with header := true }, .ok 0)
    else if c.due.isEmpty then stop (took s) { c.pushCast w with header := true } 0x15 else (s, c, .wait)
  | 0 => match (s.tile t).str.ox.get? p with
    | none => stop s c 0x14
    | some d =>
      if !pairOk d.fmt.toNat c.geo then stop s c 0x15
      else
        let c := c.pushCast w
        (match (s.enterResidue t c).formLanes t c d w.data (64 / typeBytes d.fmt.toNat - c.lane) with
        | (s, c, .ok _) => (took s, { c with lane := 0, header := true }, .ok 0)
        | r => r)
  | _ => stop s c 0x14

/-- A draining command takes the next word of its output port, and none but a firebreak after its last element's (R205, R206, R216,
R230). With `hold` the values that it forms are still on their way. -/
def State.drainWord (s : State) (t h : Nat) (c : Cmd) (p : Nat) (hold : Bool) : State :=
  match (s.tile t).image.outPort p with
  | none => s.settleCmd t h c hold
  | some (k, _) => match (s.tile t).headOf k with
    | none => s.settleCmd t h c hold
    | some w =>
      if w.kind ≠ 2 && c.kind ≠ .drop && (decide (c.count ≤ c.pos) || !s.copyOpen t c) then s.settleCmd t h c hold
      else if w.parityBad then s.softError t
      else if w.kind = 2 then s.takeFor t h p k w { c with paused := true }
      else if c.kind = .drop then
        if w.kind = 3 then s.stopCmd t h c 0x14
        else
          let c := if w.kind = 0 then { c with pos := c.pos + 1 } else c
          s.takeFor t h p k w { c with done := c.finished }
      else match s.takeNext t p k c w with
        | (s', c', e) => s'.afterTake t h c' hold e

/-! ### Copies, multicast into geometries, weight-buffer loads -/

/-- Source bytes that the copy itself has written already: either value may be read (R232), so a free bit chooses. -/
def State.ownBytes (s : State) (t : Nat) (c : Cmd) (g : Vec) (a : Addr) (bs : List Byte) : State × List Byte :=
  if c.written.isEmpty then (s, bs) else
  match (s.locate t g a bs.length false).2 with
  | .ok ps =>
    let as := ps.flatMap (fun p => (List.range p.2).map (· + p.1))
    if as.any (fun k => (KMap.get? c.written k).isSome) then
      (s.draw, if Config.freeBit s.fresh then bs
        else (bs.zip as).map (fun (b, k) => (KMap.get? c.written k).getD b))
    else (s, bs)
  | _ => (s, bs)

/-- The next patterns of a copy's source: the elements of one block of `pk8`, or one element (R203, R209, R210, R232). Of a byte that the
same copy has written, a read of an element takes the old or the new value by a free bit; a read of a `pk8` block and a read of an index
take the new one once that write has performed (DESIGN CHOICE, log entry 8). -/
def State.copyRead (s : State) (t : Nat) (c : Cmd) : State × Acc (List Nat × Nat) :=
  let r := c.reader
  if gFmt r.geo = 6 ∧ !r.indexed then
    andThen (s.readBlock t r ((c.pos - c.lane) / 32) c.taken) (fun s b => (s, .ok (b.1.map (·.toNat), b.2)))
  else
    andThen (s.rowOf t r c.pos) (fun s row => andThen (s.readElem t r c.pos) (fun s bs =>
      let (s, bs) := if gFmt r.geo = 6 then (s, bs) else s.ownBytes t c r.geo (r.addr c.pos row) bs
      (s, .ok ([leNat bs], 0))))

/-- The patterns of a copy are formed in visit order. -/
def State.formAll (s : State) (t : Nat) (c : Cmd) (fmt : Nat) (scale : Int) : List Nat → State × Cmd × Acc Nat
  | [] => (s, c, .ok 0)
  | b :: bs =>
    match (match c.kind with
      | .scatterCopy => s.rowOf t c c.pos
      | _ => (s, .ok 0)) with
    | (s, .ok row) =>
      let r := s.formed t c fmt scale b c.pos
      r.1.formAll t { c.form c.pos row r.2 with pos := c.pos + 1, lane := c.lane + 1 } fmt scale bs
    | (s, .wait) => (s, c, .wait)
    | (s, .stop e p) => (s, c, .stop e p)
    | (s, .unmapped a) => (s, c, .unmapped a)

/-- A word of a peer edge has been read whole: the next one is asked for (R433). -/
def Cmd.turnWord (c : Cmd) (g : Vec) (cycle : Nat) : Cmd :=
  if gSpace g = 3 && (decide (c.pos % (64 / gBytes g) = 0) || c.single) then { c with reply := [], waitSince := cycle } else c

/-- The next elements of a copy are read and formed (R209, R210). -/
def State.copyNext (s : State) (t : Nat) (c : Cmd) : State × Cmd × Acc Nat :=
  let src := c.source
  let fmt := if gFmt src = 6 then 4 else gFmt src
  if c.count ≤ c.pos then (s, c, .ok 0) else
  match (s.enterResidue t c).copyRead t c with
  | (s, .ok (bs, n)) => (match s.formAll t c fmt (gScale src) (bs.drop c.lane) with
    | (s, c, .ok _) => (s.markMoved (.tile t), (({ c with taken := c.taken + n, lane := 0 } : Cmd).turnWord src s.cycle).past c.pos, .ok 0)
    | r => r)
  | (s, .wait) => (s, c, .wait)
  | (s, .stop e p) => (s, c, .stop e p)
  | (s, .unmapped a) => (s, c, .unmapped a)

/-- One step of a copy (R209, R210). -/
def State.copyStep (s : State) (t h : Nat) (c : Cmd) (hold : Bool) : State :=
  match s.copyNext t c with
  | (s', c', e) => s'.afterTake t h c' hold e

/-- The end of the k-th block, and of `n` more, of a `pk8` source that is copied undecoded: its blocks are followed by their codes,
whatever R55 says of them (R220). -/
def State.packedBytes (s : State) (t : Nat) (c : Cmd) : Nat → Nat → Nat → State × Acc Nat
  | _, 0, off => (s, .ok off)
  | k, n + 1, off =>
    let rec size (s : State) (m : Nat) (acc : List Byte) : State × Acc Nat :=
      match pkSize acc, m with
      | some z, _ => (s, .ok z)
      | none, 0 => (s, .ok acc.length)
      | none, m + 1 => andThen (s.read t c c.geo (gBase c.geo + BitVec.ofNat 72 (off + acc.length)) 1) (fun s bs => size s m (acc ++ bs))
    let r := size s 45 []
    andThen (r.1, r.2.at (32 * k)) (fun s z => s.packedBytes t c (k + 1) n (off + z))

/-- The number of source bytes a weight-buffer load moves (R220). -/
def State.wbBytes (s : State) (t : Nat) (c : Cmd) : State × Acc Nat :=
  if gFmt c.geo = 6 then s.packedBytes t c 0 (gCount c.geo / 32) 0 else (s, .ok (gCount c.geo * gBytes c.geo))

/-- The element with which word k of a weight-buffer image begins; in `pk8` one of the block that its first byte lies in (R228). -/
def State.wbElem (s : State) (t : Nat) (c : Cmd) (k : Nat) : Nat :=
  if gFmt c.geo ≠ 6 then 64 / gBytes c.geo * (k - 1)
  else 32 * ((List.range (gCount c.geo / 32)).filter (fun b => match (s.packedBytes t c 0 (b + 1) 0).2 with
    | .ok fin => decide (fin ≤ 64 * (k - 1))
    | _ => false)).length

/-- Word k of a weight-buffer image: the descriptor, then the source bytes in visit order, the last word padded
(R220). -/
def State.wbWord (s : State) (t : Nat) (c : Cmd) (k total : Nat) : State × Acc (List Byte) :=
  if k = 0 then
    (s, .ok (leBytes 64 (headerWord (gFmt c.geo) (gf c.geo 472 8) 0 (gTagbase c.geo * 256) ((total + 63) / 64)
      (gAxis c.geo)).toNat))
  else if gSpace c.geo = 3 then (s, if c.reply.length = 64 then .ok c.reply else .wait)
  else
    let z := gBytes c.geo
    let n := min 64 (total - 64 * (k - 1))
    let r := if gFmt c.geo = 6 then s.read t c c.geo (gBase c.geo + BitVec.ofNat 72 (64 * (k - 1))) n
      else s.readElems t c (64 / z * (k - 1)) (n / z)
    andThen (r.1, r.2.at (s.wbElem t c k)) (fun s bs => (s, .ok (bs ++ List.replicate (64 - bs.length) 0)))

/-- The word at `pos` of a weight-buffer image that goes to word `off` of a weight buffer on, and whether it is the last; a word
past 4,095 stops the command (R214, R220). -/
def State.wbNext (s : State) (t : Nat) (c : Cmd) (off : Nat) : State × Acc (List Byte × Bool) :=
  andThen (s.wbBytes t c) (fun s total =>
    if 4096 ≤ off + c.pos then (s, .stop 0x0b (some (s.wbElem t c c.pos)))
    else andThen (s.wbWord t c c.pos total) (fun s bs => (s, .ok (bs, decide (1 + (total + 63) / 64 ≤ c.pos + 1)))))

/-- The next word of `s.wb` is read (R220). -/
def State.wbTake (s : State) (t : Nat) (c : Cmd) : State × Cmd × Acc Nat :=
  let off := gField c.geo % 4096
  if c.ended then (s, c, .ok 0) else
  match s.wbNext t c off with
  | (s, .ok (bs, last)) => (s.markMoved (.tile t),
      ({ c with pos := c.pos + 1, reply := [], waitSince := s.cycle, ended := last
                due := c.due ++ [⟨c.standAt, BitVec.ofNat 72 (64 * (off + c.pos)), bs, 0, 0⟩] } : Cmd).past (64 / gBytes c.geo * c.pos), .ok 0)
  | (s, .wait) => (s, c, .wait)
  | (s, .stop e p) => (s, c, .stop e p)
  | (s, .unmapped a) => (s, c, .unmapped a)

/-- One word of `s.wb` (R220, R332). -/
def State.wbStep (s : State) (t h : Nat) (c : Cmd) (hold : Bool) : State :=
  match s.wbTake t c with
  | (s', c', e) => s'.afterTake t h c' hold e

/-- The bytes that elements of a data word become in a target of space 0: as they stand, or packed by the encoder of R55 (R56,
R214). -/
def castBytes (c : Cmd) (w : Vec) (n : Nat) : List Byte :=
  let bs := leBytes n w.toNat
  if gFmt c.other = 6 then pkEncode (bs.take 32) ++ (if n ≤ 32 then [] else pkEncode (bs.drop 32)) else bs

/-- The values of word k of a multicast into geometries, at member i (R199, R214, R220). -/
def castDues (c : Cmd) (i k off : Nat) (w : Vec) : List Due :=
  let z := gBytes c.geo
  let per := 64 / z
  if gSpace c.other ≠ 0 then [⟨per * (k - 1), BitVec.ofNat 72 (gf c.other 384 72 + 64 * k), leBytes 64 w.toNat, 0, i⟩]
  else if gFmt c.other = 6 then
    [⟨64 * k, gBase c.other + BitVec.ofNat 72 off, castBytes c w (min 64 (gCount c.geo - 64 * k)), 0, i⟩]
  else (List.range (min per (gCount c.geo - k * per))).map (fun e =>
    ⟨k * per + e, gAddr c.other (k * per + e), leBytes z (gf w (8 * z * e) (8 * z)), 0, i⟩)

/-- The values of member i's next word are on their way, if it has not begun with it and the word waits in the window (R214, R215). -/
def State.castForm (s : State) (t : Nat) (c : Cmd) (i : Nat) : Cmd :=
  if c.due.any (fun d => d.word = i) then c else
  match c.nextFor (s.tile t).seq.ctl.mclag.toNat i with
  | some (w, off) => { c with due := c.due ++ castDues c i (c.accepted.get 0 i) off w.data }
  | none => c

/-- The values of a member on their way perform in order, all of them or none. -/
def State.castAll (s : State) (t : Nat) (c : Cmd) : List Due → State × Acc Cmd
  | [] => (s, .ok c)
  | d :: ds => andThen (s.performDue t { c with due := c.due.filter (· ≠ d) } d) (fun s c => s.castAll t c ds)

/-- The first member of a multicast into geometries whose next word waits writes it (R214, R215, R332, R385). -/
def State.castInto (s : State) (t : Nat) (c : Cmd) : Option (State × Acc Cmd) :=
  c.live.findSome? (fun i =>
    let c := s.castForm t c i
    match c.due.filter (fun d => d.word = i) with
    | [] => none
    | ds => match s.castAll t c ds with
      | (_, .wait) => none
      | r => some r)

/-- Member i performs its e-th value on its way, before those that do not go to a byte of it (R232, R316). -/
def State.castNth (s : State) (t h : Nat) (c : Cmd) (i e : Nat) : State :=
  if !c.live.contains i then s else
  let c := s.castForm t c i
  match (c.due.zipIdx.filter (fun d => d.1.word = i))[e]? with
  | none => s
  | some (_, k) => match s.performNth t c k with
    | some (s, c) => (s.setCmd t h { c with done := c.finished }).markMoved (.tile t)
    | none => s

/-- The next word of a multicast into geometries enters the window (R214, R220, R296). -/
def State.castRead (s : State) (t h : Nat) (c : Cmd) : State :=
  let next := if gSpace c.other = 0 then
      andThen (s.dataWord t c c.pos) (fun s w => (s, .ok (w.1, w.2, decide (c.words ≤ c.pos + 1))))
    else andThen (s.wbNext t c (gf c.other 384 72 / 64)) (fun s w => (s, .ok (BitVec.ofNat 512 (leNat w.1), 0, w.2)))
  match next with
  | (s, .ok (w, n, last)) =>
    let len := (castBytes c w (min 64 (gCount c.geo - 64 * c.pos))).length
    let c' := c.pushWindow ⟨0, w, 0⟩ c.taken
    (s.setCmd t h (({ c' with
      pos := c.pos + 1, sent := c.sent + n, taken := c.taken + len, reply := [], waitSince := s.cycle, ended := last } : Cmd).past
        ((if gSpace c.other = 0 then c.pos + 1 else c.pos) * (64 / gBytes c.geo)))).markMoved (.tile t)
  | (s, e) => s.failCmd t h c e

/-- One step of `s.mc` into geometries: a member writes its next word, or the next word is read. The command completes when every
member has written the last one (R214, R215, R385). -/
def State.castStep (s : State) (t h : Nat) (c : Cmd) (hold : Bool) : State :=
  match (if hold then none else s.castInto t c) with
  | some (s, .ok c') => (s.setCmd t h { c' with done := c'.finished }).markMoved (.tile t)
  | some (s, e) => s.failCmd t h c e
  | none =>
    if c.ended || c.held (s.tile t).seq.ctl.mclag.toNat || !s.castRoom t then s else s.castRead t h c

/-! ### Residues, tokens, barriers -/

/-- The bytes of a residue register's word k of 17 (R60). -/
def Residue.word (r : Residue) (k : Nat) : List Byte :=
  if k < 16 then (List.range 16).flatMap (fun i => leBytes 4 (r.lanes.get 0 (16 * k + i)).toNat)
  else leBytes 64 r.count.toNat

/-- A residue register from its 17 words (R60, R222). -/
def Residue.ofBytes (bs : List Byte) : Residue :=
  let lane (i : Nat) : BitVec 32 := BitVec.ofNat 32 (leNat ((bs.drop (4 * i)).take 4))
  ⟨(List.range 256).foldl (fun m i => KMap.set 0 m i (lane i)) [], lane 256⟩

/-- Word k of an `s.res` lies here (R222). -/
def Cmd.resAddr (c : Cmd) (k : Nat) : Addr := gBase c.geo + BitVec.ofNat 72 (64 * k)

/-- The words of a residue register from the next one on are on their way (R222). -/
def State.resForm (s : State) (t : Nat) (c : Cmd) : Cmd :=
  let r := (s.tile t).nz.get {} c.port
  { c with pos := 17, due := c.due ++ (List.range (17 - c.pos)).map (fun i =>
      ⟨c.pos + i, c.resAddr (c.pos + i), r.word (c.pos + i), 0, 0⟩) }

/-- One word of `s.res` (R222). -/
def State.residueStep (s : State) (t h : Nat) (c : Cmd) (hold : Bool) : State :=
  match c.kind with
  | .resOut =>
    if hold then s.settleCmd t h (s.resForm t c) true
    else if c.due.isEmpty then
      s.settleCmd t h { c with pos := c.pos + 1, due := [⟨c.pos, c.resAddr c.pos, ((s.tile t).nz.get {} c.port).word c.pos, 0, 0⟩] } false
    else s.settleCmd t h c false
  | _ =>
    (match s.read t c c.geo (c.resAddr c.pos) 64 with
    | (s, .ok bs) =>
      let buf := c.buf ++ bs
      let s := if 16 ≤ c.pos then s.mapTile t (fun x => { x with nz := x.nz.set {} c.port (Residue.ofBytes buf) }) else s
      (s.setCmd t h { c with buf := buf, pos := c.pos + 1, done := decide (16 ≤ c.pos) }).markMoved (.tile t)
    | (s, e) => s.failCmd t h c e)

/-- The register `tileid` of a tile (R121, R287). -/
def State.tileid (s : State) (t : Nat) : Word :=
  BitVec.ofNat 64 (dieOf (groveOf t) * 2 ^ 14 + groveOf t % 10 * 2 ^ 10 + posOf t * 2 ^ 5 + s.logicalOf t)

/-- `s.tok` writes its word once every earlier command has completed, and posts kind 4 when the word becomes present
(R218). -/
def State.tokenStep (s : State) (t h : Nat) (c : Cmd) : State :=
  if (s.tile t).str.cmds.any (fun e => decide (e.2.num < c.num)) then s else
  let ev (k : Nat) (lanes : Word) : TokEvent := ⟨gId c.geo, (gBase c.geo).toNat / 64, BitVec.ofNat 64 (lanes.toNat + k)⟩
  let lanes : Word := BitVec.ofNat 64 ((s.tileid t).toNat % 2 ^ 32 + gTagbase c.geo * 2 ^ 32)
  match s.put t c.inTask c.geo (gBase c.geo) (leBytes 64 lanes.toNat) with
  | (s', .ok ps) =>
    let ga := ((ps.head?).map (·.1)).getD 0
    let s' := if c.inTask && !s'.present ga then
        s'.mapTile t (fun x => { x with task := x.task.map (fun k => { k with tokens := k.tokens ++ [ev 0 lanes] }) })
      else s'.postTile t 4 0 (gId c.geo) ((gBase c.geo).toNat / 64) lanes
    (s'.setCmd t h { c with done := true }).markMoved (.tile t)
  | (s', e) => s'.failCmd t h c e

/-- A command still writes into a region: a value on its way goes there, or an element that it has yet to form may (R219). A row of a
scatter may be any row of its geometry, and a block of `pk8` take 33 bytes (R53, R210; log entry 57). -/
def State.writesInto (s : State) (t : Nat) (c : Cmd) (g : Vec) : Bool :=
  let w := c.target
  let z := gBytes w
  let run (a : Addr) (n : Nat) : Bool := let p := s.flatAddr t w a.toNat; decide (0 < n) && gMeets g 0 p.1 p.2 n
  let from_ (k : Nat) : Bool := (List.range (gCount w - k)).any (fun i => run (gAddr w (k + i)) z)
  let first := c.pos - c.buf.length / z
  if c.kind = .wb then false
  else if c.kind = .mcGeo then
    decide (gSpace w = 0) && ((s.castTiles t c).zipIdx).any (fun e => decide (e.1 = t) && c.live.contains e.2
      && (if gFmt w = 6 then run (gBase w) (33 * (gCount w / 32)) else from_ (c.accepted.get 0 e.2 * (64 / gBytes c.geo))))
  else c.due.any (fun d => run d.addr d.bytes.length) || match c.kind with
    | .resOut => run (c.resAddr c.pos) (64 * (17 - c.pos))
    | .tok => run (gBase w) 64
    | .drain | .chw | .copy | .gatherCopy | .scatter | .scatterCopy =>
      if gFmt w = 6 then run (gBase w + BitVec.ofNat 72 c.sent) (33 * ((c.count - first) / 32))
      else if c.kind = .scatter || c.kind = .scatterCopy then decide (first < c.count) && from_ 0
      else from_ first
    | _ => false

/-- `s.bar` completes once no earlier command or `macc` will write a byte of its region (R219). -/
def State.barrierStep (s : State) (t h : Nat) (c : Cmd) : State :=
  let x := s.tile t
  let busy := x.str.cmds.any (fun e => decide (e.2.num < c.num) && s.writesInto t e.2 c.geo)
    || x.mx.tokens.any (fun k => decide (k.cmd.num < c.num) && s.writesInto t k.cmd c.geo)
  if busy then s else (s.setCmd t h { c with done := true }).markMoved (.tile t)

/-- Words that a translation fault at the far end refused are sent again, each with its response awaited anew (R434). -/
def State.resendAll (s : State) (t : Nat) (c : Cmd) : State × Cmd :=
  (c.resend.foldl (fun s w => s.sendPeer (dieOf (groveOf t)) (gId c.target % 4096) w) s,
    { c with resend := [], unacked := c.unacked ++ c.resend.map (fun w => ((w.senders.head?.map (·.2.2)).getD c.pos, s.cycle)) })

def State.resendWords (s : State) (t h : Nat) (c : Cmd) : State :=
  let r := s.resendAll t c
  r.1.setCmd t h r.2

/-- A value on its way performs before its turn, at any member of a multicast into geometries (R232, R316). -/
def State.performLater (s : State) (t h : Nat) (c : Cmd) (k : Nat) : State :=
  if c.kind = .mcGeo then s.castNth t h c (k / 64) (k % 64) else
  match s.performNth t c k with
  | some (s, c) => (s.setCmd t h { c with done := c.finished }).markMoved (.tile t)
  | none => s

/-- A value on its way of a tile's first `macc` token performs before its turn (R241, R316). -/
def State.performToken (s : State) (t k : Nat) : State :=
  match (s.tile t).mx.tokens with
  | [] => s
  | o :: rest =>
    if o.cmd.frozen || (s.tile t).landing? then s else
    match s.performNth t o.cmd k with
    | some (s, c) => s.mapTile t (fun x => { x with mx := { x.mx with tokens := { o with cmd := c } :: rest } })
    | none => s

/-- One word or element of a command that drains a port or writes memory (R205 to R222). Of the number, 0 to 63 modulo 128 is the
handle, and 65 stands for the tile's first `macc` token. Its 128s say which of the moves that have no order among them is made: 0 for
the next word or element and the values on their way in their order, 1 for the next word alone, whose values stay on their way, and
k + 2 for the k-th value on its way, at a multicast into geometries the (k mod 64)-th of member k / 64 (R232, R316; log entry 2). -/
def execStreamWordDrain (t n : Nat) (s : State) : Result :=
  let h := n % 128
  let k := n / 128
  .next (if h = 65 then (if k < 2 then s else s.performToken t (k - 2)) else match s.cmd? t h with
    | none => s
    | some c =>
      if c.paused || c.frozen || (s.tile t).still || !s.residueFree t c then s else
      if !c.resend.isEmpty then s.resendWords t h c else
      if c.done then s else
      if 2 ≤ k then s.performLater t h c (k - 2) else
      let hold := decide (k = 1)
      match c.kind with
      | .drain | .scatter | .drop | .chw => s.drainWord t h c (c.port % 16) hold
      | .copy | .gatherCopy | .scatterCopy => s.copyStep t h c hold
      | .mcGeo => s.castStep t h c hold
      | .wb => s.wbStep t h c hold
      | .resOut | .resIn => s.residueStep t h c hold
      | .tok => s.tokenStep t h c
      | .bar => s.barrierStep t h c
      | _ => s)

/-- A command completes: its handle is free, its barrier takes an arrival, `uipend` and the fault record are set
(R196, R228). -/
def execStreamCompletion (t h : Nat) (s : State) : Result :=
  .next (match s.cmd? t h with
    | none => s
    | some c => if c.ready then s.completeCmd t h c else s)

end Sys2Proof.Machine
end

