-- ==== Sys2Proof/Machine/StreamIssue.lean ====
section
/-!
DEFINITION. The issue of stream commands: the conditions of R194, the checks of R201 and of each command, and the
start of the command (R208 to R222, R225, R431). Kills (R221).
-/
namespace Sys2Proof.Machine

/-- The causes at issue in the order of R201's table. -/
def issueOrder : List (BitVec 8) := [0x14, 0x15, 0x09, 0x0b, 0x1e]

/-- The first cause of the table that some check gives (R201). -/
def firstCause (fs : List (Option (BitVec 8))) : Option (BitVec 8) := issueOrder.find? (fun c => fs.contains (some c))

/-- A cause where a condition fails. -/
def need (b : Bool) (c : BitVec 8) : Option (BitVec 8) := if b then none else some c

/-- The checks a space adds: peer edges (R431), store ports (R225, R406), channels (R217). -/
def State.spaceFaults (s : State) (t : Nat) (g : Vec) (reads : Bool) : List (Option (BitVec 8)) :=
  match gSpace g with
  | 3 =>
    let e := (s.die (dieOf (groveOf t))).edges.get 0 (gId g % 4096)
    [need (decide (gId g < 4096)) 0x14, need (e.getLsbD 63) 0x14,
     need (decide (e.extractLsb' 35 9 = (s.tile t).seq.ctl.asid)) 0x14,
     need (if reads then e.getLsbD 62 else e.getLsbD 61) 0x14]
  | 4 =>
    let z := gBytes g
    let verify := gId g / 2 ^ 15 = 1
    match s.nameSpace t g with
    | none => [some 0x14]
    | some ns =>
      [need (decide (gDims g = 1) && decide (geoStride g 0 = z) && decide ((gBase g).toNat % ns.block = 0)
          && decide (gCount g * z % ns.block = 0)) 0x09,
       need (!verify || (reads && decide ((gBase g).toNat % 65536 = 0))) 0x14,
       need (!verify || (s.slotOf g).ready) 0x1e]
  | 5 => [need (chanValid ((s.grove (groveOf t)).chans.get 0 (gId g))) 0x14]
  | _ => []

/-- An `swait` that has begun to wait on a handle (R186). -/
def Entry.swaits (e : Entry) (h : Nat) : Bool := e.begun && (match decodeV e.word with
  | some (.swait _ st) => decide (st.toNat = h)
  | _ => false)

/-- The wait at the head of a V queue on a handle whose command has completed: the queue without it, and the trap that it reports
(R186, R228). -/
def endSwaitIn (h : Nat) (f : Option FaultRecord) : List Entry → Option (List Entry × List Trap)
  | e :: rest => if e.swaits h then some (rest, f.toList.map (fun r => ⟨r.cause, r.info, e.slot.index, none, none⟩)) else none
  | [] => none

/-- A wait on a handle, of the unit's own code or of code that a handler has interrupted, completes with its handle's last completion
(R119, R186). -/
def Seq.endSwait (q : Seq) (h : Nat) (f : Option FaultRecord) : Seq :=
  match endSwaitIn h f (q.queues.get [] 7) with
  | some (es, ts) => { q with queues := q.queues.set [] 7 es, traps := q.traps ++ ts }
  | none => { q with handlers := q.handlers.map (fun x => match endSwaitIn h f (x.image.queues.get [] 7) with
      | some (es, ts) => { x with image := { x.image with queues := x.image.queues.set [] 7 es, traps := x.image.traps ++ ts } }
      | none => x) }

/-- A command issues: it waits for its handle and ports, traps with a stream report where a check fails, and otherwise
becomes busy with its captured geometries, once an `swait` for the handle's last completion has ended (R186, R194, R195, R229). -/
def State.issueStream (s : State) (st : BitVec 6) (faults : List (Option (BitVec 8))) (c : Cmd) : Result :=
  let t := s.tileNo
  let x := s.tile t
  let h := st.toNat
  let busy := (x.str.cmds.get? h).isSome
  let ports := (s.feeds t c).all s.portFree && match c.drains with
    | some p => x.str.cmds.all (fun e => e.2.drains ≠ some p)
    | none => true
  if busy || !ports then .next s else
  match firstCause faults with
  | some cause => .next (s.issueTrap cause (streamDetail h 0))
  | none =>
    let s := s.accept.mapSeq (.tile t) (·.endSwait h (x.str.faults.get? h))
    .next (s.mapTile t (fun x => { x with str := { x.str with
      cmds := x.str.cmds.put h { c with num := x.str.issued, inTask := x.inTask }
      faults := x.str.faults.erase h
      issued := x.str.issued + 1 } }))

def dataSpaces : List Nat := [0, 1, 2, 3, 4]

/-- A geometry that a command reads. -/
def readUse : GeoUse := { spaces := dataSpaces, reads := true }
/-- A geometry that a command writes. -/
def writeUse : GeoUse := { spaces := dataSpaces, writesMem := true }

/-- The checks of a read geometry, and of a written one. -/
def State.readFaults (s : State) (t : Nat) (u : GeoUse) (g : Vec) : List (Option (BitVec 8)) :=
  geoFault u g :: s.spaceFaults t g true
def State.writeFaults (s : State) (t : Nat) (u : GeoUse) (g : Vec) : List (Option (BitVec 8)) :=
  geoFault u g :: s.spaceFaults t g false

/-- Mode noise-shaped belongs to `ss.aff` and the affine copies (R207). -/
def noNoise (g : Vec) : Option (BitVec 8) := need (decide (gEnc g ≠ 2)) 0x14

/-- An index geometry holds 32-bit integers in space 0, 1 or 2 (R200, R210). -/
def State.indexFaults (s : State) (t : Nat) (g : Vec) : List (Option (BitVec 8)) :=
  need (gFmt g = 9 || gFmt g = 13) 0x14 :: s.readFaults t { readUse with spaces := [0, 1, 2] } g

/-- The members of a group a command casts to, which must exist (R214, R216). -/
def State.castGroup (s : State) (t grp : Nat) : List Nat :=
  let e := (s.die (dieOf (groveOf t))).groups.get 0 grp
  if groupValid e then groupMembers e else []

/-- The group of a store copy, if the target selects one (R216). -/
def copyGroup (g : Vec) : Option Nat := if gSpace g ≤ 2 ∧ gId g ≠ 0 then some (gId g % 256) else none

/-- A command of the context with its geometries. -/
def State.command (s : State) (k : CmdKind) (port : Nat) : Cmd :=
  { kind := k, entry := s.ctx, geo := s.ctx.g0, other := s.ctx.g1, index := s.ctx.g2, port := port,
    waitSince := s.cycle }

/-- `sl.aff` feeding a port (R209). -/
def execSlAffPort (_h : Hdr) (st : BitVec 6) (_g n : BitVec 4) (s : State) : Result :=
  s.issueStream st (s.readFaults s.tileNo readUse s.ctx.g0) (s.command .feed n.toNat)

/-- The checks of an affine copy from `src` to `dst` (R201, R209). -/
def State.copyFaults (s : State) (src dst : Vec) : List (Option (BitVec 8)) :=
  let t := s.tileNo
  s.readFaults t readUse src ++ s.writeFaults t writeUse dst
    ++ [need (decide (gCount src = gCount dst)) 0x14, need (pairOk (gFmt src) dst) 0x15]

/-- `sl.aff` copying from the first geometry to the second (R209). -/
def execSlAffCopy (_h : Hdr) (st : BitVec 6) (_g _t : BitVec 4) (s : State) : Result :=
  s.issueStream st (s.copyFaults s.ctx.g0 s.ctx.g1) (s.command .copy 0)

/-- A draining command with its store copies (R216). -/
def State.drainCmd (s : State) (k : CmdKind) (n : BitVec 4) : Cmd :=
  { s.command k n.toNat with members := match copyGroup s.ctx.g0 with
      | some grp => s.castGroup s.tileNo grp
      | none => [] }

/-- A store copy names a group with members (R216). -/
def State.copyGroupOk (s : State) (g : Vec) : Option (BitVec 8) :=
  match copyGroup g with
  | some grp => need (!(s.castGroup s.tileNo grp).isEmpty) 0x14
  | none => none

/-- `ss.aff` draining a port (R209, R216). -/
def execSsAffPort (_h : Hdr) (st : BitVec 6) (_g n : BitVec 4) (s : State) : Result :=
  s.issueStream st (s.copyGroupOk s.ctx.g0 :: s.writeFaults s.tileNo { writeUse with copies := true } s.ctx.g0)
    (s.drainCmd .drain n)

/-- `ss.aff` copying from the second geometry to the first (R209). -/
def execSsAffCopy (_h : Hdr) (st : BitVec 6) (_g _t : BitVec 4) (s : State) : Result :=
  s.issueStream st (s.copyFaults s.ctx.g1 s.ctx.g0) (s.command .copy 1)

/-- `sl.ind` gathering rows into a port (R210). -/
def execSlIndPort (_h : Hdr) (st : BitVec 6) (_g n _x : BitVec 4) (s : State) : Result :=
  s.issueStream st (s.readFaults s.tileNo readUse s.ctx.g0 ++ s.indexFaults s.tileNo s.ctx.g2) (s.command .gather n.toNat)

/-- The elements an indexed command moves (R210). -/
def indexedCount (d i : Vec) : Nat := gCount i * rowLen d

/-- `sl.ind` gathering rows into a second geometry (R209, R210). -/
def execSlIndCopy (_h : Hdr) (st : BitVec 6) (_g _t _x : BitVec 4) (s : State) : Result :=
  let c := s.ctx
  s.issueStream st (s.readFaults s.tileNo readUse c.g0 ++ s.writeFaults s.tileNo writeUse c.g1
      ++ s.indexFaults s.tileNo c.g2
      ++ [noNoise c.g1, need (decide (indexedCount c.g0 c.g2 = gCount c.g1)) 0x14, need (pairOk (gFmt c.g0) c.g1) 0x15])
    (s.command .gatherCopy 0)

/-- `ss.ind` scattering a port's rows (R207, R210, R216). -/
def execSsIndPort (_h : Hdr) (st : BitVec 6) (_g n _x : BitVec 4) (s : State) : Result :=
  s.issueStream st (s.copyGroupOk s.ctx.g0 :: noNoise s.ctx.g0
      :: (s.writeFaults s.tileNo { writeUse with copies := true } s.ctx.g0 ++ s.indexFaults s.tileNo s.ctx.g2))
    (s.drainCmd .scatter n)

/-- `ss.ind` scattering a second geometry's elements into rows (R209, R210). -/
def execSsIndCopy (_h : Hdr) (st : BitVec 6) (_g _t _x : BitVec 4) (s : State) : Result :=
  let c := s.ctx
  s.issueStream st (s.writeFaults s.tileNo writeUse c.g0 ++ s.readFaults s.tileNo readUse c.g1
      ++ s.indexFaults s.tileNo c.g2
      ++ [noNoise c.g0, need (decide (indexedCount c.g0 c.g2 = gCount c.g1)) 0x14, need (pairOk (gFmt c.g1) c.g0) 0x15])
    (s.command .scatterCopy 1)

/-- `s.rec` from an output port to an input port (R211); it names no geometry, so its output port stands in the low
bits of the command's own record. -/
def execSRec (_h : Hdr) (st : BitVec 6) (m n : BitVec 4) (s : State) : Result :=
  s.issueStream st [] { s.command .recirc n.toNat with geo := BitVec.ofNat 512 m.toNat }

/-- Every stride of a geometry is zero. -/
def stridesZero (g : Vec) : Bool := (List.range 4).all (fun d => decide (geoStride g d = 0))

/-- `s.const` (R212). The rule gives nonzero strides no cause: 0x14 (DESIGN CHOICE, log entry 12). -/
def execSConst (_h : Hdr) (st : BitVec 6) (_g n : BitVec 4) (s : State) : Result :=
  s.issueStream st (need (stridesZero s.ctx.g0) 0x14
    :: s.readFaults s.tileNo { readUse with spaces := [0, 1, 2] } s.ctx.g0) (s.command .const n.toNat)

/-- `s.drop` (R213). The rule gives nonzero strides or a nonzero base no cause: 0x14 (DESIGN CHOICE, log entry 12). -/
def execSDrop (_h : Hdr) (st : BitVec 6) (_g n : BitVec 4) (s : State) : Result :=
  s.issueStream st [need (stridesZero s.ctx.g0 && decide (gBase s.ctx.g0 = 0)) 0x14,
    geoFault { spaces := [0] } s.ctx.g0] (s.command .drop n.toNat)

/-- A multicast source: its field names the group (R214, R454). -/
def castUse : GeoUse := { readUse with fieldBits := 8 }

/-- `s.mc` to an input port of every member (R214). -/
def execSMcPort (_h : Hdr) (st : BitVec 6) (_g n : BitVec 4) (s : State) : Result :=
  let ms := s.castGroup s.tileNo (gField s.ctx.g0 % 256)
  s.issueStream st (need (!ms.isEmpty) 0x14 :: s.readFaults s.tileNo castUse s.ctx.g0)
    { s.command .mcPort n.toNat with members := ms }

/-- `s.mc` into the scratchpad or the weight buffer of every member (R214). -/
def execSMcGeo (_h : Hdr) (st : BitVec 6) (_g _t : BitVec 4) (s : State) : Result :=
  let c := s.ctx
  let ms := s.castGroup s.tileNo (gField c.g0 % 256)
  let norm (f : Nat) := if f = 6 then 4 else f
  let pairs := if gSpace c.g1 = 0 then
      [need (decide (gCount c.g0 = gCount c.g1)) 0x14, need (decide (norm (gFmt c.g0) = norm (gFmt c.g1))) 0x15]
    else []
  s.issueStream st (need (!ms.isEmpty) 0x14 :: geoFault { spaces := [0, 6] } c.g1
      :: (s.readFaults s.tileNo castUse c.g0 ++ pairs))
    { s.command .mcGeo 0 with members := ms }

/-- `s.chw` (R217). -/
def execSChw (_h : Hdr) (st : BitVec 6) (_g n : BitVec 4) (s : State) : Result :=
  s.issueStream st (noNoise s.ctx.g0
      :: s.writeFaults s.tileNo { spaces := [5], writesMem := true, whole := true } s.ctx.g0) (s.command .chw n.toNat)

/-- `s.chr` (R217). -/
def execSChr (_h : Hdr) (st : BitVec 6) (_g n : BitVec 4) (s : State) : Result :=
  s.issueStream st (s.readFaults s.tileNo { spaces := [5], reads := true, whole := true } s.ctx.g0)
    (s.command .chr n.toNat)

/-- `s.bar` (R219). -/
def execSBar (_h : Hdr) (st : BitVec 6) (_g : BitVec 4) (s : State) : Result :=
  s.issueStream st [geoFault { spaces := [0, 1, 2] } s.ctx.g0] (s.command .bar 0)

/-- `s.wb` (R220): the field gives the word offset, at most 12 bits. -/
def execSWb (_h : Hdr) (st : BitVec 6) (_g : BitVec 4) (s : State) : Result :=
  s.issueStream st (s.readFaults s.tileNo { readUse with fieldBits := 12 } s.ctx.g0) (s.command .wb 0)

/-- `s.tok` (R218). -/
def execSTok (_h : Hdr) (st : BitVec 6) (_g : BitVec 4) (s : State) : Result :=
  s.issueStream st (s.writeFaults s.tileNo { spaces := [5], writesMem := true } s.ctx.g0) (s.command .tok 0)

/-- The fields of an `s.res` geometry other than `space`, `bar`, `uirq`, `base` and `id` are zero (R222). -/
def resFieldsOk (g : Vec) : Bool :=
  decide (gf g 494 14 = 0) && decide (gf g 456 26 = 0) && decide (gf g 128 256 = 0) && decide (gf g 0 112 = 0)

/-- The checks of `s.res` (R222). -/
def State.resFaults (s : State) (reads : Bool) : List (Option (BitVec 8)) :=
  [need (resFieldsOk s.ctx.g0) 0x14, geoFault { spaces := [0, 1, 5], residue := true } s.ctx.g0]
    ++ s.spaceFaults s.tileNo s.ctx.g0 reads

/-- `s.res … out` (R222). -/
def execSResOut (_h : Hdr) (st : BitVec 6) (_g r : BitVec 4) (s : State) : Result :=
  s.issueStream st (s.resFaults false) (s.command .resOut r.toNat)

/-- `s.res … in` (R222). -/
def execSResIn (_h : Hdr) (st : BitVec 6) (_g r : BitVec 4) (s : State) : Result :=
  s.issueStream st (s.resFaults true) (s.command .resIn r.toNat)

/-- A kill: a command whose last access has performed completes, any other, one whose words are not yet acknowledged among them, is
gone with its handle free (R221). -/
def State.killCmd (s : State) (t h : Nat) : State :=
  match s.cmd? t h with
  | none => s
  | some c =>
    if c.ready then s.completeCmd t h c else s.dropCmd t h

/-- `s.kill sth` issues at once (R221). -/
def execSKill (_h : Hdr) (st : BitVec 6) (s : State) : Result := .next (s.accept.killCmd s.tileNo st.toNat)

/-- `s.kill all` (R221). -/
def execSKillAll (_h : Hdr) (s : State) : Result :=
  .next ((List.range 64).foldl (fun x h => x.killCmd s.tileNo h) s.accept)

end Sys2Proof.Machine
end

