-- ==== Sys2Proof/Machine/Array.lean ====
section
/-!
DEFINITION. The firing of elements: readiness (R13 to R19), data firings with counters, `emit`, tokens and carry edges
(R10 to R12, R22, R26, R97), header firings (R31, R32, R81, R99), and firebreaks (R33 to R36, R451). A firing computes
its results from the operands at once and puts them in the pipeline registers, with the slots they reserve (R9, R10,
R15); they reach those slots when they have left the last stage, at the end of a cycle.
-/
namespace Sys2Proof.Machine

/-! ### Where an input comes from (R67, R68) -/

/-- The source of an input: an edge with a buffer, a fixed edge, a carry edge, or an always-present source. -/
inductive Feed where
  | chan (k : Nat) (e : BitVec 64)
  | fixed (n : Nat)
  | carry (c : Nat)
  | const (code : Nat)
  deriving DecidableEq, Repr

def CfgImage.elem (i : CfgImage) (n : Nat) : BitVec 128 := i.elems.get 0 n

/-- The data edge that enters an input of a node. -/
def CfgImage.edgeInto (i : CfgImage) (n tin : Nat) : Option (Nat × BitVec 64) :=
  (i.edgesBy (fun e => decide (eTo e = n) && decide (eTin e = tin))).head?

/-- The feed of input j of element n. -/
def CfgImage.feed (i : CfgImage) (n j : Nat) : Feed :=
  let code := cSrc (i.elem n) j
  if code ≤ 19 then
    match i.edgeInto n j with
    | some (k, e) => if eKind e = 2 then .fixed (eFrom e) else .chan k e
    | none => .const 39
  else if code ≤ 35 then .carry (code - 20)
  else .const code

/-- The elements of a group, by rising alignment (R18, R19). -/
def CfgImage.group (i : CfgImage) (grp : Nat) : List Nat :=
  let ms := (i.elems.filter (fun e => decide (cOp e.2 ≠ 0) && decide (cGroup e.2 = grp))).map (·.1)
  (List.range 16).flatMap (fun a => ms.filter (fun n => decide (cAlign (i.elem n) = a)))

/-- The used inputs of an element. -/
def CfgImage.inputs (i : CfgImage) (n : Nat) : List Nat := usedInputs (cOp (i.elem n)) (cMod (i.elem n))

/-- An opcode of a compensated pair (R91). -/
def isPair (op : Nat) : Bool := op = 0x51 || op = 0x52

/-- The carry edges an element consumes: both of a pair. -/
def CfgImage.carriesIn (i : CfgImage) (n : Nat) : List Nat :=
  (i.inputs n).flatMap (fun j => match i.feed n j with
    | .carry c => if isPair (cOp (i.elem n)) && j = 0 then [c, c + 1] else [c]
    | _ => [])

/-- The carry edges an element writes: both of a pair. -/
def CfgImage.carriesOut (i : CfgImage) (n : Nat) : List Nat :=
  let d := cDst (i.elem n)
  if 20 ≤ d ∧ d ≤ 35 then (if isPair (cOp (i.elem n)) then [d - 20, d - 19] else [d - 20]) else []

/-- The buffered edges that leave an output of a node. -/
def CfgImage.outs (i : CfgImage) (n fout : Nat) : List (Nat × BitVec 64) :=
  i.edgesBy (fun e => decide (eFrom e = n) && decide (eFout e = fout) && decide (eKind e ≠ 2))

/-- The boundary channel inputs of a group: the member, the input and its edge (R19). -/
def CfgImage.boundary (i : CfgImage) (ms : List Nat) : List (Nat × Nat × Nat × BitVec 64) :=
  ms.flatMap (fun n => (i.inputs n).filterMap (fun j => match i.feed n j with
    | .chan k e => some (n, j, k, e)
    | _ => none))

/-- The slots of a carry edge (R77). -/
def CfgImage.carrySlots (i : CfgImage) (c : Nat) : Nat := ((i.carries.get 0 c).extractLsb' 58 4).toNat + 1

/-- The slots of a carry edge that results in the pipeline stages have reserved (R15, R26). -/
def Fabric.carryReserved (f : Fabric) (c : Nat) : Nat :=
  (f.elems.flatMap (fun e => e.2.pipe.flatMap (fun p => p.carries.filter (fun w => w.1 = c)))).length

def Tile.carryRoom (x : Tile) (i : CfgImage) (c : Nat) : Bool :=
  decide ((x.fab.carry.get [] c).length + x.fab.carryReserved c < i.carrySlots c)
def Tile.pushCarry (x : Tile) (c : Nat) (w : Slot512) : Tile :=
  { x with fab := { x.fab with carry := x.fab.carry.set [] c (x.fab.carry.get [] c ++ [w]) } }
def Tile.popCarry (x : Tile) (c : Nat) : Tile :=
  { x with fab := { x.fab with carry := x.fab.carry.set [] c ((x.fab.carry.get [] c).drop 1) } }
def Tile.carryWord (x : Tile) (c : Nat) : Vec := (((x.fab.carry.get [] c).head?).map (·.data)).getD 0

def Tile.elemAt (x : Tile) (n : Nat) : Elem := x.fab.elems.get {} n
def Tile.setElem (x : Tile) (n : Nat) (e : Elem) : Tile := { x with fab := { x.fab with elems := x.fab.elems.set {} n e } }

/-- A slot pushed onto every edge of a list. -/
def Tile.pushAll (x : Tile) (es : List (Nat × BitVec 64)) (w : Slot512) : Tile := es.foldl (fun x e => x.pushEdge e.1 w) x

/-- Every edge of a list has a free slot. -/
def Tile.roomAll (x : Tile) (es : List (Nat × BitVec 64)) : Bool := es.all (fun e => x.edgeRoom e.1 e.2)

/-! ### What a group may do (R16, R17, R19) -/

/-- What stands at the boundary inputs of a group. -/
inductive Ready where
  | wait
  | fault (cause : BitVec 8) (node : Nat)
  | data | header | firebreak
  deriving DecidableEq, Repr

/-- The kind of the first head that is present. -/
def firstKind (hs : List (Nat × Option Slot512)) : Option (BitVec 2) := (hs.findSome? (·.2)).map (·.kind)

/-- The kind of firing the heads allow: a reserved kind is a decode fault (R13), unequal kinds are a format mismatch
(R17). A group without channel inputs fires on data alone, and not once a drain is requested (R451). -/
def Tile.ready (x : Tile) (i : CfgImage) (ms : List Nat) : Ready :=
  let b := i.boundary ms
  let hs := b.map (fun p => (p.1, x.headOf p.2.2.1))
  let carries := ms.all (fun n => (i.carriesIn n).all (fun c => !(x.fab.carry.get [] c).isEmpty))
  if ms.any (fun n => (x.elemAt n).frozen) then .wait
  else if b.isEmpty then (if x.fab.draining then .firebreak else if carries then .data else .wait)
  else match hs.find? (fun h => (h.2.map (·.kind)) == some 3) with
    | some (n, _) => .fault 0x14 n
    | none =>
      match hs.find? (fun h => h.2.isSome && (h.2.map (·.kind)) != firstKind hs) with
      | some (n, _) => .fault 0x15 n
      | none =>
        if hs.any (fun h => h.2.isNone) then .wait
        else match (firstKind hs).map (·.toNat) with
          | some 0 => if carries then .data else .wait
          | some 1 => .header
          | _ => .firebreak

/-! ### Data firings -/

/-- An immediate in every lane of a type (R66). -/
def immWord (ty imm : Nat) : Vec :=
  match ty with
  | 0 => packLanes 0 (fun _ => quant 0 .rne (decodeType 1 imm))
  | 10 => packLanes 10 (fun _ => ((BitVec.ofNat 32 imm).signExtend 64).toNat)
  | _ => packLanes ty (fun _ => imm)

/-- An always-present source as an operand: a counter is truncated to the lane width, and rounded into a floating type
(R12, R66, R80). -/
def constIn (w : BitVec 128) (e : Elem) (code : Nat) : OpIn :=
  let ty := cType w
  let count (m : Nat) : OpIn :=
    let n := m % 2 ^ (8 * typeBytes ty)
    ⟨packLanes ty (fun _ => n), ty, 0, if isFloat ty then some (decodeType ty (quant ty .rne (.ofInt n))) else none⟩
  match code with
  | 36 => ⟨immWord ty (cImm w), ty, 0, none⟩
  | 37 => count e.lc0.toNat
  | 38 => count e.lc1.toNat
  | _ => ⟨0, ty, 0, none⟩

/-- The decode a header set at an input (R32). -/
def Elem.decode (e : Elem) (j : Nat) : Option Decode := match j with
  | 0 => e.decA
  | 1 => e.decB
  | _ => e.decC

/-- The operand of input j of member n, given the results of earlier members (R19, R80). -/
def Tile.operand (x : Tile) (i : CfgImage) (res : KMap Vec) (n j : Nat) : OpIn :=
  let w := i.elem n
  let typed (v : Vec) : OpIn := match (x.elemAt n).decode j with
    | some d => ⟨v, d.fmt.toNat, d.scale.toInt, none⟩
    | none => ⟨v, cType w, 0, none⟩
  match i.feed n j with
  | .chan k _ => typed (((x.headOf k).map (·.data)).getD 0)
  | .fixed m => typed (res.get 0 m)
  | .carry c => ⟨x.carryWord c, cType w, 0, none⟩
  | .const code => constIn w (x.elemAt n) code

/-- What member n reads in a data firing. -/
def Tile.opCtx (x : Tile) (i : CfgImage) (res : KMap Vec) (n : Nat) : OpCtx :=
  let w := i.elem n
  let lo := match i.feed n 0 with
    | .carry c => if isPair (cOp w) then x.carryWord (c + 1) else 0
    | _ => 0
  { w := w, a := x.operand i res n 0, b := x.operand i res n 1, c := x.operand i res n 2, lo := lo, acc := (x.elemAt n).acc }

/-- Whether `lc0`, and `lc1`, wrap in this firing (R11). -/
def Elem.wraps0 (e : Elem) (w : BitVec 128) : Bool := decide (e.lc0.toNat + 1 = cLim0 w)
def Elem.wraps1 (e : Elem) (w : BitVec 128) : Bool := cChain w && e.wraps0 w && decide (e.lc1.toNat + 1 = cLim1 w)

/-- The counters after a data firing (R11), and the accumulator of `racc` and `cnt` (R97). -/
def Elem.advance (e : Elem) (w : BitVec 128) (result : Vec) : Elem :=
  let w0 := e.wraps0 w
  { e with
    lc0 := if w0 then 0 else e.lc0 + 1
    lc1 := if cChain w && w0 then (if e.wraps1 w then 0 else e.lc1 + 1) else e.lc1
    acc := if cOp w = 0x80 ∨ cOp w = 0x82 then (if w0 then none else some result) else e.acc }

/-- Whether this firing sends its result (R11). -/
def Elem.emits (e : Elem) (w : BitVec 128) : Bool := match cEmit w with
  | 0 => true
  | 1 => e.wraps0 w
  | 2 => e.wraps1 w
  | _ => false

/-- The token of a result by the source of the router word (R22). -/
def tokenOf (source ty : Nat) (w : Vec) : Option Bool :=
  let ks := List.range (laneCount ty)
  match source with
  | 1 => some (ks.any (fun k => decide (lanePat ty w k ≠ 0)))
  | 2 => some (ks.all (fun k => decide (lanePat ty w k ≠ 0)))
  | 3 => some (w.getLsbD 0)
  | _ => none

/-- A control token as a slot. -/
def tokenSlot (b : Bool) : Slot512 := ⟨0, if b then 1 else 0, 0⟩

/-- The token source of an element (R70). -/
def CfgImage.tokenSource (i : CfgImage) (n : Nat) : Nat := ((i.routers.get 0 (64 + n)).extractLsb' 58 2).toNat

/-- The results of the members in order of alignment: the word of each and the lo word of a pair. -/
def Tile.groupResults (x : Tile) (i : CfgImage) : List Nat → KMap Vec → List (Nat × Vec × Vec)
  | [], _ => []
  | n :: t, res =>
    let r := (x.opCtx i res n).results
    (n, r.1, r.2) :: x.groupResults i t (res.put n r.1)

/-- What a data firing of a member sends, by edge: its result, its token, and its carry words (R22, R26, R68). -/
def CfgImage.sends (i : CfgImage) (r : Nat × Vec × Vec) : List (Nat × Slot512) :=
  (i.outs r.1 0).map (fun e => (e.1, ⟨0, r.2.1, 0⟩))
    ++ (match tokenOf (i.tokenSource r.1) (resultType (i.elem r.1)) r.2.1 with
      | some b => (i.outs r.1 2).map (fun e => (e.1, tokenSlot b))
      | none => [])
def CfgImage.carrySends (i : CfgImage) (r : Nat × Vec × Vec) : List (Nat × Slot512) :=
  match i.carriesOut r.1 with
  | [c] => [(c, ⟨0, r.2.1, 0⟩)]
  | [c, d] => [(c, ⟨0, r.2.1, 0⟩), (d, ⟨0, r.2.2, 0⟩)]
  | _ => []

/-- A result enters the pipeline registers: it issues into S1 after the cycles of the stage alignment, takes the six stages
and one hop (R9, R14, R19, R26). -/
def Elem.stage (e : Elem) (w : BitVec 128) (results : List Slot512) (sends carries : List (Nat × Slot512)) : Elem :=
  { e with pipe := e.pipe ++ [⟨7 + cAlign w, sends, carries, results⟩] }

/-- An element has not fired in this cycle (R16, R19). -/
def Elem.mayFire (e : Elem) (w : BitVec 128) : Bool := e.pipe.all (fun p => p.left ≠ 7 + cAlign w)

/-- One member's part of a data firing: its registers advance, and what `emit` lets go enters its pipeline (R11, R22, R26,
R68). -/
def Tile.fireMember (x : Tile) (i : CfgImage) (r : Nat × Vec × Vec) : Tile :=
  let w := i.elem r.1
  let e := x.elemAt r.1
  let results : List Slot512 := ⟨0, r.2.1, 0⟩ :: (if isPair (cOp w) then [⟨0, r.2.2, 0⟩] else [])
  x.setElem r.1 ((e.advance w r.2.1).stage w results (if e.emits w then i.sends r else [])
    (if e.emits w then i.carrySends r else []))

/-- The heads of a group's inputs are consumed. -/
def Tile.consume (x : Tile) (i : CfgImage) (ms : List Nat) : Tile :=
  (i.boundary ms).foldl (fun x p => x.popEdge p.2.2.1) x

def Tile.consumeCarries (x : Tile) (i : CfgImage) (ms : List Nat) : Tile :=
  (ms.flatMap i.carriesIn).foldl Tile.popCarry x

/-- A free slot on every boundary output and carry edge a data firing may write (R15, R16). -/
def Tile.roomData (x : Tile) (i : CfgImage) (ms : List Nat) : Bool :=
  ms.all (fun n => x.roomAll (i.outs n 0) && x.roomAll (i.outs n 2) && (i.carriesOut n).all (x.carryRoom i))

/-- The members of a group have not fired in this cycle (R19). -/
def Tile.mayFire (x : Tile) (i : CfgImage) (ms : List Nat) : Bool := ms.all (fun n => (x.elemAt n).mayFire (i.elem n))

/-- A head that a group's firing reads disagrees with its parity bits (R37). -/
def Tile.headsBad (x : Tile) (i : CfgImage) (ms : List Nat) : Bool :=
  (i.boundary ms).any (fun p => match x.headOf p.2.2.1 with
    | some w => w.parityBad
    | none => false)

/-- A parity error meets what a group's data firing reads (R37). -/
def Tile.firingBad (x : Tile) (i : CfgImage) (ms : List Nat) : Bool :=
  x.headsBad i ms || x.configBad ms || ms.any (fun n => (x.elemAt n).lcBad.extractLsb' 0 2 ≠ 0 || (x.elemAt n).accBad ≠ 0)
    || (ms.flatMap i.carriesIn).any (fun c => match (x.fab.carry.get [] c).head? with
      | some w => w.parityBad
      | none => false)

/-- The group's data firing (R16, R19). -/
def Tile.fireData (x : Tile) (i : CfgImage) (ms : List Nat) : Tile :=
  let rs := x.groupResults i ms []
  rs.foldl (fun x r => x.fireMember i r) ((x.consume i ms).consumeCarries i ms)

/-- A data firing of element n, whose operation is `op`, with the rest of its group; a fault of the firing ends the task
(R84, R266). -/
def fireElement (op t n : Nat) (s : State) : State :=
  let x := s.tile t
  let i := x.image
  let w := i.elem n
  if !x.inTask || x.still || decide (cOp w ≠ op) then s else
  let ms := i.group (cGroup w)
  match x.ready i ms with
  | .fault c node => s.elementFault t c node 0
  | .data =>
    if !(x.mayFire i ms && x.roomData i ms) then s
    else if x.firingBad i ms then s.softError t
    else s.setTile t (x.fireData i ms).move
  | _ => s

/-- A data firing of an element whose operation is `pass` (R85). -/
def execElPass (t n : Nat) (s : State) : Result := .next (fireElement 0x01 t n s)

/-- A data firing of an element whose operation is `iadd` (R86). -/
def execIadd (t n : Nat) (s : State) : Result := .next (fireElement 0x10 t n s)

/-- A data firing of an element whose operation is `isub` (R86). -/
def execIsub (t n : Nat) (s : State) : Result := .next (fireElement 0x11 t n s)

/-- A data firing of an element whose operation is `iadds` (R86). -/
def execIadds (t n : Nat) (s : State) : Result := .next (fireElement 0x12 t n s)

/-- A data firing of an element whose operation is `isubs` (R86). -/
def execIsubs (t n : Nat) (s : State) : Result := .next (fireElement 0x13 t n s)

/-- A data firing of an element whose operation is `imul` (R86). -/
def execImul (t n : Nat) (s : State) : Result := .next (fireElement 0x14 t n s)

/-- A data firing of an element whose operation is `imulh` (R86). -/
def execImulh (t n : Nat) (s : State) : Result := .next (fireElement 0x15 t n s)

/-- A data firing of an element whose operation is `imac` (R86). -/
def execImac (t n : Nat) (s : State) : Result := .next (fireElement 0x16 t n s)

/-- A data firing of an element whose operation is `idot4` (R87). -/
def execIdot4 (t n : Nat) (s : State) : Result := .next (fireElement 0x17 t n s)

/-- A data firing of an element whose operation is `imin` (R86). -/
def execImin (t n : Nat) (s : State) : Result := .next (fireElement 0x18 t n s)

/-- A data firing of an element whose operation is `imax` (R86). -/
def execImax (t n : Nat) (s : State) : Result := .next (fireElement 0x19 t n s)

/-- A data firing of an element whose operation is `iabs` (R86). -/
def execIabs (t n : Nat) (s : State) : Result := .next (fireElement 0x1a t n s)

/-- A data firing of an element whose operation is `ineg` (R86). -/
def execIneg (t n : Nat) (s : State) : Result := .next (fireElement 0x1b t n s)

/-- A data firing of an element whose operation is `iclip` (R86). -/
def execIclip (t n : Nat) (s : State) : Result := .next (fireElement 0x1c t n s)

/-- A data firing of an element whose operation is `ishl` (R86). -/
def execIshl (t n : Nat) (s : State) : Result := .next (fireElement 0x1d t n s)

/-- A data firing of an element whose operation is `ishr` (R86). -/
def execIshr (t n : Nat) (s : State) : Result := .next (fireElement 0x1e t n s)

/-- A data firing of an element whose operation is `isra` (R86). -/
def execIsra (t n : Nat) (s : State) : Result := .next (fireElement 0x1f t n s)

/-- A data firing of an element whose operation is `iand` (R86). -/
def execIand (t n : Nat) (s : State) : Result := .next (fireElement 0x20 t n s)

/-- A data firing of an element whose operation is `ior` (R86). -/
def execIor (t n : Nat) (s : State) : Result := .next (fireElement 0x21 t n s)

/-- A data firing of an element whose operation is `ixor` (R86). -/
def execIxor (t n : Nat) (s : State) : Result := .next (fireElement 0x22 t n s)

/-- A data firing of an element whose operation is `inot` (R86). -/
def execInot (t n : Nat) (s : State) : Result := .next (fireElement 0x23 t n s)

/-- A data firing of an element whose operation is `icmp` (R88). -/
def execIcmp (t n : Nat) (s : State) : Result := .next (fireElement 0x24 t n s)

/-- A data firing of an element whose operation is `iscale` (R89). -/
def execIscale (t n : Nat) (s : State) : Result := .next (fireElement 0x25 t n s)

/-- A data firing of an element whose operation is `fadd` (R90). -/
def execFadd (t n : Nat) (s : State) : Result := .next (fireElement 0x40 t n s)

/-- A data firing of an element whose operation is `fsub` (R90). -/
def execFsub (t n : Nat) (s : State) : Result := .next (fireElement 0x41 t n s)

/-- A data firing of an element whose operation is `fmul` (R90). -/
def execFmul (t n : Nat) (s : State) : Result := .next (fireElement 0x42 t n s)

/-- A data firing of an element whose operation is `fma` (R90). -/
def execFma (t n : Nat) (s : State) : Result := .next (fireElement 0x43 t n s)

/-- A data firing of an element whose operation is `fnma` (R90). -/
def execFnma (t n : Nat) (s : State) : Result := .next (fireElement 0x44 t n s)

/-- A data firing of an element whose operation is `fmin` (R90). -/
def execFmin (t n : Nat) (s : State) : Result := .next (fireElement 0x45 t n s)

/-- A data firing of an element whose operation is `fmax` (R90). -/
def execFmax (t n : Nat) (s : State) : Result := .next (fireElement 0x46 t n s)

/-- A data firing of an element whose operation is `fabs` (R90). -/
def execFabs (t n : Nat) (s : State) : Result := .next (fireElement 0x47 t n s)

/-- A data firing of an element whose operation is `fneg` (R90). -/
def execFneg (t n : Nat) (s : State) : Result := .next (fireElement 0x48 t n s)

/-- A data firing of an element whose operation is `fcmp` (R88). -/
def execFcmp (t n : Nat) (s : State) : Result := .next (fireElement 0x49 t n s)

/-- A data firing of an element whose operation is `frcp` (R101). -/
def execFrcp (t n : Nat) (s : State) : Result := .next (fireElement 0x4a t n s)

/-- A data firing of an element whose operation is `frsq` (R102). -/
def execFrsq (t n : Nat) (s : State) : Result := .next (fireElement 0x4b t n s)

/-- A data firing of an element whose operation is `fexp2` (R103). -/
def execFexp2 (t n : Nat) (s : State) : Result := .next (fireElement 0x4c t n s)

/-- A data firing of an element whose operation is `flog2` (R104). -/
def execFlog2 (t n : Nat) (s : State) : Result := .next (fireElement 0x4d t n s)

/-- A data firing of an element whose operation is `ftanh` (R105). -/
def execFtanh (t n : Nat) (s : State) : Result := .next (fireElement 0x4e t n s)

/-- A data firing of an element whose operation is `fsig` (R105). -/
def execFsig (t n : Nat) (s : State) : Result := .next (fireElement 0x4f t n s)

/-- A data firing of an element whose operation is `fsilu` (R105). -/
def execFsilu (t n : Nat) (s : State) : Result := .next (fireElement 0x50 t n s)

/-- A data firing of an element whose operation is `fadd.c2` (R92). -/
def execFaddC2 (t n : Nat) (s : State) : Result := .next (fireElement 0x51 t n s)

/-- A data firing of an element whose operation is `fma.c2` (R92). -/
def execFmaC2 (t n : Nat) (s : State) : Result := .next (fireElement 0x52 t n s)

/-- A data firing of an element whose operation is `cvt` (R93). -/
def execCvt (t n : Nat) (s : State) : Result := .next (fireElement 0x60 t n s)

/-- A data firing of an element whose operation is `cvt.sc` (R93). -/
def execCvtSc (t n : Nat) (s : State) : Result := .next (fireElement 0x61 t n s)

/-- A data firing of an element whose operation is `qrnd` (R94). -/
def execQrnd (t n : Nat) (s : State) : Result := .next (fireElement 0x62 t n s)

/-- A data firing of an element whose operation is `sel` (R95). -/
def execElementSel (t n : Nat) (s : State) : Result := .next (fireElement 0x70 t n s)

/-- A data firing of an element whose operation is `lperm` (R95). -/
def execLperm (t n : Nat) (s : State) : Result := .next (fireElement 0x71 t n s)

/-- A data firing of an element whose operation is `lbcast` (R95). -/
def execLbcast (t n : Nat) (s : State) : Result := .next (fireElement 0x72 t n s)

/-- A data firing of an element whose operation is `lred` (R96). -/
def execLred (t n : Nat) (s : State) : Result := .next (fireElement 0x73 t n s)

/-- A data firing of an element whose operation is `lscan` (R96). -/
def execLscan (t n : Nat) (s : State) : Result := .next (fireElement 0x74 t n s)

/-- A data firing of an element whose operation is `racc` (R97). -/
def execRacc (t n : Nat) (s : State) : Result := .next (fireElement 0x80 t n s)

/-- A data firing of an element whose operation is `cnt` (R97). -/
def execElCnt (t n : Nat) (s : State) : Result := .next (fireElement 0x82 t n s)

/-- A data firing of an element whose operation is `cmask` (R98). -/
def execCmask (t n : Nat) (s : State) : Result := .next (fireElement 0x83 t n s)

/-- A data firing of an element whose operation is `tagck` (R99). -/
def execTagck (t n : Nat) (s : State) : Result := .next (fireElement 0x84 t n s)

/-- A data firing of an element whose operation is `tagset` (R99). -/
def execTagset (t n : Nat) (s : State) : Result := .next (fireElement 0x85 t n s)

/-! ### Header firings (R31, R32, R81, R99) -/

/-- The format class of an edge holds a type (R31, R72). -/
def classHas (c ty : Nat) : Bool :=
  match c with
  | 0 => ty = 1
  | 1 => ty = 2 || ty = 3
  | 2 => ty = 4 || ty = 5
  | 3 => ty = 7 || ty = 11
  | 4 => ty = 8 || ty = 12
  | 5 => ty = 9 || ty = 13
  | _ => ty = 0 || ty = 10 || ty = 14

/-- A header's format agrees with the configured type on an input, with the exceptions of R81. -/
def headerAgrees (w : BitVec 128) (j fmt : Nat) : Bool :=
  let ty := cType w
  let width := decide (typeBytes fmt = typeBytes ty)
  let op := cOp w
  if op = 0x60 ∨ op = 0x61 then true
  else if op = 0x17 ∧ j < 2 then fmt = 7 || fmt = 11
  else if (op = 0x70 ∨ op = 0x82 ∨ op = 0x84 ∨ op = 0x85) ∧ j = 0 then width
  else if op = 0x71 ∧ j = 1 then isInt fmt && width
  else if op = 0x83 then isInt fmt
  else width && decide (isFloat fmt = isFloat ty)

/-- The headers that reach member n: the input, the word, and the class of its edge where it has one. -/
def Tile.headersOf (x : Tile) (i : CfgImage) (sent : KMap Vec) (n : Nat) : List (Nat × Vec × Option Nat) :=
  (i.inputs n).filterMap (fun j => match i.feed n j with
    | .chan k e => some (j, ((x.headOf k).map (·.data)).getD 0, some (eClass e))
    | .fixed m => (KMap.get? sent m).map (fun h => (j, h, none))
    | _ => none)

/-- The expected tag E of a header firing (R99). -/
def expectedTag (w : BitVec 128) (h : BitVec 16) : BitVec 16 :=
  BitVec.ofNat 16 (cImm w % 65536 + h.toNat * (cImm w / 65536))

/-- The header a member sends (R32, R99). -/
def headerOut (w : BitVec 128) (e : Elem) (first : Vec) : Vec :=
  let ty := resultType w
  let tag := if cOp w = 0x85 then (expectedTag w e.tags).toNat else (hTag first).toNat
  headerWord ty (if isFloat ty then 0 else (hScale first).toNat) (gf first 492 8) tag (hAxpos first) (hAxis first)

/-- The fault of a member's header firing: the class first, then R81, then the tag (R31, R81, R99). -/
def headerFault (w : BitVec 128) (e : Elem) (hs : List (Nat × Vec × Option Nat)) : Option (BitVec 8 × Word) :=
  let bad (h : Nat × Vec × Option Nat) : Bool :=
    let f := (hFmt h.2.1).toNat
    (match h.2.2 with
      | some c => !classHas c f
      | none => false) || !headerAgrees w h.1 f
  if hs.any bad then some (0x15, 0)
  else match hs with
    | (_, first, _) :: _ =>
      let want := expectedTag w e.tags
      if cOp w = 0x84 && want != hTag first then
        some (0x18, BitVec.ofNat 64 (want.toNat * 65536 + (hTag first).toNat))
      else none
    | [] => none

/-- A member's registers after a header firing (R11, R32, R97, R99). -/
def Elem.header (e : Elem) (w : BitVec 128) (hs : List (Nat × Vec × Option Nat)) : Elem :=
  let dec (j : Nat) : Option Decode :=
    match hs.find? (fun h => h.1 = j) with
    | some h => some ⟨hFmt h.2.1, hScale h.2.1⟩
    | none => e.decode j
  let e := { e with decA := dec 0, decB := dec 1, decC := dec 2,
                    tags := if cOp w = 0x84 ∨ cOp w = 0x85 then e.tags + 1 else e.tags }
  if cHreset w then { e with lc0 := 0, lc1 := 0, acc := none, lcBad := 0, accBad := 0 } else e

/-- The members' parts of a header firing, in order: the tile after them, or the first fault. A member that no header
reaches takes no part. -/
def Tile.fireHeaders (x : Tile) (i : CfgImage) : List Nat → KMap Vec → Tile → Except (BitVec 8 × Nat × Word) Tile
  | [], _, y => .ok y
  | n :: t, sent, y =>
    let w := i.elem n
    let e := x.elemAt n
    match x.headersOf i sent n with
    | [] => x.fireHeaders i t sent y
    | h :: hs => match headerFault w e (h :: hs) with
      | some (c, v) => .error (c, n, v)
      | none =>
        let out := headerOut w e h.2.1
        x.fireHeaders i t (sent.put n out)
          (y.setElem n ((e.header w (h :: hs)).stage w [⟨1, out, 0⟩] ((i.outs n 0).map (fun e => (e.1, ⟨1, out, 0⟩))) []))

/-- A header count that a group's header firing reads disagrees with its parity bit (R37, R99). -/
def Tile.countBad (x : Tile) (i : CfgImage) (ms : List Nat) : Bool :=
  ms.any (fun n => (cOp (i.elem n) = 0x84 || cOp (i.elem n) = 0x85) && (x.elemAt n).lcBad.getLsbD 2)

/-- Element n fires on header words with the rest of its group (R32); a fault ends the task (R84, R266). -/
def execHeaderFiring (t n : Nat) (s : State) : Result :=
  let x := s.tile t
  let i := x.image
  let w := i.elem n
  if !x.inTask || x.still || decide (cOp w = 0) then .next s else
  let ms := i.group (cGroup w)
  match x.ready i ms with
  | .fault c node => .next (s.elementFault t c node 0)
  | .header =>
    if !(x.mayFire i ms && ms.all (fun m => x.roomAll (i.outs m 0))) then .next s
    else if x.headsBad i ms || x.configBad ms || x.countBad i ms then .next (s.softError t)
    else (match x.fireHeaders i ms [] (x.consume i ms) with
      | .error (c, node, v) => .next (s.elementFault t c node v)
      | .ok y => .next (s.setTile t y.move))
  | _ => .next s

/-! ### Router operators (R23, R24, R36, R71, R452) -/

/-- The operator code of a router node (R70). -/
def CfgImage.opCode (i : CfgImage) (n : Nat) : Nat :=
  if 64 ≤ n ∧ n < 192 then ((i.routers.get 0 n).extractLsb' 60 4).toNat else 0

/-- The edge into an input of a router operator, and its head. -/
def Tile.opEdge (x : Tile) (i : CfgImage) (n tin : Nat) : Option Nat := ((i.edgeInto n tin).map (·.1))
def Tile.opHead (x : Tile) (i : CfgImage) (n tin : Nat) : Option Slot512 := (x.opEdge i n tin).bind x.headOf
def Tile.opPop (x : Tile) (i : CfgImage) (n tin : Nat) : Tile := match x.opEdge i n tin with
  | some k => x.popEdge k
  | none => x
def Tile.opRoom (x : Tile) (i : CfgImage) (n out : Nat) : Bool := x.roomAll (i.outs n out)
def Tile.opSend (x : Tile) (i : CfgImage) (n out : Nat) (w : Slot512) : Tile := x.pushAll (i.outs n out) w
def Tile.opAt (x : Tile) (n : Nat) : RouterOp := x.fab.ops.get {} n
def Tile.setOp (x : Tile) (n : Nat) (o : RouterOp) : Tile := { x with fab := { x.fab with ops := x.fab.ops.set {} n o } }

/-- What an operator does: nothing yet, a step, or a format mismatch. -/
inductive OpStep where
  | wait
  | step (x : Tile)
  | mismatch
  deriving DecidableEq, Repr

def Slot512.isHeader (w : Slot512) : Bool := w.kind = 1
def Slot512.isBreak (w : Slot512) : Bool := w.kind = 2
/-- The value of a control token. -/
def Slot512.token (w : Slot512) : Bool := w.data.getLsbD 0

/-- A step where there is room. -/
def stepIf (b : Bool) (x : Tile) : OpStep := if b then .step x else .wait

/-- `steer` (R23, R24, R36). The outputs that must have free slots are those the step sends to: a step waits for the room of
the output its token selects, not of the other (log entry 50). -/
def steerStep (x : Tile) (i : CfgImage) (n : Nat) : OpStep :=
  match x.opHead i n 0, x.opHead i n 3 with
  | none, _ => .wait
  | some d, k =>
    if d.isHeader then
      stepIf (x.opRoom i n 0 && x.opRoom i n 1) (((x.opPop i n 0).opSend i n 0 d).opSend i n 1 d)
    else match k with
      | none => .wait
      | some k =>
        if d.isBreak != k.isBreak then .mismatch
        else if d.isBreak then .wait
        else
          let out := if k.token then 0 else 1
          stepIf (x.opRoom i n out) (((x.opPop i n 0).opPop i n 3).opSend i n out d)

/-- `gate` (R23, R24, R36). A token 0 sends nothing and needs no room (log entry 50). -/
def gateStep (x : Tile) (i : CfgImage) (n : Nat) : OpStep :=
  match x.opHead i n 0, x.opHead i n 3 with
  | none, _ => .wait
  | some d, k =>
    if d.isHeader then stepIf (x.opRoom i n 0) ((x.opPop i n 0).opSend i n 0 d)
    else match k with
      | none => .wait
      | some k =>
        if d.isBreak != k.isBreak then .mismatch
        else if d.isBreak then .wait
        else if k.token then stepIf (x.opRoom i n 0) (((x.opPop i n 0).opPop i n 3).opSend i n 0 d)
        else .step ((x.opPop i n 0).opPop i n 3)

/-- `merge` (R23, R24, R36). -/
def mergeStep (x : Tile) (i : CfgImage) (n : Nat) : OpStep :=
  let both : Bool := match x.opHead i n 0, x.opHead i n 1 with
    | some a, some b => a.isHeader && b.isHeader
    | _, _ => false
  if both then
    stepIf (x.opRoom i n 0) (((x.opPop i n 0).opPop i n 1).opSend i n 0 ((x.opHead i n 0).getD ⟨1, 0, 0⟩))
  else match x.opHead i n 3 with
    | none => .wait
    | some k =>
      if k.isBreak then .wait else
      let j := if k.token then 0 else 1
      match x.opHead i n j with
      | none => .wait
      | some d =>
        if d.isBreak then .mismatch
        else if d.isHeader then .wait
        else stepIf (x.opRoom i n 0) (((x.opPop i n 3).opPop i n j).opSend i n 0 d)

/-- A firebreak stands at an input. -/
def Tile.breakAt (x : Tile) (i : CfgImage) (n tin : Nat) : Bool := match x.opHead i n tin with
  | some w => w.isBreak
  | none => false

/-- A firebreak stands at L or K of a `carry` that loops, or that is idle with no firebreak at I to forward at once (R452). -/
def Tile.carryBad (x : Tile) (i : CfgImage) (n : Nat) : Bool :=
  (x.breakAt i n 1 || x.breakAt i n 3) && ((x.opAt n).looping || !x.breakAt i n 0)

/-- `carry` (R23, R24, R452). -/
def carryStep (x : Tile) (i : CfgImage) (n : Nat) : OpStep :=
  let o := x.opAt n
  if x.carryBad i n then .mismatch
  else match x.opHead i n 1 with
    | some l => if l.isHeader then .step (x.opPop i n 1) else rest x i n o
    | none => rest x i n o
where
  /-- The phases of R23, no header standing at L. -/
  rest (x : Tile) (i : CfgImage) (n : Nat) (o : RouterOp) : OpStep :=
    if !o.looping then
      match x.opHead i n 0 with
      | none => .wait
      | some d =>
        if d.isBreak then .wait
        else
          let y := (x.opPop i n 0).opSend i n 0 d
          stepIf (x.opRoom i n 0) (if d.isHeader then y else y.setOp n { o with looping := true })
    else match x.opHead i n 3 with
      | none => .wait
      | some k =>
        if !k.token then .step ((x.opPop i n 3).setOp n { o with looping := false })
        else match x.opHead i n 1 with
          | none => .wait
          | some l => stepIf (x.opRoom i n 0) (((x.opPop i n 3).opPop i n 1).opSend i n 0 l)

/-- `repeat` (R23, R24, R36): a held word counts as the head of D. -/
def repeatStep (x : Tile) (i : CfgImage) (n : Nat) : OpStep :=
  let o := x.opAt n
  let header : Bool := match x.opHead i n 0 with
    | some d => d.isHeader
    | none => false
  if header then
    stepIf (x.opRoom i n 0)
      (((x.opPop i n 0).opSend i n 0 ((x.opHead i n 0).getD ⟨1, 0, 0⟩)).setOp n { o with held := none })
  else match x.opHead i n 3 with
    | none => .wait
    | some k =>
      let release (y : Tile) (w : Slot512) : Tile := y.setOp n { o with held := if k.token then some w else none }
      match o.held with
      | some w =>
        if k.isBreak then .mismatch
        else stepIf (x.opRoom i n 0) (release ((x.opPop i n 3).opSend i n 0 w) w)
      | none => match x.opHead i n 0 with
        | none => .wait
        | some d =>
          if d.isBreak != k.isBreak then .mismatch
          else if d.isBreak then .wait
          else stepIf (x.opRoom i n 0) (release (((x.opPop i n 3).opPop i n 0).opSend i n 0 d) d)

/-- The one input of a `sink`, on 0 or 3 (R71). -/
def sinkInput (x : Tile) (i : CfgImage) (n : Nat) : Nat := if (x.opEdge i n 0).isSome then 0 else 3

/-- `sink` discards a head of any kind; a firebreak freezes it (R23, R34, R36). -/
def sinkStep (x : Tile) (i : CfgImage) (n : Nat) : OpStep :=
  match x.opHead i n (sinkInput x i n) with
  | none => .wait
  | some w =>
    let y := x.opPop i n (sinkInput x i n)
    .step (if w.isBreak then y.setOp n { x.opAt n with frozen := true } else y)

/-- A parity error meets what an operator reads: a head, its held word or its router word (R37). -/
def Tile.operBad (x : Tile) (i : CfgImage) (n : Nat) : Bool :=
  x.configBad [n] || [0, 1, 3].any (fun j => match x.opHead i n j with
      | some w => w.parityBad
      | none => false) || (match (x.opAt n).held with
      | some w => w.parityBad
      | none => false)

/-- A router operator of a code acts (R23); a mismatch ends the task (R36, R266). -/
def operate (code : Nat) (step : Tile → CfgImage → Nat → OpStep) (t n : Nat) (s : State) : Result :=
  let x := s.tile t
  let i := x.image
  if !x.inTask || x.still || decide (i.opCode n ≠ code) || (x.opAt n).frozen then .next s else
  match step x i n with
  | .wait => .next s
  | .step y => .next (if x.operBad i n then s.softError t else s.setTile t y.move)
  | .mismatch => .next (s.elementFault t 0x15 n 0)

/-- `steer` acts at router node n (R23). -/
def execOpSteer (t n : Nat) (s : State) : Result := operate 1 steerStep t n s
/-- `merge` acts (R23). -/
def execOpMerge (t n : Nat) (s : State) : Result := operate 2 mergeStep t n s
/-- `carry` acts (R23). -/
def execOpCarry (t n : Nat) (s : State) : Result := operate 3 carryStep t n s
/-- `repeat` acts (R23). -/
def execOpRepeat (t n : Nat) (s : State) : Result := operate 4 repeatStep t n s
/-- `sink` acts (R23). -/
def execOpSink (t n : Nat) (s : State) : Result := operate 5 sinkStep t n s
/-- `gate` acts (R23). -/
def execOpGate (t n : Nat) (s : State) : Result := operate 6 gateStep t n s

/-! ### The firebreak (R33 to R36, R451, R452) -/

def breakSlot : Slot512 := ⟨2, 0, 0⟩

/-- No result of a group is in its pipeline stages: a firebreak leaves after all of them (R34, R451). -/
def Tile.pipesEmpty (x : Tile) (ms : List Nat) : Bool := ms.all (fun n => (x.elemAt n).pipe.isEmpty)

/-- The firebreaks of a group are consumed, one goes on each non-carry output, and every member freezes. -/
def Tile.breakGroup (x : Tile) (i : CfgImage) (ms : List Nat) : Tile :=
  ms.foldl (fun x n => (((x.pushAll (i.outs n 0) breakSlot).pushAll (i.outs n 2) breakSlot).setElem n
    { x.elemAt n with frozen := true })) (x.consume i ms)

/-- The inputs at which an operator awaits firebreaks, and its outputs, by its code (R36, R452). -/
def breakInputs (code : Nat) : List Nat := match code with
  | 2 => [0, 1, 3]
  | 3 => [0]
  | _ => [0, 3]
def breakOutputs (code : Nat) : List Nat := match code with
  | 1 => [0, 1]
  | _ => [0]

/-- A token that a frozen `carry` takes at L or K: a firebreak that has come round its loop, or a header at L (R24, R452). -/
def Tile.lateAt (x : Tile) (i : CfgImage) (n tin : Nat) : Bool := match x.opHead i n tin with
  | some w => w.isBreak || (tin = 1 && w.isHeader)
  | none => false

/-- An operator forwards its firebreaks and freezes; a frozen `carry` consumes what comes round its loop (R24, R452). -/
def Tile.breakOp (x : Tile) (i : CfgImage) (n : Nat) : OpStep :=
  let o := x.opAt n
  let code := i.opCode n
  if o.frozen then
    (if decide (code = 3) && x.lateAt i n 1 then .step (x.opPop i n 1)
      else if decide (code = 3) && x.lateAt i n 3 then .step (x.opPop i n 3) else .wait)
  else if code = 5 then sinkStep x i n
  else if code = 3 ∧ x.carryBad i n then .mismatch
  else if o.held.isSome || o.looping || !(breakInputs code).all (x.breakAt i n) then .wait
  else if !(breakOutputs code).all (x.opRoom i n) then .wait
  else
    let y := (breakInputs code).foldl (fun x j => x.opPop i n j) x
    .step (((breakOutputs code).foldl (fun x k => x.opSend i n k breakSlot) y).setOp n { o with frozen := true })

/-- Node n of the array forwards firebreaks: an element with its group, or a router operator (R34, R36, R451, R452). -/
def execFirebreakForward (t n : Nat) (s : State) : Result :=
  let x := s.tile t
  let i := x.image
  if !x.inTask || x.still then .next s
  else if n < 64 then
    let w := i.elem n
    if cOp w = 0 then .next s else
    let ms := i.group (cGroup w)
    match x.ready i ms with
    | .fault c node => .next (s.elementFault t c node 0)
    | .firebreak =>
      if !(x.pipesEmpty ms && ms.all (fun m => x.roomAll (i.outs m 0) && x.roomAll (i.outs m 2))) then .next s
      else if x.headsBad i ms || x.configBad ms then .next (s.softError t)
      else .next (s.setTile t (x.breakGroup i ms).move)
    | _ => .next s
  else if i.opCode n = 0 then .next s
  else match x.breakOp i n with
    | .wait => .next s
    | .step y => .next (if x.operBad i n then s.softError t else s.setTile t y.move)
    | .mismatch => .next (s.elementFault t 0x15 n 0)

/-! ### The pipeline registers at the end of a cycle (R9, R10, R15) -/

/-- The results in an element's stages come one cycle nearer; the oldest enters its slots when its time has passed. -/
def Tile.flowElem (x : Tile) (n : Nat) : Tile :=
  let e := x.elemAt n
  let nearer (ps : List Staged) : List Staged := ps.map (fun p => { p with left := p.left - 1 })
  match e.pipe with
  | [] => x
  | p :: rest =>
    if p.left ≤ 1 then
      let x := x.setElem n { e with pipe := nearer rest }
      p.carries.foldl (fun x w => x.pushCarry w.1 w.2) (p.sends.foldl (fun x w => x.pushEdge w.1 w.2) x)
    else x.setElem n { e with pipe := nearer (p :: rest) }

/-- The results in the stages of a tile's elements come one cycle nearer, but not while its clock is stopped (R10, R370). -/
def Tile.flow (x : Tile) : Tile := if x.still then x else x.fab.elems.foldl (fun x e => x.flowElem e.1) x

/-- A result that leaves the last stage in this cycle disagrees with its parity bits (R37). -/
def Tile.flowBad (x : Tile) : Bool :=
  !x.still && x.fab.elems.any (fun e => match e.2.pipe with
    | [] => false
    | p :: _ => decide (p.left ≤ 1) && p.words.any Slot512.parityBad)

end Sys2Proof.Machine
end

