-- ==== Sys2Proof/Machine/CfgLoad.lean ====
section
/-!
DEFINITION. Configuration images (R64 to R77), the fifteen load checks and their report (R78, R79), and the completion
of a configuration load (R191).
-/
namespace Sys2Proof.Machine

/-! ### The words of an image (R75); an image is the number its bytes hold -/

def imgField (im off n : Nat) : Nat := im / 2 ^ (8 * off) % 2 ^ (8 * n)
def imgEdges (im : Nat) : Nat := imgField im 6 2
def imgLength (im : Nat) : Nat := imgField im 32 4

/-- The offset of the word of an element or of a router operator (R64, R75). -/
def wordAt (node : Nat) : Nat :=
  if node < 64 then 64 + 16 * node else if node < 128 then 1088 + 16 * (node - 64) else 1088 + 16 * (node - 128) + 8
def edgeAt (k : Nat) : Nat := 2112 + 8 * k
def carryAt (im k : Nat) : Nat := 2112 + 8 * imgEdges im + 8 * k

def imgElem (im n : Nat) : BitVec 128 := BitVec.ofNat 128 (imgField im (wordAt n) 16)
def imgRouter (im n : Nat) : BitVec 64 := BitVec.ofNat 64 (imgField im (wordAt n) 8)
def imgEdge (im k : Nat) : BitVec 64 := BitVec.ofNat 64 (imgField im (edgeAt k) 8)
def imgCarry (im k : Nat) : BitVec 64 := BitVec.ofNat 64 (imgField im (carryAt im k) 8)

def carryDecl (c : BitVec 64) : Bool := c.getLsbD 63
def carryPair (c : BitVec 64) : Bool := c.getLsbD 62
def carryLen (c : BitVec 64) : Nat := (c.extractLsb' 58 4).toNat + 1
def carryPre (c : BitVec 64) : Nat := (c.extractLsb' 53 5).toNat

def elemNodes : List Nat := List.range 64
def operNodes : List Nat := (List.range 128).map (· + 64)
def carryNums : List Nat := List.range 16

/-- The preload words of all carry edges before edge k (R75); an undeclared entry's count is included, and check 9 refuses it
(log entry 18). -/
def preBefore (im k : Nat) : Nat := ((List.range k).map (fun j => carryPre (imgCarry im j))).foldl (· + ·) 0

/-- The image as installed: non-idle elements, nonzero router words, edges, carry edges and preloads. -/
def installed (im : Nat) : CfgImage :=
  { elems := (elemNodes.map (fun n => (n, imgElem im n))).filter (fun e => decide (cOp e.2 ≠ 0))
    routers := (operNodes.map (fun n => (n, imgRouter im n))).filter (fun e => decide (e.2 ≠ 0))
    edges := (List.range (imgEdges im)).map (imgEdge im)
    carries := (carryNums.map (fun k => (k, imgCarry im k))).filter (fun e => carryDecl e.2)
    preload := (carryNums.map (fun k => (k, (List.range (carryPre (imgCarry im k))).map (fun j =>
      BitVec.ofNat 512 (imgField im (carryAt im 16 + 64 * (preBefore im k + j)) 64))))).filter (fun e => !e.2.isEmpty)
    saveMask := BitVec.ofNat 128 (imgField im 16 16) }

/-! ### Failures (R79) -/

/-- A failure of a check: the offset of the first word involved, the node and the edge. -/
structure Refused where
  offset : Nat
  node : Nat := 0xff
  edge : Nat := 0x1ff
  deriving DecidableEq, Repr

/-- The failure at the lowest offset. -/
def lowest : List Refused → Option Refused
  | [] => none
  | f :: t => match lowest t with
    | none => some f
    | some g => some (if g.offset < f.offset then g else f)

/-- The report of R79. -/
def loadReport (check : Nat) (f : Refused) : Word :=
  BitVec.ofNat 64 (check * 2 ^ 56 + f.node * 2 ^ 48 + f.edge * 2 ^ 39 + f.offset)

/-- A failure at the word of an element or operator. -/
def atNode (n : Nat) : Refused := ⟨wordAt n, n, 0x1ff⟩
def failIf (b : Bool) (f : Refused) : List Refused := if b then [f] else []

/-! ### The checks of R78 -/

/-- Check 1 after the header: the total length. -/
def totalLength (im : Nat) : Nat := 2240 + 8 * imgEdges im + 64 * preBefore im 16

/-- Check 3: reserved fields, and E. An edge entry's reserved bits name the edge and no node, and the reserved bytes are one
word at their first offset (log entry 18). -/
def check3 (im : Nat) : List Refused :=
  failIf (decide (512 < imgEdges im)) ⟨6, 0xff, 0x1ff⟩ ++ failIf (decide (imgField im 36 28 ≠ 0)) ⟨36, 0xff, 0x1ff⟩
    ++ elemNodes.flatMap (fun n => failIf (decide (cf (imgElem im n) 32 8 ≠ 0)) (atNode n))
    ++ operNodes.flatMap (fun n => failIf (decide ((imgRouter im n).extractLsb' 0 58 ≠ 0)) (atNode n))
    ++ (List.range (imgEdges im)).flatMap (fun k =>
      failIf (decide ((imgEdge im k).extractLsb' 0 31 ≠ 0)) ⟨edgeAt k, 0xff, k⟩)
    ++ carryNums.flatMap (fun k => failIf (decide ((imgCarry im k).extractLsb' 0 53 ≠ 0)) ⟨carryAt im k, 0xff, 0x1ff⟩)

/-- The types and modifiers an operation accepts (R85, R91, R94). The part index of `cvt` is check 8's. -/
def accepts (w : BitVec 128) : Bool :=
  let op := cOp w
  let ty := cType w
  let mod := cMod w
  let f := decide (ty ≤ 5)
  let i := decide (7 ≤ ty) && decide (ty ≤ 14)
  if op = 0 then ty = 0 && mod = 0
  else if op = 0x17 then ty = 9 && mod = 0
  else if op = 0x24 then i && mod ≤ 7
  else if op = 0x25 then i
  else if 0x10 ≤ op ∧ op ≤ 0x23 then i && mod = 0
  else if op = 0x49 then f && mod ≤ 9
  else if 0x40 ≤ op ∧ op ≤ 0x48 then f && mod = 0
  else if 0x4a ≤ op ∧ op ≤ 0x50 then decide (1 ≤ ty) && decide (ty ≤ 3) && mod = 0
  else if op = 0x51 ∨ op = 0x52 then
    let even (c : Nat) : Bool := decide (20 ≤ c) && decide (c ≤ 34) && c % 2 = 0
    ty = 1 && mod = 0 && cf w 112 4 = 0 && even (cSrc w 0) && even (cDst w)
  else if op = 0x60 ∨ op = 0x61 then f || i
  else if op = 0x62 then decide (ty ≤ 1) && decide (mod ≤ 5) && decide (typeBytes mod < typeBytes ty)
  else if op = 0x71 then (f || i) && mod ≤ 3
  else if op = 0x73 ∨ op = 0x74 ∨ op = 0x80 then (f && mod ≤ 2) || (i && mod ≤ 5)
  else if op = 0x82 ∨ op = 0x83 then i && mod = 0
  else if op = 0x01 ∨ op = 0x70 ∨ op = 0x72 ∨ op = 0x84 ∨ op = 0x85 then (f || i) && mod = 0
  else false

/-- Check 4: an element's word outside R65, R67, R69 and R85; an idle word too, whose other fields are check 5's. -/
def check4 (im : Nat) : List Refused :=
  elemNodes.flatMap (fun n =>
    let w := imgElem im n
    let used := usedInputs (cOp w) (cMod w)
    let src := (List.range 3).all (fun j => if used.contains j then decide (cSrc w j < 40) else cSrc w j = 39)
    failIf (!accepts w || (cEmit w = 2 && !cChain w) || decide (37 ≤ cDst w) || !src) (atNode n))

/-- An idle element's word (R67). -/
def idleWord : BitVec 128 := BitVec.ofNat 128 (39 * 2 ^ 102 + 39 * 2 ^ 96 + 39 * 2 ^ 90)

/-- Check 5: idle words and the element mask. -/
def check5 (im : Nat) : List Refused :=
  elemNodes.flatMap (fun n =>
    let w := imgElem im n
    let busy := decide (cOp w ≠ 0)
    failIf (Nat.testBit (imgField im 8 8) n != busy) ⟨8, n, 0x1ff⟩ ++ failIf (!busy && w != idleWord) (atNode n))

def operCode (im n : Nat) : Nat := ((imgRouter im n).extractLsb' 60 4).toNat
def tokenCode (im n : Nat) : Nat := ((imgRouter im n).extractLsb' 58 2).toNat

/-- Check 6: router words. -/
def check6 (im : Nat) : List Refused :=
  operNodes.flatMap (fun n =>
    failIf (decide (6 < operCode im n) || (decide (128 ≤ n) && decide (tokenCode im n ≠ 0))) (atNode n))

/-- The input and output ports of an operator in the edge table (R71). -/
def operIns (code : Nat) : List Nat := match code with
  | 2 | 3 => [0, 1, 3]
  | _ => [0, 3]
def operOuts (code : Nat) : List Nat := match code with
  | 1 => [0, 1]
  | 5 => []
  | _ => [0]

/-- The edges of an image by a condition, with their index. -/
def imgEdgesBy (im : Nat) (p : BitVec 64 → Bool) : List (Nat × BitVec 64) :=
  ((List.range (imgEdges im)).map (fun k => (k, imgEdge im k))).filter (fun e => p e.2)

/-- A node exists: a non-idle element, a present operator, or a port (R64). -/
def nodeOk (im n : Nat) : Bool :=
  if n < 64 then decide (cOp (imgElem im n) ≠ 0) else if n < 192 then decide (operCode im n ≠ 0) else decide (n < 224)

/-- The hops between two elements (R74). -/
def hops (a b : Nat) : Nat := (max (a / 8) (b / 8) - min (a / 8) (b / 8)) + (max (a % 8) (b % 8) - min (a % 8) (b % 8))

/-- An entry satisfies R72, R73 and R71. A routed edge between two members of one group breaks none of them, and the group
takes it as a boundary input (R18; log entry 18). -/
def edgeOk (im : Nat) (e : BitVec 64) : Bool :=
  let fr := eFrom e
  let tgt := eTo e
  let mind := (e.extractLsb' 34 4).toNat + 1
  nodeOk im fr && nodeOk im tgt && decide (eKind e ≠ 3) && decide (eFout e ≠ 3) && decide (eClass e ≠ 7)
    && decide (mind ≤ eDepth e) && decide (fr < 208) && (decide (tgt < 192) || decide (208 ≤ tgt))
    && match eKind e with
      | 2 => decide (fr < 64) && decide (tgt < 64) && eFout e = 0 && decide (eTin e < 3)
          && decide (cGroup (imgElem im fr) = cGroup (imgElem im tgt)) && decide (hops fr tgt = 1)
          && eDepth e = 1 && mind = 1 && eClass e = 0
      | 1 => decide (fr < 64) && eFout e = 2 && decide (tokenCode im (64 + fr) ≠ 0) && eTin e = 3 && eClass e = 0
          && decide (64 ≤ tgt) && decide (tgt < 192) && (operIns (operCode im tgt)).contains 3
      | _ => decide (eTin e ≠ 3) && (if 64 ≤ fr ∧ fr < 192 then (operOuts (operCode im fr)).contains (eFout e) else eFout e = 0)
          && (if tgt < 64 then true else if tgt < 192 then (operIns (operCode im tgt)).contains (eTin e) else eTin e = 0)

/-- The entries into an input of a node, and those out of an output. -/
def into (im n tin : Nat) : List (Nat × BitVec 64) := imgEdgesBy im (fun e => decide (eTo e = n) && decide (eTin e = tin))
def outOf (im n fout : Nat) : List (Nat × BitVec 64) := imgEdgesBy im (fun e => decide (eFrom e = n) && decide (eFout e = fout))

/-- Every port that R71 marks for an operator has exactly one edge; an entry at another port is itself refused. -/
def operPortsOk (im n : Nat) : Bool :=
  let code := operCode im n
  if code = 0 then true
  else if code = 5 then (into im n 0).length + (into im n 3).length = 1
  else (operIns code).all (fun j => decide ((into im n j).length = 1))
    && (operOuts code).all (fun j => decide ((outOf im n j).length = 1))

/-- Check 7: entries, and inputs without exactly one entry. Two entries into one input, or out of one output of an operator, are reported
at the node, at its own word and with edge 0x1FF, as a missing one is: the spec does not say which (DESIGN CHOICE, log entry 18). -/
def check7 (im : Nat) : List Refused :=
  (List.range (imgEdges im)).flatMap (fun k => failIf (!edgeOk im (imgEdge im k)) ⟨edgeAt k, eTo (imgEdge im k), k⟩)
    ++ elemNodes.flatMap (fun n =>
      let w := imgElem im n
      (usedInputs (cOp w) (cMod w)).flatMap (fun j =>
        failIf (decide (cSrc w j ≤ 19) && decide ((into im n j).length ≠ 1)) (atNode n)))
    ++ operNodes.flatMap (fun n => failIf (!operPortsOk im n) (atNode n))

/-- The elements that read, and that write, a carry edge; a pair names both its edges (R91). -/
def carryReaders (im c : Nat) : List Nat :=
  elemNodes.filter (fun n =>
    let w := imgElem im n
    (usedInputs (cOp w) (cMod w)).any (fun j =>
      let s := cSrc w j
      decide (s = 20 + c) || (isPair (cOp w) && j = 0 && decide (s = 19 + c) && decide (20 ≤ s) && decide (c % 2 = 1))))
def carryWriters (im c : Nat) : List Nat :=
  elemNodes.filter (fun n =>
    let w := imgElem im n
    decide (cOp w ≠ 0) && (decide (cDst w = 20 + c)
      || (isPair (cOp w) && decide (cDst w = 19 + c) && decide (c % 2 = 1))))

/-- How often an element reads a carry edge. -/
def readsOf (im c n : Nat) : Nat :=
  let w := imgElem im n
  ((usedInputs (cOp w) (cMod w)).filter (fun j => decide (cSrc w j = 20 + c))).length

/-- The width in bytes of the input `a` of a conversion (R81). -/
def widthOfA (im n : Nat) : Nat :=
  let w := imgElem im n
  match if cSrc w 0 ≤ 19 then (into im n 0).head? else none with
  | some (_, e) =>
    if eKind e = 2 then typeBytes (resultType (imgElem im (eFrom e)))
    else (match eClass e with
      | 0 | 5 => 4
      | 1 | 4 => 2
      | 2 | 3 => 1
      | _ => 8)
  | none => typeBytes (cType w)

/-- The part index of a conversion is one R93 allows. -/
def partOk (im n : Nat) : Bool :=
  let w := imgElem im n
  let a := widthOfA im n
  let b := typeBytes (cType w)
  if cOp w = 0x60 ∨ cOp w = 0x61 then decide (cMod w < max a b / min a b) else true

/-- A source agrees with the edge table (R68). -/
def sourceOk (im n j : Nat) : Bool :=
  let w := imgElem im n
  let es := into im n j
  if (usedInputs (cOp w) (cMod w)).contains j && decide (cSrc w j ≤ 19) then
    match es.head? with
    | some (_, e) => if cSrc w j ≤ 3 then decide (eFrom e < 192) else decide (eFrom e = 188 + cSrc w j)
    | none => false
  else es.isEmpty

/-- A destination agrees with the edge table (R68). -/
def destinationOk (im n : Nat) : Bool :=
  let d := cDst (imgElem im n)
  let es := outOf im n 0
  if d ≤ 3 then !es.isEmpty
  else if d ≤ 19 then decide ((es.filter (fun e => decide (eTo e.2 = 204 + d))).length = 1)
  else if d ≤ 35 then true
  else es.isEmpty

/-- The failure of a node that shares a port: its word, or the entry where it has none. -/
def atUser (k : Nat) (e : BitVec 64) (node : Nat) : Refused := if node < 192 then atNode node else ⟨edgeAt k, eTo e, k⟩

/-- Check 8: sources, destinations, ports, carries and conversion parts. -/
def check8 (im : Nat) : List Refused :=
  elemNodes.flatMap (fun n =>
    let w := imgElem im n
    failIf (decide (cOp w ≠ 0) && !((List.range 3).all (sourceOk im n) && destinationOk im n && partOk im n)) (atNode n))
  ++ carryNums.flatMap (fun k =>
    let rs := imgEdgesBy im (fun e => decide (eFrom e = 192 + k))
    let ws := imgEdgesBy im (fun e => decide (eTo e = 208 + k))
    (if 1 < rs.length then rs.map (fun e => atUser e.1 e.2 (eTo e.2)) else [])
      ++ (if 1 < ws.length then ws.map (fun e => atUser e.1 e.2 (eFrom e.2)) else []))
  ++ carryNums.flatMap (fun c =>
    let rs := carryReaders im c
    let ws := carryWriters im c
    let twice := rs.any (fun n => decide (1 < readsOf im c n))
    if (rs.isEmpty && ws.isEmpty) || (decide (rs.length = 1) && decide (ws.length = 1) && !twice) then []
    else (rs ++ ws).map atNode)

/-- Carry edge c belongs to a declared pair (R28, R77). -/
def inPair (im c : Nat) : Bool :=
  let lo := imgCarry im (c / 2 * 2)
  carryDecl lo && carryPair lo

/-- A carry table entry satisfies R77. -/
def carryOk (im k : Nat) : Bool :=
  let c := imgCarry im k
  (carryDecl c || c == 0) && decide (carryPre c ≤ carryLen c) && !(carryPair c && k % 2 == 1)
    && (!(carryDecl c && carryPair c) || (carryDecl (imgCarry im (k + 1))
      && carryLen (imgCarry im (k + 1)) == carryLen c && carryPre (imgCarry im (k + 1)) == carryPre c))

/-- Check 9: the carry table and its use. -/
def check9 (im : Nat) : List Refused :=
  carryNums.flatMap (fun k =>
    let c := imgCarry im k
    let users := carryReaders im k ++ carryWriters im k
    failIf (!carryOk im k) ⟨carryAt im k, 0xff, 0x1ff⟩
      ++ (if !carryDecl c then users.map atNode else failIf users.isEmpty ⟨carryAt im k, 0xff, 0x1ff⟩)
      ++ ((carryReaders im k).filter (fun n =>
          carryDecl c && decide (carryPre c = carryLen c) && (carryWriters im k).contains n)).map atNode)
  ++ elemNodes.flatMap (fun n =>
    let w := imgElem im n
    let pair := isPair (cOp w)
    let ordinary := ((usedInputs (cOp w) (cMod w)).filter (fun j => !(pair && j == 0))).map (cSrc w)
      ++ (if pair || cOp w == 0 then [] else [cDst w])
    let used := ordinary.any (fun s => decide (20 ≤ s) && decide (s ≤ 35) && inPair im (s - 20))
    failIf (used || (pair && !(inPair im (cSrc w 0 - 20) && inPair im (cDst w - 20)))) (atNode n))

/-- Check 10: an element without a channel input, all always-present or all carry edges. -/
def check10 (im : Nat) : List Refused :=
  elemNodes.flatMap (fun n =>
    let w := imgElem im n
    let ss := (usedInputs (cOp w) (cMod w)).map (cSrc w)
    failIf (decide (cOp w ≠ 0) && (ss.all (fun s => decide (36 ≤ s))
      || ss.all (fun s => decide (20 ≤ s) && decide (s ≤ 35)))) (atNode n))

/-- The nodes reached from a list along pairs, by as many rounds as there are nodes. -/
def reached (es : List (Nat × Nat)) : Nat → List Nat → List Nat
  | 0, seen => seen
  | n + 1, seen =>
    let more := (es.filter (fun e => seen.contains e.1 && !seen.contains e.2)).map (·.2)
    if more.isEmpty then seen else reached es n (seen ++ more.eraseDups)

/-- Check 11: groups connected by fixed edges, and none leaving a member whose `emit` is not every. Of a group that is not connected it
reports the lowest member that the group's lowest one does not reach, at that member's own word: R79 names no node or offset for it
(DESIGN CHOICE, log entry 18). -/
def check11 (im : Nat) : List Refused :=
  let fx := imgEdgesBy im (fun e => decide (eKind e = 2))
  let es := fx.flatMap (fun e => [(eFrom e.2, eTo e.2), (eTo e.2, eFrom e.2)])
  (List.range 16).flatMap (fun g =>
    let ms := elemNodes.filter (fun n => decide (cOp (imgElem im n) ≠ 0) && decide (cGroup (imgElem im n) = g))
    match ms with
    | [] => []
    | m :: _ => (ms.filter (fun n => !(reached es 64 [m]).contains n)).map atNode)
  ++ fx.flatMap (fun e => failIf (decide (cEmit (imgElem im (eFrom e.2)) ≠ 0)) ⟨wordAt (eFrom e.2), eFrom e.2, e.1⟩)

/-- Check 12: the alignment equation of R20, reported at the consuming element (log entry 18). -/
def check12 (im : Nat) : List Refused :=
  (imgEdgesBy im (fun e => decide (eKind e = 2))).flatMap (fun e =>
    failIf (decide (cAlign (imgElem im (eTo e.2)) ≠ cAlign (imgElem im (eFrom e.2)) + 7)) (atNode (eTo e.2)))

/-- The slots that the edges of a kind into a router need (R74). -/
def routerSlots (im kind n : Nat) : Nat :=
  ((imgEdgesBy im (fun e => decide (eKind e = kind) && decide (eTo e < 192) && decide (eTo e % 64 = n))).map
    (fun e => eDepth e.2)).foldl (· + ·) 0

/-- Check 13: 48 data and 32 control slots in a router, reported at its element with the offset of its word 1 (log entry
18). -/
def check13 (im : Nat) : List Refused :=
  elemNodes.flatMap (fun n =>
    failIf (decide (48 < routerSlots im 0 n) || decide (32 < routerSlots im 1 n)) ⟨wordAt (64 + n), n, 0x1ff⟩)

/-- Check 14: cycles by R27, reported by R79. -/
def check14 (im : Nat) : Option Refused :=
  let es := (imgEdgesBy im (fun _ => true)).map (fun e => (eFrom e.2, eTo e.2))
  match (imgEdgesBy im (fun _ => true)).find? (fun e =>
      (reached (es.take e.1) 192 [eTo e.2]).contains (eFrom e.2)) with
  | some (k, e) => some ⟨edgeAt k, eTo e, k⟩
  | none =>
    let empty := carryNums.filter (fun c => carryDecl (imgCarry im c) && decide (carryPre (imgCarry im c) = 0))
    let hop (c : Nat) : List (Nat × Nat) :=
      (carryWriters im c).flatMap (fun a => (carryReaders im c).map (fun b => (a, b)))
    (empty.find? (fun c =>
      let below := (empty.filter (fun d => decide (d < c))).flatMap hop
      (hop c).any (fun p => (reached (es ++ below) 192 [p.2]).contains p.1))).map (fun c =>
        ⟨carryAt im c, ((carryReaders im c).head?).getD 0xff, 0x1ff⟩)

/-- The save mask R76 gives an image. -/
def saveMaskOf (im : Nat) : Nat :=
  let routed (n : Nat) : Bool := decide (cOp (imgElem im n) ≠ 0) || decide (operCode im (64 + n) ≠ 0)
    || decide (operCode im (128 + n) ≠ 0) || !(imgEdgesBy im (fun e => decide (eTo e < 192) && decide (eTo e % 64 = n))).isEmpty
  let bit (b : Bool) (k : Nat) : Nat := if b then 2 ^ k else 0
  (elemNodes.map (fun n => bit (routed n) n)).foldl (· + ·) 0
    + (carryNums.map (fun k => bit (carryDecl (imgCarry im k)) (64 + k)
      + bit (!(imgEdgesBy im (fun e => decide (eTo e = 208 + k))).isEmpty) (80 + k))).foldl (· + ·) 0

/-- Checks 2 to 15 in order: the number of the first that fails, with its failure (R78). -/
def loadChecks (im : Nat) : Option (Nat × Refused) :=
  let first (k : Nat) (fs : List Refused) : Option (Nat × Refused) := (lowest fs).map (fun f => (k, f))
  (first 2 (failIf (decide (imgField im 4 2 ≠ 1)) ⟨4, 0xff, 0x1ff⟩)).orElse fun _ =>
  (first 3 (check3 im)).orElse fun _ => (first 4 (check4 im)).orElse fun _ => (first 5 (check5 im)).orElse fun _ =>
  (first 6 (check6 im)).orElse fun _ => (first 7 (check7 im)).orElse fun _ => (first 8 (check8 im)).orElse fun _ =>
  (first 9 (check9 im)).orElse fun _ => (first 10 (check10 im)).orElse fun _ => (first 11 (check11 im)).orElse fun _ =>
  (first 12 (check12 im)).orElse fun _ => (first 13 (check13 im)).orElse fun _ =>
  ((check14 im).map (fun f => (14, f))).orElse fun _ =>
  first 15 (failIf (decide (imgField im 16 16 ≠ saveMaskOf im)) ⟨16, 0xff, 0x1ff⟩)

/-- The magic of an image, `LDCF` (R75). -/
def cfgMagic : Nat := 0x4643444c

/-- Check 1 on a whole image whose source holds `src` bytes (R78). -/
def check1 (im src : Nat) : Option Refused :=
  if imgField im 0 4 ≠ cfgMagic then some ⟨0, 0xff, 0x1ff⟩
  else if imgLength im ≠ totalLength im ∨ src < imgLength im then some ⟨32, 0xff, 0x1ff⟩
  else none

/-- All checks of R78 on an image of a source of `src` bytes. -/
def imageChecks (im src : Nat) : Option (Nat × Refused) :=
  match check1 im src with
  | some f => some (1, f)
  | none => loadChecks im

/-! ### Reading the source, and completion (R191) -/

/-- The address of byte o of a geometry's elements in visit order (R199). -/
def byteAddr (g : Vec) (o : Nat) : Addr :=
  if gFmt g = 6 then gBase g + BitVec.ofNat 72 o
  else gAddr g (o / gBytes g) + BitVec.ofNat 72 (o % gBytes g)

/-- The first n bytes of a source read outside any task, as a number from byte o on; or the offset at which an access
waits or fails (R191). -/
def State.readSource (s : State) (t : Nat) (g : Vec) : Nat → Nat → State × Acc Nat × Nat
  | 0, o => (s, .ok 0, o)
  | n + 1, o =>
    match s.fetch t false g (byteAddr g o) 1 with
    | (s, .ok bs) =>
      (match s.readSource t g n (o + 1) with
      | (s, .ok v, k) => (s, .ok (leNat bs + 256 * v), k)
      | r => r)
    | (s, .wait) => (s, .wait, o)
    | (s, .stop c p) => (s, .stop c p, o)
    | (s, .unmapped _) => (s, .stop 0x10 none, o)

/-- A configuration load ends: its slot is armed with an image that passes every check, or stays unarmed; its barrier
takes one arrival, and with `b0` a failure is a trap (R78, R79, R191). -/
def State.endLoad (s : State) (t c : Nat) (l : CfgLoad) (r : Except (BitVec 8 × Nat × Word) CfgImage) : State :=
  let s := s.mapTile t (fun x => { x with fab := { x.fab with loads := x.fab.loads.erase c } })
  match r with
  | .ok img =>
    (s.mapTile t (fun x => { x with fab := { x.fab with slots := x.fab.slots.put c img } })).arrive t l.bar 0 0
  | .error (cause, info, report) =>
    if l.bar = 0 then s.raise (.tile t) cause report l.entry.slot.index
    else s.mapSeq (.tile t) (fun q => q.arrive l.bar cause (BitVec.ofNat 16 info)
      (if info = 0 then none else some report))

/-- The image of a load, or why it is not installed. -/
def State.loadImage (s : State) (t : Nat) (l : CfgLoad) : State × Option (Except (BitVec 8 × Nat × Word) CfgImage) :=
  let g := l.entry.g0
  let src := gCount g * gBytes g
  let failed (cause : BitVec 8) (o : Nat) : Except (BitVec 8 × Nat × Word) CfgImage :=
    .error (cause, 0, trapInfo l.entry.word o l.entry.slot.index)
  let refused (k : Nat) (f : Refused) : Except (BitVec 8 × Nat × Word) CfgImage :=
    .error (if k = 2 then 0x1e else 0x14, k, loadReport k f)
  match s.readSource t g (min 64 src) 0 with
  | (s, .ok head, _) =>
    if imgField head 0 4 ≠ cfgMagic then (s, some (refused 1 ⟨0, 0xff, 0x1ff⟩))
    else if src < imgLength head ∨ imgLength head < 2240 + 8 * imgEdges head then
      (s, some (refused 1 ⟨32, 0xff, 0x1ff⟩))
    else (match s.readSource t g (imgLength head) 0 with
      | (s, .ok im, _) => (s, some (match imageChecks im src with
        | some (k, f) => refused k f
        | none => .ok (installed im)))
      | (s, .stop e _, o) => (s, some (failed e o))
      | (s, _, _) => (s, none))
  | (s, .stop e _, o) => (s, some (failed e o))
  | (s, _, _) => (s, none)

/-- The offset at which a load's read waits on an absent channel word (R191, R293). -/
def State.loadWaits (s : State) (t : Nat) (l : CfgLoad) : Option Nat :=
  let g := l.entry.g0
  let src := gCount g * gBytes g
  let stands (r : State × Acc Nat × Nat) : Option Nat := match r with
    | (_, .wait, o) => some o
    | _ => none
  match s.readSource t g (min 64 src) 0 with
  | (s, .ok head, _) => if src < imgLength head then none else stands (s.readSource t g (imgLength head) 0)
  | r => stands r

/-- A load ends with a cause that an access at an offset of its image has met (R191, R295). -/
def State.failLoad (s : State) (t c o : Nat) (cause : BitVec 8) : State :=
  match (s.tile t).fab.loads.get? c with
  | none => s
  | some l => s.endLoad t c l (.error (cause, 0, trapInfo l.entry.word o l.entry.slot.index))

/-- The load of slot c of tile t ends (R78, R191). -/
def execCfgLoadCompletion (t c : Nat) (s : State) : Result :=
  let x := s.tile t
  match x.fab.loads.get? c with
  | none => .next s
  | some l =>
    if x.still then .next s else
    match s.loadImage t l with
    | (s, none) => .next s
    | (s, some r) => .next (s.endLoad t c l r)

end Sys2Proof.Machine
end

