-- ==== Sys2Proof/Machine/Matrix.lean ====
section
/-!
DEFINITION. The matrix unit: the words of slot M (R238 to R246), the micro-ops of a routine (R247 to R254), drains and
the epilogue (R255 to R257), the completions of `macc`, `mup` and `mepi`, and gangs (R330 to R336).
-/
namespace Sys2Proof.Machine

/-! ### Places -/

def State.mx (s : State) (t : Nat) : Matrix := (s.tile t).mx
def State.mapMx (s : State) (t : Nat) (f : Matrix → Matrix) : State := s.mapTile t (fun x => { x with mx := f x.mx })

/-- An accumulator bank by its physical number (R235). -/
def Matrix.bank (m : Matrix) (b : Nat) : KMap (BitVec 32) := if b = 0 then m.bank0 else m.bank1
def Matrix.setBank (m : Matrix) (b : Nat) (c : KMap (BitVec 32)) : Matrix :=
  if b = 0 then { m with bank0 := c } else { m with bank1 := c }

/-- The pattern of cell (i, j); under `f64` the two 32-bit cells of R236. -/
def cellPat (c : KMap (BitVec 32)) (f64 : Bool) (i j : Nat) : Nat :=
  if f64 then (c.get 0 (64 * i + 2 * j)).toNat + 2 ^ 32 * (c.get 0 (64 * i + 2 * j + 1)).toNat
  else (c.get 0 (64 * i + j)).toNat

/-- A bank with the pattern of cell (i, j) written. -/
def cellPut (c : KMap (BitVec 32)) (f64 : Bool) (i j p : Nat) : KMap (BitVec 32) :=
  if f64 then KMap.set 0 (KMap.set 0 c (64 * i + 2 * j) (BitVec.ofNat 32 p)) (64 * i + 2 * j + 1) (BitVec.ofNat 32 (p / 2 ^ 32))
  else KMap.set 0 c (64 * i + j) (BitVec.ofNat 32 p)

/-- Physical bank b XOR F (R248). -/
def Matrix.physBank (m : Matrix) (k : BitVec 1) : Nat := (k ^^^ m.f).toNat

/-! ### The shape (R249) -/

def shField (w : Word) (lo n : Nat) : Nat := (w.extractLsb' lo n).toNat
def shType (w : Word) : Nat := shField w 52 4
def shScale (w : Word) : Int := (w.extractLsb' 44 8).toInt
def shSteps (w : Word) : Nat := shField w 38 6 + 1
def shCols (w : Word) : Nat := shField w 32 6 + 1
def shRows (w : Word) : Nat := shField w 26 6 + 1
def shStride (w : Word) : Nat := shField w 0 20

/-- The products of one step, at most (R50). -/
def stepMax (ty : Nat) : Nat := match ty with
  | 0 => 4
  | 1 => 16
  | 2 | 3 => 32
  | _ => 64

/-- A shape R249 accepts. -/
def shapeOk (w : Word) : Bool :=
  shField w 56 8 = 0 && shField w 20 6 = 0 && decide (shType w ≤ 5) && decide (shSteps w ≤ stepMax (shType w))
    && !(shType w = 0 && decide (32 < shCols w))

/-! ### The end of a routine (R258, R334) -/

/-- The rank of a tile in a group of its die (R301). -/
def State.rankOf (s : State) (t grp : Nat) : Nat :=
  rankIn (groupMembers ((s.die (dieOf (groveOf t))).groups.get 0 grp)) (s.dieTile t)

/-- A routine ends: its record, which keeps the last fault where it ends with none, and its one arrival. A gang member that ends
with cause 0 waits for its instance, and any other cause aborts the instance (R245, R258, R332, R334). -/
def State.endRoutine (s : State) (t : Nat) (r : Routine) (cause : BitVec 8) (aborted : Bool) : State :=
  let info : BitVec 16 := BitVec.ofNat 16 (r.index * 1024 + r.upc % 1024)
  let s := s.mapMx t (fun m => { m with
    cause := if cause = 0 then m.cause else cause, info := if cause = 0 then m.info else info
    aborted := if cause = 0 then m.aborted else aborted, upc := r.upc % 1024, routine := r.index })
  match r.gang with
  | none => (s.mapMx t (fun m => { m with running := none, done := m.done + 1 })).arrive t r.bar cause info
  | some grp =>
    let d := dieOf (groveOf t)
    if cause = 0 then
      (s.mapMx t (fun m => { m with running := some { r with atEnd := true } })).mapDie d (fun x => { x with
        gangs := match x.gangs.get? grp with
          | some g => x.gangs.put grp { g with finished := g.finished ++ [s.rankOf t grp] }
          | none => x.gangs })
    else s.abortGang d grp 0x1a cause.toNat (s.rankOf t grp)

/-- A routine starts (R240): the shadow registers are copied, the loop stack, the panels and the reset mask emptied. An
entry that is not valid ends it at once with 0x1C. -/
def State.startRoutine (s : State) (t index bar : Nat) (gang : Option Nat) : State :=
  let e := (s.mx t).table.get 0 index
  let r : Routine := { index := index, upc := e.toNat % 1024, bar := bar, inTask := (s.tile t).inTask, gang := gang }
  let s := s.mapMx t (fun m => { m with active := m.shadow, loops := [], panelA := none, panelB := none, mask := 0,
                                        started := m.started + 1, running := some r, staged := [] })
  if e.getLsbD 15 then s else s.endRoutine t r 0x1c false

/-! ### The words of slot M -/

/-- `mcall` and `mgang` wait for a routine that runs and for a load that is not complete (R238, R330). -/
def Matrix.busy (m : Matrix) : Bool := m.running.isSome || !m.mups.isEmpty || !m.mepis.isEmpty

/-- `mset` (R239). -/
def execMset (_h : Hdr) (m : BitVec 3) (_a : BitVec 6) (s : State) : Result :=
  .next (s.accept.mapMx s.tileNo (fun x => { x with shadow := x.shadow.set 0 m.toNat (s.ctx.va.setWidth 64) }))

/-- `mseti` (R239). -/
def execMseti (_h : Hdr) (m : BitVec 3) (i : BitVec 8) (s : State) : Result :=
  .next (s.accept.mapMx s.tileNo (fun x => { x with
    shadow := x.shadow.set 0 m.toNat (BitVec.ofNat 64 (immUnsigned s.ctx.ext i)) }))

/-- `mcall` (R238, R240). -/
def execMcall (_h : Hdr) (r : BitVec 6) (b : BitVec 11) (s : State) : Result :=
  if (s.mx s.tileNo).busy then .next s else .next (s.accept.startRoutine s.tileNo r.toNat b.toNat none)

/-- The rules of R241 for the target of `macc`. The rule names no causes: 0x14 for the shape and `enc`, 0x15 for the format
(DESIGN CHOICE, log entry 12). -/
def maccFaults (g : Vec) : List (Option (BitVec 8)) :=
  [need (decide (gEnc g ≤ 1)) 0x14, need (decide (gDims g ≤ 2)) 0x14,
   need (decide (gSize g 0 ≤ if gFmt g = 0 then 32 else 64) && decide (gSize g 1 ≤ 64)) 0x14,
   need (gEnc g = 1 || decide (gFmt g ≤ 1)) 0x15]

/-- `macc` takes its place behind every routine called before it (R241); it issues at once. -/
def execMacc (_h : Hdr) (k : BitVec 1) (_g : BitVec 4) (b : BitVec 11) (s : State) : Result :=
  let t := s.tileNo
  let g := s.ctx.g0
  match firstCause (maccFaults g ++ s.writeFaults t { spaces := [0, 1, 2, 3], writesMem := true } g) with
  | some cause => .next (s.issueTrap cause (streamDetail 0 0))
  | none =>
    let c := { s.command .drain 0 with num := (s.tile t).str.issued, inTask := (s.tile t).inTask }
    .next (s.accept.mapTile t (fun x => { x with
      str := { x.str with issued := x.str.issued + 1 }
      mx := { x.mx with tokens := x.mx.tokens ++ [⟨k.toNat, b.toNat, x.mx.started, none, c⟩] } }))

/-- The checks of `mup` (R242), with those of R201 on a geometry that is read under their own causes, which R242 does not name for it
(DESIGN CHOICE, log entry 12). -/
def State.mupFault (s : State) (g : Vec) (w : BitVec 10) : Option (BitVec 8) :=
  firstCause (need (gFmt g = 9 || gFmt g = 13) 0x14 :: need (gDims g = 1) 0x14 :: need (decide (geoStride g 0 = 4)) 0x14
    :: need (decide (w.toNat + gSize g 0 ≤ 1024)) 0x0b
    :: s.readFaults s.tileNo { readUse with spaces := [0, 1, 2] } g)

/-- `mup` (R238, R242). -/
def execMup (_h : Hdr) (_g : BitVec 4) (w : BitVec 10) (s : State) : Result :=
  if (s.mx s.tileNo).running.isSome then .next s else
  match s.mupFault s.ctx.g0 w with
  | some cause => .next (s.issueTrap cause 0)
  | none => .next (s.accept.mapMx s.tileNo (fun m => { m with mups := m.mups ++ [{ entry := s.ctx, first := w.toNat }] }))

/-- `mtab` writes bits 15 and 9-0 (R238, R243). -/
def execMtab (_h : Hdr) (r : BitVec 6) (_a : BitVec 6) (s : State) : Result :=
  if (s.mx s.tileNo).running.isSome then .next s else
  .next (s.accept.mapMx s.tileNo (fun m => { m with
    table := m.table.set 0 r.toNat ((s.ctx.va.setWidth 16) &&& 0x83ff) }))

/-- The status word and the fault report of R245. -/
def Matrix.status (m : Matrix) (sel : BitVec 1) : Word :=
  if sel = 1 then BitVec.ofNat 64 (m.info.toNat + (if m.aborted then 2 ^ 63 else 0))
  else
    let upc := match m.running with
      | some r => r.upc % 1024
      | none => m.upc
    let index := match m.running with
      | some r => r.index
      | none => m.routine
    let gang : Bool := match m.running with
      | some r => r.gang.isSome
      | none => false
    let bit (b : Bool) (k : Nat) : Nat := if b then 2 ^ k else 0
    BitVec.ofNat 64 (m.done.toNat * 2 ^ 32 + m.cause.toNat * 2 ^ 24 + upc % 1024 * 2 ^ 14 + index % 64 * 2 ^ 8
      + m.loops.length % 8 * 2 ^ 5 + bit (m.f = 1) 4 + bit (!m.epi.isEmpty) 3
      + bit (m.tokens.any (fun k => k.cells.isNone)) 2 + bit gang 1 + bit m.running.isSome 0)

/-- `mstat` (R245). -/
def execMstat (_h : Hdr) (d : BitVec 6) (e : BitVec 1) (s : State) : Result :=
  .next ((s.late d ((s.mx s.tileNo).status e)).accept)

/-- `mabort` (R246). -/
def execMabort (_h : Hdr) (s : State) : Result :=
  let s := s.accept
  .next (match (s.mx s.tileNo).running with
    | some r => s.endRoutine s.tileNo r 0x1c true
    | none => s)

/-- `mepi` (R238, R244). -/
def execMepi (_h : Hdr) (_g : BitVec 4) (s : State) : Result :=
  if (s.mx s.tileNo).running.isSome then .next s else
  .next (s.accept.mapMx s.tileNo (fun m => { m with mepis := m.mepis ++ [{ entry := s.ctx, first := 0 }] }))

/-! ### `macc` reads its bank and writes (R241) -/

/-- The patterns of the elements of a target, in visit order: element (i0, i1) receives cell (i1, i0). -/
def Matrix.readCells (m : Matrix) (bank : Nat) (g : Vec) : List Word :=
  let f := gFmt g = 0
  let w := max 1 (gSize g 0)
  (List.range (gCount g)).map (fun k => BitVec.ofNat 64 (cellPat (m.bank bank) f (k / w) (k % w)))

/-- The elements of a token from its position on are formed, as a copy's are. -/
def State.formCells (s : State) (t : Nat) (c : Cmd) (ps : List Word) : State × Cmd × Acc Nat :=
  s.formAll t c (if gFmt c.geo = 0 then 0 else 1) 0 (ps.map (·.toNat))

/-- The head token is replaced. -/
def Matrix.setToken (m : Matrix) (k : Token) : Matrix := { m with tokens := k :: m.tokens.drop 1 }

/-- Every micro-op of the routines called before a token has been applied: they have ended, or wait at `mu.end` for their gang
(R241, R332). -/
def Matrix.tokenFree (m : Matrix) (k : Token) : Bool :=
  decide (k.after < m.started) || match m.running with
    | none => true
    | some r => r.atEnd

/-- The first token completes with one arrival at its barrier (R226, R228, R241). -/
def State.closeToken (s : State) (t : Nat) (k : Token) (cause : BitVec 8) (info : Nat) : State :=
  (s.mapMx t (fun m => { m with tokens := m.tokens.drop 1 })).arrive t k.bar cause (BitVec.ofNat 16 (info % 1024))

/-- The first token reads its bank once every earlier routine's micro-ops have been applied, and writes its elements; it completes
with one arrival at its barrier, with the cause and the position of a fault that stops it (R226, R228, R241). A landing pauses it
at an element (R269). -/
def execMaccBankRead (t : Nat) (s : State) : Result :=
  .next (match (s.mx t).tokens with
    | [] => s
    | k :: _ =>
      let m := s.mx t
      if (s.tile t).landing? || k.cmd.frozen || (k.cells.isNone && !m.tokenFree k) then s else
      if !k.cmd.resend.isEmpty then
        let r := s.resendAll t k.cmd
        r.1.mapMx t (·.setToken { k with cmd := r.2 })
      else
      let ps := match k.cells with
        | some ps => ps
        | none => m.readCells k.bank k.cmd.geo
      let close (s : State) (cause : BitVec 8) (info : Nat) : State := s.closeToken t k cause info
      match s.formCells t k.cmd (ps.drop k.cmd.pos) with
      | (s, c, _) => match s.performFrom t c c.due with
        | (s, c, .ok _) => if !c.unacked.isEmpty then s.mapMx t (·.setToken { k with cells := some ps, cmd := c }) else close s 0 0
        | (s, c, .wait) => s.mapMx t (·.setToken { k with cells := some ps, cmd := c })
        | (s, c, .stop cause p) => close s cause (p.getD c.pos)
        | (s, c, .unmapped a) => if s.mayFreeze t then
            (s.mapMx t (·.setToken { k with cells := some ps, cmd := { c with frozen := true } })).freezeRegion t 0x10 (some (0xff, a))
          else s.mapMx t (·.setToken { k with cells := some ps, cmd := c }))

/-! ### The loads of the stores (R242, R244) -/

/-- The tile's load is at an element that it reads as the task's accesses are (R242, R244). -/
def State.loadRead (s : State) (t : Nat) (l : MatrixLoad) : State × Acc (List Byte) :=
  s.fetch t (s.tile t).inTask l.entry.g0 (gAddr l.entry.g0 l.pos) (gBytes l.entry.g0)

/-- Element k of a load's geometry is read; the load stops, waits or pauses where it cannot be (R242, R244). `close` ends the load with a
status and its info. Where a clock has stopped before, the load waits for it to go on. -/
def State.loadElem (s : State) (t : Nat) (l : MatrixLoad) (pause : State → State) (close : State → BitVec 8 → Nat → State)
    (next : State → Nat → State) : State :=
  match s.loadRead t l with
  | (s, .ok bs) => next s (leNat bs)
  | (s, .wait) => s
  | (s, .stop cause _) => close s cause l.pos
  | (s, .unmapped a) => if s.mayFreeze t then (pause s).freezeRegion t 0x10 (some (0xff, a)) else s

/-- The first `mup` of a tile completes with one arrival at its geometry's barrier (R242). -/
def State.closeMup (s : State) (t : Nat) (status : BitVec 8) (info : Nat) : State :=
  match (s.mx t).mups with
  | [] => s
  | l :: rest => (s.mapMx t (fun m => { m with mups := rest })).arrive t (gBar l.entry.g0) status (BitVec.ofNat 16 (info % 1024))

/-- The first `mepi` of a tile completes with one arrival at its geometry's barrier, and leaves these words in the epilogue store
(R244). -/
def State.closeMepi (s : State) (t : Nat) (ws : List (BitVec 128)) (status : BitVec 8) (info : Nat) : State :=
  match (s.mx t).mepis with
  | [] => s
  | l :: rest => (s.mapMx t (fun m => { m with mepis := rest, epi := ws })).arrive t (gBar l.entry.g0) status (BitVec.ofNat 16 info)

/-- A `mup` copies its next word, unchecked, and completes with one arrival at its geometry's barrier after the last (R242). A
landing pauses it at a word (R269); the matrix unit runs on where a region's clock stops (R370). -/
def execMupCompletion (t : Nat) (s : State) : Result :=
  .next (match (s.mx t).mups with
    | [] => s
    | l :: rest =>
      if (s.tile t).landing? || l.frozen then s else
      s.loadElem t l (fun s => s.mapMx t (fun m => { m with mups := { l with frozen := true } :: rest }))
        (fun s cause k => s.closeMup t cause k) (fun s v =>
          let s := s.mapMx t (fun m => { m with
            mups := { l with pos := l.pos + 1 } :: rest
            store := KMap.set 0 m.store ((l.first + l.pos) % 1024) (BitVec.ofNat 32 v) })
          if gCount l.entry.g0 ≤ l.pos + 1 then s.closeMup t 0 0 else s))

/-- The operations an epilogue word may name (R257). -/
def epiOps : List Nat := [0x01, 0x40, 0x41, 0x42, 0x43, 0x44, 0x45, 0x46, 0x47, 0x48, 0x49, 0x4a, 0x4b, 0x4c, 0x4d, 0x4e,
  0x4f, 0x50, 0x62, 0x70]

/-- An epilogue word satisfies R257. -/
def epiWordOk (w : BitVec 128) : Bool :=
  let used := usedInputs (cOp w) (cMod w)
  let srcOk (c : Nat) : Bool := decide (c ≤ 1) || (decide (4 ≤ c) && decide (c ≤ 11)) || decide (c = 36) || decide (c = 39)
  cType w = 1 && epiOps.contains (cOp w) && accepts w
    && (List.range 3).all (fun j => if used.contains j then srcOk (cSrc w j) else cSrc w j = 39)
    && decide (4 ≤ cDst w) && decide (cDst w ≤ 12) && cGroup w = 0 && cAlign w = 0 && cf w 44 32 = 0 && !cChain w
    && !cHreset w && cEmit w = 0 && cf w 32 8 = 0

/-- The geometry of `mepi` (R244). -/
def State.mepiFault (s : State) (t : Nat) (g : Vec) : Bool :=
  (firstCause (s.readFaults t { readUse with spaces := [0, 1, 2] } g)).isSome
    || !(gFmt g = 11 && gDims g = 1 && decide (geoStride g 0 = 1) && gSize g 0 % 16 = 0 && decide (16 ≤ gSize g 0)
      && decide (gSize g 0 ≤ 512))

/-- The 128-bit words of a byte list. -/
def wordsOf128 (bs : List Nat) : List (BitVec 128) :=
  (List.range (bs.length / 16)).map (fun i => BitVec.ofNat 128 (leNat (((bs.drop (16 * i)).take 16).map (BitVec.ofNat 8))))

/-- The index of the first word that fails, or of the last where none writes destination 12 (R257). -/
def epiFault (ws : List (BitVec 128)) : Option Nat :=
  match ws.findIdx? (fun w => !epiWordOk w) with
  | some i => some i
  | none => if ws.any (fun w => cDst w = 12) then none else some (ws.length - 1)

/-- A `mepi` reads its next byte, and after the last loads the epilogue store; a geometry or a word that fails leaves it empty with
status 0x14, an access that fails with the cause that met it (R124, R126, R244). A landing pauses it (R269); the matrix unit runs on
where a region's clock stops (R370). -/
def execMepiCompletion (t : Nat) (s : State) : Result :=
  .next (match (s.mx t).mepis with
    | [] => s
    | l :: rest =>
      if (s.tile t).landing? || l.frozen then s else
      let g := l.entry.g0
      if s.mepiFault t g then s.closeMepi t [] 0x14 0 else
      s.loadElem t l (fun s => s.mapMx t (fun m => { m with mepis := { l with frozen := true } :: rest }))
        (fun s cause k => s.closeMepi t [] cause (k / 16)) (fun s v =>
          let bytes := l.bytes ++ [v]
          if gCount g ≤ l.pos + 1 then
            match epiFault (wordsOf128 bytes) with
            | some i => s.closeMepi t [] 0x14 i
            | none => s.closeMepi t (wordsOf128 bytes) 0 0
          else s.mapMx t (fun m => { m with mepis := { l with pos := l.pos + 1, bytes := bytes } :: rest })))

/-! ### Micro-ops -/

/-- What a micro-op answers: the state, and the microword to take next or the cause that ends the routine. -/
abbrev MicroOut := State × Except (BitVec 8) Nat

/-- A routine of a tile may take a micro-op: a landing pauses it, a stop of the region's clock does not (R260, R370). -/
def Tile.microOpen (x : Tile) (r : Routine) : Bool := !(r.atEnd || x.landing?)

/-- A micro-op of the running routine of the focus tile takes full effect, or the routine ends on its fault, or the
micro-op waits (R247). -/
def State.micro (s : State) (waits : Matrix → Bool) (act : Nat → Routine → MicroOut) : Result :=
  let t := s.tileNo
  let x := s.tile t
  match x.mx.running with
  | none => .next s
  | some r =>
    if !x.microOpen r || waits x.mx then .next s
    else match act t r with
      | (s, .ok upc) => .next ((s.mapMx t (fun m => { m with running := some { r with upc := upc, begun := false } })).markMoved (.tile t))
      | (s, .error cause) => .next ((s.endRoutine t r cause false).markMoved (.tile t))

/-- A micro-op waits for the read of a `macc` issued before its routine was called, on its bank (R241). -/
def Matrix.bankHeld (m : Matrix) (k : BitVec 1) : Bool :=
  m.tokens.any (fun x => x.cells.isNone && x.bank = m.physBank k && decide (x.after < m.started))

def Matrix.reg (m : Matrix) (n : BitVec 3) : Word := m.active.get 0 n.toNat
def Matrix.setReg (m : Matrix) (n : BitVec 3) (v : Word) : Matrix := { m with active := m.active.set 0 n.toNat v }
/-- A register with bits from `lo` on replaced. -/
def putField (w : Word) (lo n v : Nat) : Word :=
  BitVec.ofNat 64 (w.toNat - shField w lo n * 2 ^ lo + v % 2 ^ n * 2 ^ lo)

/-- `mu.nop`. -/
def execMuNop (s : State) : Result := s.micro (fun _ => false) (fun _ r => (s, .ok (r.upc + 1)))

/-- `mu.param` (R249). -/
def execMuParam (m : BitVec 3) (s : State) : Result :=
  s.micro (fun _ => false) (fun t r =>
    let w := (s.mx t).reg m
    if shapeOk w then (s.mapMx t (fun x => { x with shape := w, panelA := none, panelB := none }), .ok (r.upc + 1))
    else (s, .error 0x1c))

/-- The faults of an access of the matrix unit to the TSP: alignment, bounds, owner, then poison of a read (R126,
R250, R255). -/
def State.mtspFault (s : State) (t : Nat) (a : Int) (n z : Nat) (read : Bool) : Option (BitVec 8) :=
  if a % (z : Int) ≠ 0 then some 0x09
  else if a < 0 ∨ 0x100000 < a + n then some 0x0b
  else if !(s.tile t).enginesReach a.toNat n then some 0x0a
  else if read && s.mem.poisoned (tspAddr t a.toNat) n then some 0x13
  else none

/-- Rows of n elements of z bytes read from the TSP at the addresses given, as patterns. -/
def State.readRows (s : State) (t n z : Nat) : List Int → Except (BitVec 8) (List (List Word))
  | [] => .ok []
  | a :: as =>
    match s.mtspFault t a (n * z) z true with
    | some c => .error c
    | none => match s.readRows t n z as with
      | .error c => .error c
      | .ok rows =>
        .ok ((List.range n).map (fun j => BitVec.ofNat 64 (s.readNat (tspAddr t (a.toNat + j * z)) z)) :: rows)

/-- The offset of row i: delta where the row is a reset row (R250). -/
def Matrix.rowDelta (m : Matrix) (mm : BitVec 3) (msk : BitVec 1) (i : Nat) : Int :=
  if msk = 1 && m.mask.getLsbD i then ((m.reg mm).extractLsb' 20 20).toInt else 0

/-- The mask row of `nm` 1: bit r is set where byte r is not 0, and the register moves on 64 bytes (R250). -/
def State.readMask (s : State) (t : Nat) (mm : BitVec 3) : State × Option (BitVec 8) :=
  let a := shField ((s.mx t).reg mm) 0 20
  match s.mtspFault t a 64 1 true with
  | some c => (s, some c)
  | none =>
    let bs := s.mem.bytes.readList (tspAddr t a) 64
    let mask := (bs.zipIdx).foldl (fun m b => if b.1 = 0 then m else m + 2 ^ b.2) 0
    (s.mapMx t (fun m => { m.setReg mm (putField (m.reg mm) 0 20 (a + 64)) with mask := BitVec.ofNat 64 mask }), none)

/-- `mu.lda` (R250). -/
def execMuLda (a : BitVec 3) (n : BitVec 1) (m : BitVec 3) (k : BitVec 1) (i : BitVec 16) (s : State) : Result :=
  s.micro (fun _ => false) (fun t r =>
    match (if n = 1 then s.readMask t m else (s, none)) with
    | (s, some c) => (s, .error c)
    | (s, none) =>
      let x := s.mx t
      let p := shField (x.reg a) 0 20
      let ty := shType x.shape
      let rows := (List.range (shRows x.shape)).map (fun j => (p + j * shStride x.shape : Nat) + x.rowDelta m k j)
      match s.readRows t (shSteps x.shape) (typeBytes ty) rows with
      | .error c => (s, .error c)
      | .ok vals =>
        let next := ((p : Int) + 64 * i.toInt) % 2 ^ 20
        (s.mapMx t (fun x => { x.setReg a (putField (x.reg a) 0 20 next.toNat) with
          panelA := some ⟨ty, 0, shRows x.shape, shSteps x.shape, vals⟩ }), .ok (r.upc + 1)))

/-- The decoded values of consecutive `pk8` blocks from an address on, as many as asked (R251). -/
def State.wbBlocks (s : State) (t fin : Nat) : Nat → Nat → Except (BitVec 8) (List Nat)
  | _, 0 => .ok []
  | a, n + 1 =>
    let bs := s.mem.bytes.readList (wbAddr t a) (min 33 (fin - a))
    if s.mem.poisoned (wbAddr t a) ((pkSize bs).getD bs.length) then .error 0x13
    else match pkDecode bs with
      | none => .error 0x14
      | some (vals, len) => match s.wbBlocks t fin (a + len) n with
        | .error c => .error c
        | .ok rest => .ok (vals.map (·.toNat) ++ rest)

/-- Values c to c + tot - 1 of the data of the descriptor at word d, as patterns, with the descriptor (R251). -/
def State.wbValues (s : State) (t d c tot : Nat) : Except (BitVec 8) (Vec × List Nat) :=
  if s.mem.poisoned (wbAddr t (64 * d)) 64 then .error 0x13 else
  let h : Vec := BitVec.ofNat 512 (s.readNat (wbAddr t (64 * d)) 64)
  let fmt := (hFmt h).toNat
  let base := 64 * (d + 1)
  let fin := min (base + 64 * hAxpos h) 0x40000
  if fmt = 15 then .error 0x14
  else if fmt = 6 then
    if c % 32 ≠ 0 ∨ tot % 32 ≠ 0 then .error 0x1c
    else match s.wbBlocks t fin base (c / 32 + tot / 32) with
      | .error e => .error e
      | .ok vals => .ok (h, vals.drop c)
  else
    let z := typeBytes fmt
    if fin < base + (c + tot) * z then .error 0x1c
    else if s.mem.poisoned (wbAddr t (base + c * z)) (tot * z) then .error 0x13
    else .ok (h, (List.range tot).map (fun k => s.readNat (wbAddr t (base + (c + k) * z)) z))

/-- `mu.ldb` (R251). -/
def execMuLdb (b : BitVec 3) (s : State) : Result :=
  s.micro (fun _ => false) (fun t r =>
    let x := s.mx t
    let d := shField (x.reg b) 0 12
    let c := shField (x.reg b) 20 24
    let n := shSteps x.shape
    let cols := shCols x.shape
    match s.wbValues t d c (n * cols) with
    | .error e => (s, .error e)
    | .ok (h, vals) =>
      let rows := (List.range n).map (fun i => ((vals.drop (i * cols)).take cols).map (BitVec.ofNat 64))
      (s.mapMx t (fun x => { x.setReg b (putField (x.reg b) 20 24 (c + n * cols)) with
        panelB := some ⟨(hFmt h).toNat, hScale h, n, cols, rows⟩
        position := if hFmt h = 6 then some (d, c + n * cols) else x.position }), .ok (r.upc + 1)))

/-- The operand types that pair (R252). -/
def pairTypes (a b : Nat) : Bool := match a with
  | 0 | 1 => b = a
  | 2 | 3 => b = 2 || b = 3
  | _ => b = 4 || b = 5 || b = 6

/-- One K-step over the cells of the shape (R252). -/
def Matrix.step (m : Matrix) (bank : Nat) (a b : Panel) : Matrix :=
  let f64 := a.ty = 0
  let ty := if f64 then 0 else 1
  let scale := shScale m.shape + b.scale.toInt
  let av := a.vals.map (·.map (fun w => decodeType a.ty w.toNat))
  let bv := b.vals.map (·.map (fun w => decodeType b.ty w.toNat))
  let old := m.bank bank
  m.setBank bank ((av.zipIdx).foldl (fun c row => (List.range b.cols).foldl (fun c j =>
    let col := bv.map (fun r => (r[j]?).getD .nan)
    cellPut c f64 row.2 j (stepSum (decodeType ty (cellPat old f64 row.2 j)) (row.1.zip col) scale f64)) c) old)

/-- `mu.mac` (R252). -/
def execMuMac (k : BitVec 1) (s : State) : Result :=
  s.micro (fun m => m.bankHeld k) (fun t r =>
    let x := s.mx t
    match x.panelA, x.panelB with
    | some a, some b =>
      if pairTypes a.ty b.ty then (s.mapMx t (fun x => x.step (x.physBank k) a b), .ok (r.upc + 1)) else (s, .error 0x1c)
    | _, _ => (s, .error 0x1c))

/-- `mu.zero` (R248). -/
def execMuZero (k : BitVec 1) (s : State) : Result :=
  s.micro (fun m => m.bankHeld k) (fun t r => (s.mapMx t (fun m => m.setBank (m.physBank k) []), .ok (r.upc + 1)))

/-- `mu.swap` (R248). -/
def execMuSwap (s : State) : Result :=
  s.micro (fun _ => false) (fun t r => (s.mapMx t (fun m => { m with f := ~~~ m.f }), .ok (r.upc + 1)))

/-! ### Drains (R255 to R257) -/

/-- A slice of 16 `f32` patterns as a word. -/
def sliceWord (ps : List Nat) : Vec := packLanes 1 (fun k => (ps[k]?).getD 0)

/-- One word of the epilogue: the input words by source code, and the destination written (R257). -/
def epiWord (acc side : Vec) (regs : KMap Vec) (w : BitVec 128) : KMap Vec :=
  let input (j : Nat) : OpIn :=
    let c := cSrc w j
    let v : Vec := if c = 0 then acc else if c = 1 then side
      else if c = 36 then packLanes 1 (fun _ => cImm w) else if c = 39 then 0 else regs.get 0 c
    ⟨v, 1, 0, none⟩
  regs.set 0 (cDst w) ({ w := w, a := input 0, b := input 1, c := input 2 } : OpCtx).results.1

/-- The epilogue of one slice: the last value written to code 12 (R256). -/
def epiSlice (ws : List (BitVec 128)) (acc side : Vec) : Vec := (ws.foldl (epiWord acc side) []).get 0 12

/-- The epilogue of a row of patterns, slice by slice. -/
def epiRow (ws : List (BitVec 128)) (acc side : List Nat) (n : Nat) : List Nat :=
  (List.range ((n + 15) / 16)).flatMap (fun k =>
    let out := epiSlice ws (sliceWord (acc.drop (16 * k))) (sliceWord (side.drop (16 * k)))
    (List.range 16).map (lanePat 1 out))

/-- A drain's fields and what it reads before its rows: `mt`, the side rows as `f32` patterns. -/
structure Drain where
  bank : Nat
  fmt : Nat
  scale : Int
  rowStep : Nat
  target : Nat
  cols : Nat
  epi : Bool
  clr : Bool
  deriving DecidableEq, Repr

/-- The pattern stored for a value: quantized, saturated, scaled (R255). -/
def Drain.store (d : Drain) (x : XVal) : Nat := quant d.fmt .rne (sat d.fmt (x.scale (-d.scale)))

/-- The values of row i, after the epilogue where it runs (R255, R256). -/
def Matrix.drainRow (m : Matrix) (d : Drain) (side : List Nat) (i : Nat) : List XVal :=
  let f64 := d.fmt = 0
  let c := m.bank d.bank
  if d.epi then
    ((epiRow m.epi ((List.range 64).map (fun j => cellPat c false i j)) side d.cols).take d.cols).map (decodeType 1)
  else (List.range d.cols).map (fun j => decodeType (if f64 then 0 else 1) (cellPat c f64 i j))

/-- Row i is written, or held in the drain staging of a gang member, and its cells cleared where asked (R255, R332). -/
def State.drainOut (s : State) (t : Nat) (gang : Bool) (d : Drain) (side : List Nat) (i : Nat) : State × Option (BitVec 8) :=
  let z := typeBytes d.fmt
  let a := d.target + i * d.rowStep
  match s.mtspFault t a (d.cols * z) z false with
  | some c => (s, some c)
  | none =>
    let m := s.mx t
    let bs := (m.drainRow d side i).flatMap (fun x => leBytes z (d.store x))
    let clear (m : Matrix) : Matrix :=
      if d.clr then m.setBank d.bank ((List.range d.cols).foldl (fun c j => cellPut c (d.fmt = 0) i j 0) (m.bank d.bank))
      else m
    if gang then
      if 32768 < (m.staged.map (·.2.length)).foldl (· + ·) 0 + bs.length then (s, some 0x1c)
      else (s.mapMx t (fun m => { clear m with staged := m.staged ++ [(a, bs)] }), none)
    else ((s.write (tspAddr t a) bs).mapMx t clear, none)

/-- The rows of a drain in order; an access that fails leaves the rows before it (R258). -/
def State.drainRows (s : State) (t : Nat) (gang : Bool) (d : Drain) : Nat → List (List Nat) → State × Option (BitVec 8)
  | _, [] => (s, none)
  | i, side :: rest =>
    match s.drainOut t gang d side i with
    | (s, some c) => (s, some c)
    | (s, none) => s.drainRows t gang d (i + 1) rest

/-- The side operand's rows as `f32` patterns; without `side` a source code 1 reads values the spec does not state
(R255, R257; log entry 19). -/
def State.sideRows (s : State) (t : Nat) (side : Bool) (ms mm : BitVec 3) (msk : BitVec 1) (rows cols : Nat) :
    State × Except (BitVec 8) (List (List Nat)) :=
  let m := s.mx t
  let w := m.reg ms
  let fmt := shField w 60 4
  if !side then
    ({ s with fresh := s.fresh + 4096 }, .ok ((List.range rows).map (fun i => (List.range 64).map (fun j =>
      (Config.freeWord (s.fresh + 64 * i + j)).toNat % 2 ^ 32))))
  else if fmt ≠ 1 ∧ fmt ≠ 2 then (s, .error 0x1c)
  else
    let addrs := (List.range rows).map (fun i => (shField w 0 20 + i * shField w 20 20 : Nat) + m.rowDelta mm msk i)
    match s.readRows t cols (typeBytes fmt) addrs with
    | .error c => (s, .error c)
    | .ok vs => (s, .ok (vs.map (·.map (fun p => if fmt = 2 then p.toNat * 2 ^ 16 else p.toNat))))

/-- `mu.drain` (R255). -/
def execMuDrain (k : BitVec 1) (t : BitVec 3) (e d : BitVec 1) (m : BitVec 3) (c x : BitVec 1) (u : BitVec 3) (s : State) :
    Result :=
  s.micro (fun y => y.bankHeld k) (fun n r =>
    let y := s.mx n
    let w := y.reg t
    let fmt := shField w 60 4
    let cols := shCols y.shape
    let dr : Drain := ⟨y.physBank k, fmt, (w.extractLsb' 52 8).toInt, shField w 20 20, shField w 0 20, cols, e = 1, c = 1⟩
    if shField w 40 12 ≠ 0 ∨ 5 < fmt ∨ (fmt = 0 ∧ (e = 1 ∨ 32 < cols)) ∨ (e = 1 ∧ y.epi = []) then (s, .error 0x1c)
    else match s.sideRows n (d = 1) m u x (shRows y.shape) cols with
      | (s, .error c) => (s, .error c)
      | (s, .ok side) => match s.drainRows n r.gang.isSome dr 0 side with
        | (s, some c) => (s, .error c)
        | (s, none) => (s, .ok (r.upc + 1)))

/-! ### Loops, barriers and the end (R253, R254) -/

/-- The microword after the `mu.endl` that matches a skipped `mu.loop`, found by nesting; none where `mu.end` or the end
of the store comes first (R253). -/
def Matrix.skipLoop (m : Matrix) : Nat → Nat → Nat → Option Nat
  | 0, _, _ => none
  | n + 1, depth, p =>
    match (m.store.get 0 p).toNat / 2 ^ 26 with
    | 0x0d => none
    | 0x09 => m.skipLoop n (depth + 1) (p + 1)
    | 0x0a => if depth = 0 then some (p + 1) else m.skipLoop n (depth - 1) (p + 1)
    | _ => m.skipLoop n depth (p + 1)

/-- `mu.loop` (R248, R253). -/
def execMuLoop (r : BitVec 1) (m : BitVec 3) (i : BitVec 16) (s : State) : Result :=
  s.micro (fun _ => false) (fun t q =>
    let x := s.mx t
    let count := if r = 1 then (x.reg m).toNat % 2 ^ 32 else i.toNat
    if r = 1 ∧ i ≠ 0 then (s, .error 0x1c)
    else if count = 0 then
      match x.skipLoop (1023 - q.upc) 0 (q.upc + 1) with
      | some p => (s, .ok p)
      | none => (s, .error 0x1c)
    else if x.loops.length = 4 then (s, .error 0x1c)
    else (s.mapMx t (fun x => { x with loops := ⟨q.upc + 1, count⟩ :: x.loops }), .ok (q.upc + 1)))

/-- `mu.endl` (R253). -/
def execMuEndl (s : State) : Result :=
  s.micro (fun _ => false) (fun t q =>
    match (s.mx t).loops with
    | [] => (s, .error 0x1c)
    | l :: rest =>
      if 1 < l.left then (s.mapMx t (fun x => { x with loops := { l with left := l.left - 1 } :: rest }), .ok l.start)
      else (s.mapMx t (fun x => { x with loops := rest }), .ok (q.upc + 1)))

/-- `mu.sig` (R254). -/
def execMuSig (b : BitVec 11) (s : State) : Result :=
  s.micro (fun _ => false) (fun t q => (s.arrive t b.toNat 0 0, .ok (q.upc + 1)))

/-- A barrier of a tile, as it stands. -/
def Seq.bar (q : Seq) (n : Nat) : Barrier := q.bars.get {} n

/-- A wait begins at a barrier, and ends. -/
def Seq.beginWait (q : Seq) (n key : Nat) : Seq :=
  { q with bars := q.bars.set {} n { q.bar n with waits := (q.bar n).waits.put key .pending } }
def Seq.endWait (q : Seq) (n key : Nat) : Seq :=
  { q with bars := q.bars.set {} n { q.bar n with waits := (q.bar n).waits.erase key } }

/-- `mu.wait` waits until the barrier's phase differs from its value when the micro-op began; a nonzero status ends the
routine (R254). -/
def execMuWait (b : BitVec 11) (s : State) : Result :=
  let t := s.tileNo
  let q := (s.tile t).seq
  let n := b.toNat
  match (s.mx t).running with
  | none => .next s
  | some r =>
    if n = 0 || !(q.bar n).init then s.micro (fun _ => false) (fun _ r => (s, .ok (r.upc + 1)))
    else if !r.begun then
      .next (if (s.tile t).microOpen r then
          (s.mapSeq (.tile t) (·.beginWait n microWait)).mapMx t (fun m => { m with running := some { r with begun := true } })
        else s)
    else match (q.bar n).waits.get? microWait with
      | some .pending => .next s
      | some (.released st _ _) =>
        s.micro (fun _ => false) (fun t r =>
          (s.mapSeq (.tile t) (·.endWait n microWait), if st = 0 then .ok (r.upc + 1) else .error st))
      | none => s.micro (fun _ => false) (fun _ r => (s, .ok (r.upc + 1)))

/-- `mu.end` completes the routine (R254, R258). -/
def execMuEnd (s : State) : Result := s.micro (fun _ => false) (fun _ _ => (s, .error 0))

/-- A fetch beyond word 1,023, or of a word that is no micro-op, ends the routine with 0x1C (R156, R247). -/
def execMatrixFault (t : Nat) (s : State) : Result :=
  .next (match (s.mx t).running with
    | none => s
    | some r =>
      let bad := decide (1023 < r.upc) || (decodeMicro ((s.mx t).store.get 0 r.upc)).isNone
      if bad && (s.tile t).microOpen r then s.endRoutine t r 0x1c false else s)

/-! ### Gangs (R330 to R335) -/

/-- `mgang` (R330, R331, R334). -/
def execMgang (_h : Hdr) (r : BitVec 6) (_a : BitVec 6) (s : State) : Result :=
  let t := s.tileNo
  if (s.mx t).busy then .next s else
  let a := s.ctx.va.toNat % 2 ^ 64
  let grp := a % 256
  let bar := a / 256 % 2048
  let d := dieOf (groveOf t)
  if a / 2 ^ 19 ≠ 0 ∨ grp = 0 ∨ s.inGroup t grp = false then .next (s.issueTrap 0x14 0)
  else
    let s := s.accept
    let rank := s.rankOf t grp
    .next (match (s.die d).gangs.get? grp with
      | some g =>
        if g.routine ≠ r.toNat ∨ g.bar ≠ bar then s.abortGang d grp 0x1a 0x14 rank
        else (s.mapDie d (fun x => { x with gangs := x.gangs.put grp { g with joined := g.joined ++ [rank] } })).startRoutine
          t r.toNat bar (some grp)
      | none =>
        let g : Gang := ⟨r.toNat, bar, s.cycle + (s.tile t).seq.ctl.gangwait.toNat, [rank], []⟩
        (s.mapDie d (fun x => { x with gangs := x.gangs.put grp g })).startRoutine t r.toNat bar (some grp))

/-- The panes that a member's staged drains target are all the engines' (R333). -/
def State.stagedOk (s : State) (t : Nat) : Bool :=
  (s.mx t).staged.all (fun e => (s.tile t).enginesReach e.1 e.2.length)

/-- The staged drains of a member are performed, and its routine ends (R333). -/
def State.performStaged (s : State) (t : Nat) : State :=
  ((s.mx t).staged.foldl (fun s e => s.write (tspAddr t e.1) e.2) s).mapMx t (·.stopRoutine)

/-- Every member has joined and every routine has reached its end: the staged drains are checked and performed, and
every member's barrier takes one arrival (R333). -/
def execGangComplete (d g : Nat) (s : State) : Result :=
  .next (match (s.die d).gangs.get? g with
    | none => s
    | some i =>
      let ts := s.groupTiles d g
      let ranks := List.range ts.length
      if ranks.all (fun k => i.joined.contains k && i.finished.contains k) then
        match ranks.find? (fun k => !s.stagedOk ((ts[k]?).getD 0)) with
        | some k => s.abortGang d g 0x1a 0x0a k
        | none =>
          let s := ts.foldl State.performStaged s
          let s := s.mapDie d (fun x => { x with gangs := x.gangs.erase g })
          ts.foldl (fun s t => s.arrive t i.bar 0 0) s
      else s)

/-- The lateness window closes with a member not joined (R334, R335). -/
def execGangLate (d g : Nat) (s : State) : Result :=
  .next (match (s.die d).gangs.get? g with
    | none => s
    | some i =>
      match (List.range (s.groupTiles d g).length).find? (fun k => !i.joined.contains k) with
      | some k => if i.deadline ≤ s.cycle then s.abortGang d g 0x1b 0x1b k else s
      | none => s)

end Sys2Proof.Machine
end

