-- ==== Sys2Proof/Machine/Landing.lean ====
section
/-!
DEFINITION. Results landing at one point (R115, R117, R118, R453), and landings: where a pre-emption or a quorum kill may
land, the drain, the save and the restoration of a context (R267 to R272), and the end of a freeze (R347, R372).
-/
namespace Sys2Proof.Machine

/-! ### Results that land -/

/-- Of two results, the one whose word stands later in dispatch order. -/
def laterOf (a b : Pending) : Pending := if a.num < b.num ∨ (a.num = b.num ∧ a.slot ≤ b.slot) then b else a

/-- A register takes two of the results, or its scoreboarded reply is outstanding (R118). -/
def Seq.collides (q : Seq) (rs : List Pending) (d : Dest) : Bool :=
  decide (2 ≤ (rs.filter (fun r => r.dest = d)).length) || q.reqs.any (fun r => r.dest = some d)

/-- A scoreboarded result still to come, as one of those that collide (R118). -/
def Req.pending (r : Req) : Pending := ⟨r.dest.getD (.s 0), 0, 0, r.num, r.pc, r.word, 0⟩

/-- Results land at one point: those that collide are not written, nor are the replies they collide with, and raise 0x06
with the bundle of the last of them by dispatch order (R118). -/
def State.landAt (s : State) (u : Agent) (rs : List Pending) : State :=
  let q := s.seqOf u
  let s := (rs.filter (fun r => !q.collides rs r.dest)).foldl (fun s r => s.writeDest u r.dest r.val) s
  let cs := rs.filter (fun r => q.collides rs r.dest)
  match cs with
  | [] => s
  | r :: _ =>
    let hit (p : Req) : Bool := cs.any (fun c => p.dest = some c.dest)
    let l := (cs ++ (q.reqs.filter hit).map Req.pending).foldl laterOf r
    s.mapSeq u (fun q => { q with
      reqs := q.reqs.map (fun p => if hit p then { p with dest := none } else p)
      traps := q.traps ++ [⟨0x06, trapInfo l.word 0 l.slot, l.slot, some l.pc, none⟩] })

/-- The scalar results in flight land in the order of the points at which they would land (R453). -/
def State.drainLands (s : State) (u : Agent) : State :=
  let rs := (s.seqOf u).lands
  ((List.range 5).foldl (fun s d => s.landAt u (rs.filter (fun r => r.delay = d))) s).mapSeq u (fun q => { q with lands := [] })

/-- The late writers' results held land together at a realignment point (R117). -/
def State.landLates (s : State) (u : Agent) : State :=
  (s.landAt u (s.seqOf u).lates).mapSeq u (fun q => { q with lates := [] })

/-- One bundle time passes: results due land, the others come nearer; after an inserted bundle only its own results count
it (R115, R426). -/
def State.tick (s : State) (u : Agent) (only : Option Nat) : State :=
  let rs := (s.seqOf u).lands
  let counts (r : Pending) : Bool := match only with
    | none => true
    | some n => r.num == n
  (s.landAt u (rs.filter (fun r => counts r && decide (r.delay ≤ 1)))).mapSeq u (fun q => { q with
    lands := (rs.filter (fun r => !(counts r && decide (r.delay ≤ 1)))).map (fun r =>
      if counts r then { r with delay := r.delay - 1 } else r) })

/-! ### Landings -/

/-- A gang holds the tile (R336). -/
def Tile.inGang (x : Tile) : Bool := match x.mx.running with
  | some r => r.gang.isSome
  | none => false

/-- `tsk.end` waits for its task's outcome (R193). -/
def Tile.requested (x : Tile) : Bool := (x.seq.queues.get [] 7).any (fun e => opOf e.word = 0x13)

/-- A quorum kill is pending for the tile's task (R341). -/
def Tile.killDue (x : Tile) : Bool := match x.task with
  | some k => k.killPending
  | none => false

/-- The point between two bundles is not one that R267 excludes; the forced save takes handlers too (R268). -/
def Tile.landingOpen (x : Tile) (forced : Bool) : Bool :=
  x.seq.run = .running && (forced || x.seq.handlers.isEmpty) && x.seq.prefixes.isEmpty && !x.seq.noTrap
    && !x.requested && !x.inGang && x.preempt ≠ some .saved && !x.landing?

/-- A pre-emption is requested and has not landed. -/
def Tile.preemptDue (x : Tile) : Bool := match x.preempt with
  | some (.requested _) => true
  | _ => false

/-- A tile whose region's task runs has an array to drain (R33). -/
def Tile.drains? (x : Tile) : Bool := x.inTask && x.freeze.isNone

/-- The commands that a landing pauses at once: all but `s.rec` and those that drain a port, which go on to the
firebreak (R230). -/
def Cmd.pauses (live : Bool) (c : Cmd) : Bool := !live || (c.drains.isNone && c.kind ≠ .recirc)

/-- An input port carries a firebreak that has not been consumed. -/
def Tile.portBroken (x : Tile) (n : Nat) : Bool :=
  match x.image.inPort n with
  | some (k, _) => (x.fab.edges.get [] k).any (fun w => w.kind = 2)
  | none => false

/-- A drain is requested: a firebreak is due on every input port the region reads but those fed by `s.rec` (R33). A drain
under way is joined, and no port gets a second firebreak (R36). -/
def Tile.startDrain (x : Tile) : Fabric :=
  if x.fab.draining then x.fab else
  let recs := x.str.cmds.filterMap (fun e => if e.2.kind = .recirc then some e.2.port else none)
  let ports := (List.range 16).filter (fun n => (x.image.inPort n).isSome && !recs.contains n && !x.portBroken n)
  { x.fab with draining := true, fed := ports }

/-- A drain is requested of a tile, and its commands pause or go on to the firebreak (R33, R230). One under way on a stopped clock is
joined: the commands that it goes by go on with it (R36). -/
def Tile.drainFor (x : Tile) (p : PreemptState) : Tile :=
  let live := x.drains? || x.fab.draining
  { x with
    preempt := some p
    fab := if x.drains? then x.startDrain else x.fab
    str := { x.str with cmds := x.str.cmds.map (fun e => (e.1, if e.2.pauses live then { e.2 with paused := true } else e.2)) } }

/-- The firebreaks that output ports hold are removed, and every node and command goes on (R35, R230). -/
def Tile.unfreeze (x : Tile) : Tile :=
  let outs := (x.image.edges.zipIdx).filterMap (fun e => if 208 ≤ eTo e.1 then some e.2 else none)
  { x with
    fab := { x.fab with
      draining := false, fed := []
      edges := (x.fab.edges.map (fun e => if outs.contains e.1 then (e.1, e.2.filter (fun w => w.kind ≠ 2)) else e)).filter
        (fun e => !e.2.isEmpty)
      elems := (x.fab.elems.map (fun e => (e.1, { e.2 with frozen := false }))).filter (fun e => e.2 ≠ {})
      ops := (x.fab.ops.map (fun e => (e.1, { e.2 with frozen := false }))).filter (fun e => e.2 ≠ {}) }
    str := { x.str with cmds := x.str.cmds.map (fun e => (e.1, { e.2 with paused := false })) } }

/-- A quorum kill takes effect: the drained state is discarded, and a pre-emption requested before it is due again (R272,
R341). -/
def State.finishKill (s : State) (t : Nat) : State :=
  (s.abortTask t .quorum 0).mapTile t (fun x => { x.unfreeze with preempt := match x.preempt with
    | some (.killing r) => r.map .requested
    | some (.landing _ _ _ _) => some (.requested s.cycle)
    | p => p })

/-- A quorum kill lands: by the same drain as a pre-emption, or at once on a frozen region (R272, R346). -/
def State.landKill (s : State) (t : Nat) : State :=
  if (s.tile t).drains? then s.mapTile t (fun x => x.drainFor (.killing (match x.preempt with
    | some (.requested k) => some k
    | _ => none)))
  else s.finishKill t

/-- Registers with a result in flight (R270). -/
def Seq.inFlight (q : Seq) : List Dest :=
  (q.lands.map (·.dest)) ++ (q.lates.map (·.dest)) ++ q.reqs.filterMap (·.dest)

/-- A landing: dispatch stops, a drain is requested and commands pause (R230, R269). A quorum kill pending lands in its
place (R272). -/
def State.land (s : State) (t : Nat) (ckpt : Option Nat) (full : Bool) : State :=
  if (s.tile t).killDue then s.landKill t
  else s.mapTile t (fun x => x.drainFor (.landing ckpt full x.seq.inFlight (x.str.cmds.filterMap (fun c => c.2.residue))))

/-- An output port has passed its firebreak to its command, or holds it where no command drains it (R35). -/
def Tile.portDrained (x : Tile) (n k : Nat) : Bool :=
  let broken := (x.fab.edges.get [] k).any (fun w => w.kind = 2)
  match x.str.cmds.find? (fun e => decide (e.2.drains = some n) && !e.2.done) with
  | some c => c.2.paused
  | none => broken

/-- The region of a tile is drained: its nodes are frozen, and no word is in flight but in output ports (R35). -/
def Tile.drained (x : Tile) : Bool :=
  if !x.fab.draining then true else
  let i := x.image
  x.fab.fed.isEmpty && i.elems.all (fun e => cOp e.2 = 0 || (x.elemAt e.1).frozen)
    && (List.range 128).all (fun n => let code := i.opCode (64 + n); code = 0 || code = 5 || (x.opAt (64 + n)).frozen)
    && (i.edges.zipIdx).all (fun e =>
      if 208 ≤ eTo e.1 then x.portDrained (eTo e.1 - 208) e.2 else (x.fab.edges.get [] e.2).isEmpty)

/-- The registers that a `ckpt` save does not keep read 0 after resumption; it keeps those with a result in flight at the
landing, residue registers of running commands among them (R270, R271). -/
def Tile.forget (x : Tile) (ckpt : Nat) (fly : List Dest) (held : List Nat) : Tile :=
  let e := x.live.get 0 ckpt
  if !(e.getLsbD 127 && decide ((e.extractLsb' 116 11).toNat = (x.seq.pc % 2048).toNat)) then x else
  let keepS (n : Nat) : Bool := e.getLsbD (80 + n) || fly.contains (.s n)
  let keepA (n : Nat) : Bool := e.getLsbD (64 + n) || fly.contains (.a n)
  let keepG (n : Nat) : Bool := e.getLsbD (48 + n) || fly.contains (.g n)
  let keepN (n : Nat) : Bool := e.getLsbD (32 + n) || held.contains n
  { x with
    seq := { x.seq with s := x.seq.s.filter (fun r => keepS r.1), a := x.seq.a.filter (fun r => keepA r.1) }
    g := x.g.filter (fun r => keepG r.1)
    nz := x.nz.filter (fun r => keepN r.1) }

/-- A pre-emption has landed and is not yet saved. -/
def Tile.lands? (x : Tile) : Bool := match x.preempt with
  | some (.landing _ _ _ _) => true
  | _ => false

/-- Every access in flight that no pause holds has performed: peer writes are acknowledged, stores and atomics have reached
their banks (R269). -/
def Tile.performed (x : Tile) : Bool :=
  x.str.cmds.all (fun c => c.2.unacked.isEmpty) && x.mx.tokens.all (fun k => k.cmd.unacked.isEmpty)
    && x.seq.allReqs.all (fun r => r.val.isSome || (match r.kind with
      | .load _ => true
      | _ => false))

/-- A member of a region does not hold up its save: it runs no kernel, or it has landed and drained; a frozen one is
saved as it stands (R269, R272, R303). -/
def Tile.saveReady (x : Tile) : Bool :=
  x.seq.run ≠ .running || x.preempt = some .saved || (x.lands? && (x.freeze.isSome || (x.drained && x.performed)))

/-- The context of a tile that has landed is written to shadow storage, with the whole of its region (R269 to R272); the
read of the array checks its parity (R37, R39). -/
def State.saveRegion (s : State) (t : Nat) : State :=
  let ms := s.regionTiles (dieOf (groveOf t)) (s.regionOf t)
  if !ms.all (fun m => (s.tile m).saveReady) then s
  else match ms.find? (fun m => (s.tile m).lands? && (s.tile m).saveBad) with
  | some m => s.softError m
  | none => ms.foldl (fun s m => s.mapTile m (fun x => match x.preempt with
      | some (.landing (some n) false fly held) => { x.forget n fly held with preempt := some .saved }
      | some (.landing _ _ _ _) => { x with preempt := some .saved }
      | _ => x)) s

/-- A context restored goes on: its nodes and commands too. A tile whose clock was stopped in the middle of a drain keeps that
drain (R35, R269; log entry 59). -/
def Tile.resume (x : Tile) : Tile :=
  let y := { x with preempt := none, seq := { x.seq with ctl := { x.seq.ctl with preq := 0 } } }
  if x.freeze.isSome && x.fab.draining then y else y.unfreeze

/-- CONTEXT_SAVE: a tile that has landed is saved, or its quorum kill takes effect (R269, R272). A drain that no landing waits
for any more, because the clock stopped in the middle of it and the context was saved and restored there, ends when the
region is drained (log entry 59). -/
def execContextSave (t : Nat) (s : State) : Result :=
  let x := s.tile t
  .next (match x.preempt with
    | some (.landing _ _ _ _) => if x.killDue && !x.inGang then (if x.drained then s.finishKill t else s) else s.saveRegion t
    | some (.killing _) => if x.drained then s.finishKill t else s
    | none => if x.fab.draining && !x.still && x.drained then s.mapTile t Tile.unfreeze else s
    | _ => s)

/-- The deliveries that came while the context was saved change their counters now (R442, R443). -/
def Tile.recount (x : Tile) (now : Nat) : Tile :=
  { x with cntSince := x.cntKept.foldl (fun m c => m.put c now) x.cntSince, cntKept := [] }

/-- The request of a pre-emption is withdrawn: a tile that has landed goes on, and a quorum kill under way stays (R272, R404). -/
def Tile.withdrawn (x : Tile) : Tile :=
  let y := { x with seq := { x.seq with ctl := { x.seq.ctl with preq := 0 } } }
  match x.preempt with
  | none => x
  | some (.requested _) => { y with preempt := none }
  | some (.killing _) => { y with preempt := some (.killing none) }
  | some _ => x.resume

/-- A saved context goes on where it stopped; a task killed meanwhile ends at once (R269, R272, R404). -/
def State.restoreTile (s : State) (t : Nat) : State :=
  let s := s.mapTile t (fun x => x.resume.recount s.cycle)
  if (s.tile t).killDue then s.abortTask t .quorum 0 else s

/-- A pre-emption is requested of a tile; one that runs no kernel lands if it is started before the request ends (R267, R401). -/
def Tile.askPreempt (x : Tile) (now : Nat) : Tile :=
  if x.preempt.isSome then x else
  { x with
    preempt := some (.requested now)
    seq := { x.seq with ctl := { x.seq.ctl with preq := x.seq.ctl.preq ||| (if x.seq.ctl.pmax = 0 then 3 else 1) } } }

/-- A pre-emption is requested of a tile that runs a kernel (R267, R308). -/
def State.requestPreempt (s : State) (t : Nat) : State :=
  s.mapTile t (fun x => if x.seq.run = .running then x.askPreempt s.cycle else x)

/-- A sequencer's context is captured at the next point between two bundles outside a handler (R401). -/
def State.landSeq (s : State) (g : Nat) : State :=
  let x := s.grove g
  match x.preempt with
  | some (.requested _) =>
    if x.seq.handlers.isEmpty && x.seq.prefixes.isEmpty && !x.seq.noTrap then s.setGrove g { x with preempt := some .saved }
    else s
  | _ => s

/-- The limit `pmax` of a request has passed (R268). -/
def State.forceDue (s : State) (t : Nat) : Bool :=
  match (s.tile t).preempt with
  | some (.requested since) => decide (since + (s.tile t).seq.ctl.pmax.toNat ≤ s.cycle)
  | _ => false

/-- A full save is forced at the next point that R267 does not exclude, handlers included (R268). -/
def State.forceHere (s : State) (t : Nat) : State :=
  if s.forceDue t && (s.tile t).landingOpen true then
    (s.mapTile t (fun x => { x with seq := { x.seq with ctl := { x.seq.ctl with preq := x.seq.ctl.preq ||| 2 } } })).land t none true
  else s

/-- FORCED_SAVE of the focus tile (R268). -/
def execForcedSave (s : State) : Result :=
  .next (match s.focus with
    | .seq _ => s
    | .tile t => s.forceHere t)

/-- A quorum kill may land: at an iteration boundary, or on a frozen region at once; not in a gang, a handler or behind an
`ext` (R336, R341, R346). -/
def State.killOpen (s : State) (t : Nat) : Bool :=
  let x := s.tile t
  x.killDue && !x.inGang && x.preempt ≠ some .saved && (x.freeze.isSome ||
    (!x.landing? && x.seq.boundary && x.seq.handlers.isEmpty && x.seq.prefixes.isEmpty && !x.seq.noTrap))

/-- A quorum kill lands where it may (R341, R346). -/
def State.killHere (s : State) (t : Nat) : State := if s.killOpen t then s.landKill t else s

/-- QUORUM_KILL_LANDING (R341, R346). -/
def execQuorumKillLanding (t : Nat) (s : State) : Result := .next (s.killHere t)

end Sys2Proof.Machine
end

