-- ==== Sys2Proof/Machine/Migration.lean ====
section
/-!
DEFINITION. The placement of a grove's tiles: writing `place` (R287, R288), migrations (R308, R309), and the other writes
to grove registers that act at once (R297, R298, R306).
-/
namespace Sys2Proof.Machine

/-- A run of bytes with its poison is copied to another place. -/
def Mem.copy (m : Mem) (a b n : Nat) : Mem :=
  let inSrc (k : Nat) : Bool := decide (a ≤ k) && decide (k < a + n)
  let inDst (k : Nat) : Bool := decide (b ≤ k) && decide (k < b + n)
  { m with
    bytes := (m.bytes.filter (fun c => inSrc c.1)).foldl (fun (acc : Memory) c => acc.write (b + (c.1 - a)) c.2)
      (m.bytes.filter (fun c => !inDst c.1))
    poison := (m.poison.filter inSrc).foldl (fun acc k => insertNat (b + (k - a)) acc)
      (m.poison.filter (fun k => !inDst k)) }

/-- The supervisor registers and the ASID, which no context holds (R270). -/
def Ctl.superOf (a b : Ctl) : Ctl :=
  { a with
    asid := b.asid, codebase := b.codebase, codebound := b.codebound, spillbase := b.spillbase, spillpanes := b.spillpanes
    trerun := b.trerun, pmax := b.pmax }

/-- What `mstat` tells of routines that have ended, which R235 does not list and no context holds: it stays with the physical tile
(R245, R270; log entry 29). -/
def Matrix.withCounts (m y : Matrix) : Matrix :=
  { m with done := y.done, cause := y.cause, info := y.info, aborted := y.aborted, upc := y.upc, routine := y.routine }

/-- What a physical tile keeps when its context leaves for shadow storage: its memories' owner bits, the stores of the matrix
unit and what it tells of past routines, its live-range table, words that have arrived, its translations and its supervisor registers (R270). -/
def Tile.swapOut (x : Tile) : Tile :=
  { own := x.own, live := x.live, landing := x.landing, tlb := x.tlb
    mx := ({ store := x.mx.store, table := x.mx.table, epi := x.mx.epi } : Matrix).withCounts x.mx
    str := { issued := x.str.issued }
    seq := { inserted := x.seq.inserted, ctl := ({} : Ctl).superOf x.seq.ctl } }

/-- A physical tile with the stores of another one copied to it, those that stand beside its memories: the stores of the matrix unit,
the live-range table and the resident configurations (R308). -/
def Tile.withStores (y x : Tile) : Tile :=
  { y with
    live := x.live
    mx := { y.mx with store := x.mx.store, table := x.mx.table, epi := x.mx.epi }
    fab := { y.fab with slots := x.fab.slots }
    seq := { y.seq with inserted := x.seq.inserted } }

/-- A position's context comes to a physical tile: all of it where a kernel runs, otherwise the condition in which the old tile
stands; its own owner bits and translations stay (R270, R308; log entry 29). -/
def Tile.enterFrom (y x : Tile) : Tile :=
  if x.seq.run = .running then { x with own := y.own, tlb := y.tlb, mx := x.mx.withCounts y.mx }
  else { y.withStores x with
    landing := x.landing, task := x.task, freeze := x.freeze, preempt := x.preempt
    seq := { y.seq with run := x.seq.run, pc := x.seq.pc, ctl := x.seq.ctl, inserted := x.seq.inserted } }

/-- A physical tile that its position has left. -/
def Tile.leave (x : Tile) : Tile :=
  if x.seq.run = .running then x.swapOut
  else { x with landing := [], task := none, freeze := none, preempt := none, seq := { x.seq with run := .idle } }

/-- The stores and the context of a tile go to another physical tile (R270, R308). -/
def State.moveTile (s : State) (a b : Nat) : State :=
  let x := s.tile a
  let m := ((s.mem.copy (tspAddr a 0) (tspAddr b 0) 0x100000).copy (wbAddr a 0) (wbAddr b 0) 0x40000).copy (codeAddr a 0)
    (codeAddr b 0) 0x10000
  let s := ({ s with mem := m }.setTile b ((s.tile b).enterFrom x)).setTile a x.leave
  s.mapDie (dieOf (groveOf a)) (fun d => { d with
    writeback := d.writeback.map (fun e => if e.tile = a then { e with tile := b } else e)
    commits := d.commits.map (fun c => if c.tile = a then { c with tile := b } else c) })

/-- The launch of a partition is to make way for another one. -/
def State.preempted (s : State) (g : Nat) : Bool :=
  match s.partOf g with
  | some (p, _) => (s.hub.partRuns.get {} p).waiting.isSome
  | none => false

/-- The migration of a grove completes: the position is served by the new tile, and kind 11 is posted (R299, R308). -/
def State.completeMigration (s : State) (g : Nat) (m : Migration) : State :=
  ((s.moveTile m.src m.dst).mapGrove g (fun x => { x with place := m.newRet, migration := none })).postEvent g
    (evRecord 11 0 0xff 0 (posOf m.dst) 0)

/-- The migrations under way of a die's tiles, with their groves. -/
def State.migrationsOf (s : State) (d : Nat) (ts : List Nat) : List (Nat × Migration) :=
  (List.range 10).filterMap (fun i => match (s.grove (10 * d + i)).migration with
    | some m => if ts.contains m.src then some (10 * d + i, m) else none
    | none => none)

/-- The migrations of a region complete together, and the contexts saved for them go on (R303, R308). -/
def State.migrateRegion (s : State) (g : Nat) (ts : List Nat) : State :=
  let ms := s.migrationsOf (dieOf g) ts
  let s := ms.foldl (fun s e => s.completeMigration e.1 e.2) s
  if s.preempted g then s else
  (ts.map (fun t => match ms.find? (fun e => e.2.src = t) with
    | some e => e.2.dst
    | none => t)).foldl (fun s t => if (s.tile t).preempt = some .saved then s.restoreTile t else s) s

/-- A member of a region does not hold up its migration: no gang holds it, and it runs no kernel or its context is saved (R303, R308,
R336). -/
def Tile.mayMove (x : Tile) : Bool := !x.inGang && (x.seq.run ≠ .running || x.preempt = some .saved)

/-- A value that `place` refuses (R288). -/
def placeBad (old : BitVec 5) (v : Word) : Bool :=
  let r := v.toNat
  decide (32 ≤ r) || (decide (16 ≤ r) && decide (r ≤ 30)) || (decide (r < 16) && decide (old.toNat < 16) && decide (r ≠ old.toNat))

/-- A change of `place` starts a migration: at once where the old tile runs no kernel, otherwise at its landing, and in a gang at
the end of its instance (R308, R336). -/
def State.startMigration (s : State) (g : Nat) (new : BitVec 5) : State :=
  let old := (s.grove g).place
  if old = new then s else
  let l := if new = 31 then old.toNat else new.toNat
  let m : Migration := ⟨l, tileAt g (if new = 31 then 16 else l), tileAt g (if new = 31 then l else 16), new⟩
  let x := s.tile m.src
  if x.seq.run = .running || x.inGang then
    let s := (s.regionTiles (dieOf g) (s.regionOf m.src)).foldl (fun s t => s.requestPreempt t) s
    s.mapGrove g (fun x => { x with migration := some m })
  else s.completeMigration g m

/-- A migration whose old tile has no kernel any more completes before a kernel is started there; where other members of the region still
run, the requests made of them for it are withdrawn (R308). -/
def State.hastenMigration (s : State) (g : Nat) (m : Migration) : State :=
  let ts := s.regionTiles (dieOf g) (s.regionOf m.src)
  if ts.all (fun t => (s.tile t).mayMove) then s.migrateRegion g ts
  else
    let s := s.completeMigration g m
    if s.preempted g || !(s.migrationsOf (dieOf g) ts).isEmpty then s else
    ts.foldl (fun s t => if t = m.src then s else s.mapTile t (fun x => x.withdrawn.recount s.cycle)) s

/-- MIGRATION_COMPLETE (R308): every member of the region has been saved, or its kernel has ended, and the members migrate together
(R303). -/
def execMigrationComplete (g : Nat) (s : State) : Result :=
  .next (match (s.grove g).migration with
    | none => s
    | some m =>
      let ts := s.regionTiles (dieOf g) (s.regionOf m.src)
      if ts.all (fun t => (s.tile t).mayMove) then s.migrateRegion g ts else s)

/-- A write of `place` by management firmware (R288, R308); one that is refused writes nothing, and one that meets a
migration waits for it. -/
def execPlaceWrite (g : Nat) (v : BitVec 64) (s : State) : Result :=
  .next (if (s.grove g).migration.isSome || placeBad (s.grove g).place v then s else s.startMigration g (v.setWidth 5))

/-- The head event is removed, and an event that waited enters (R298). -/
def Grove.popEvent (x : Grove) : Grove :=
  match x.waiting with
  | [] => { x with events := x.events.drop 1 }
  | e :: rest => if x.events = [] then x else { x with events := x.events.drop 1 ++ [e], waiting := rest }

/-- EVPOP_WRITE (R297, R298). -/
def execEvpopWrite (g : Nat) (s : State) : Result := .next (s.mapGrove g Grove.popEvent)

/-- A capacity of the bucket: 0 stores 1, and a level above it is lowered (R297, R306). -/
def Grove.setDepth (x : Grove) (v : Word) : Grove :=
  let d : BitVec 16 := if v.setWidth 16 = (0 : BitVec 16) then 1 else v.setWidth 16
  { x with bkdepth := d, bklevel := min x.bklevel (d.toNat * 256) }

/-- BKDEPTH_WRITE by management firmware (R297, R306). -/
def execBkdepthWrite (g : Nat) (v : BitVec 64) (s : State) : Result := .next (s.mapGrove g (·.setDepth v))

end Sys2Proof.Machine
end

