-- ==== Sys2Proof/Machine/System.lean ====
section
/-!
DEFINITION. Slot V: barriers (R181 to R183), owner bits (R125, R184), fences (R185, R327), stream waits (R186), control
registers (R121, R122, R187, R297, R300), returns and `halt` (R188, R189). The words of this slot that wait hold the V
queue; `fence`, `tret`, `uiret` and `halt` hold dispatch as well.
-/
namespace Sys2Proof.Machine

/-! ### Barriers -/

/-- The head of the context's queue has begun, at a position. -/
def State.begin (s : State) (pos : Nat) : State :=
  s.mapSeq s.focus (fun q =>
    let k := s.ctx.slot.index
    match q.queues.get [] k with
    | [] => q
    | e :: rest => { q with queues := q.queues.set [] k ({ e with begun := true, pos := pos } :: rest) })

/-- `bar.init` (R182); its count is checked at dispatch. -/
def execBarInit (_h : Hdr) (b : BitVec 11) (i : BitVec 8) (s : State) : Result :=
  let n := b.toNat
  .next (s.mapSeq s.focus (fun q => if n = 0 then q else { q with
    bars := q.bars.set {} n { q.bar n with
      init := true, expected := .ofNat 16 (immUnsigned s.ctx.ext i), arrived := 0, status := 0, info := 0, report := none } })).accept

/-- `bar.arr` (R182). -/
def execBarArr (_h : Hdr) (b : BitVec 11) (s : State) : Result :=
  .next (s.mapSeq s.focus (fun q => q.arrive b.toNat 0 0)).accept

/-- A wait of slot V at a barrier, with an arrival of its own as it begins (R129, R182, R183). -/
def State.barrierWait (s : State) (n : Nat) (arrives : Bool) : State :=
  let u := s.focus
  let q := s.seqOf u
  let key := q.handlers.length
  if n = 0 || !(q.bar n).init then s.accept
  else if !s.ctx.begun then
    let s := (s.mapSeq u (·.beginWait n key)).begin 0
    if arrives then s.mapSeq u (fun q => q.arrive n 0 0) else s
  else match (q.bar n).waits.get? key with
    | some .pending => s
    | some (.released st info rep) =>
      let s := (s.mapSeq u (·.endWait n key)).accept
      if st = 0 then s else
      s.raise u st (rep.getD (trapInfo s.ctx.word (n * 2 ^ 16 + info.toNat) s.ctx.slot.index)) s.ctx.slot.index
    | none => s.accept

/-- `bar.wait` (R182, R183). -/
def execBarWait (_h : Hdr) (b : BitVec 11) (s : State) : Result := .next (s.barrierWait b.toNat false)

/-- `bar.aw` (R182, R183). -/
def execBarAw (_h : Hdr) (b : BitVec 11) (s : State) : Result := .next (s.barrierWait b.toNat true)

/-! ### Owner bits -/

/-- Elements of a geometry from number `k` on touch TSP bytes `lo` to `hi` − 1. -/
def gTouches (g : Vec) (k lo hi : Nat) : Bool := gMeets g k 0 lo (hi - lo)

/-- A run of TSP bytes from a geometry's base on, of which `from_` are past, touches bytes `lo` to `hi` − 1. -/
def runTouches (g : Vec) (from_ n lo hi : Nat) : Bool :=
  let b := (gBase g).toNat
  decide (gSpace g = 0) && decide (b + from_ < hi) && decide (lo < b + n)

/-- The geometry that a command reads in visit order from element `k` on has still to touch TSP bytes: the bytes of its `pk8`
blocks, which follow its first one, lie within 33 for each (R203). -/
def srcTouches (g : Vec) (k past lo hi : Nat) : Bool :=
  if gFmt g = 6 then decide (k < gCount g) && runTouches g past (33 * (gCount g / 32)) lo hi else gTouches g k lo hi

/-- As for a geometry read, for one written: the blocks of a `pk8` target follow the bytes written (R206). -/
def dstTouches (g : Vec) (k past lo hi : Nat) : Bool :=
  if gFmt g = 6 then decide (k < gCount g + 32) && runTouches g past (past + 33 * ((gCount g + 63 - k) / 32)) lo hi
  else gTouches g k lo hi

/-- Rows of a data geometry that an index picks may touch TSP bytes: every element of the geometry counts (R210). -/
def rowsTouch (c : Cmd) (lo hi : Nat) : Bool :=
  if gFmt c.geo = 6 then runTouches c.geo 0 (33 * (gCount c.geo / 32 + 1)) lo hi else gTouches c.geo 0 lo hi

/-- Values of a command on their way to its tile's TSP touch bytes of it. -/
def Cmd.dueTouches (c : Cmd) (lo hi : Nat) : Bool :=
  decide (c.dueSpace = 0) && c.kind ≠ .mcGeo
    && c.due.any (fun d => decide (d.addr.toNat < hi) && decide (lo < d.addr.toNat + d.bytes.length))

/-- A running command has still to touch TSP bytes (R125). -/
def Cmd.touches (c : Cmd) (lo hi : Nat) : Bool :=
  if c.done then false else
  let words := c.pos * (64 / gBytes c.geo)
  let index := gTouches c.index (c.pos * (if c.kind = .gather then 64 / gBytes c.geo else 1) / max 1 (rowLen c.geo)) lo hi
  let rows := decide (c.standAt < c.count) && (rowsTouch c lo hi || index)
  c.dueTouches lo hi || match c.kind with
  | .recirc | .drop | .bar | .chw | .chr | .tok => false
  | .const => decide (c.reply.length ≠ 64) && runTouches c.geo 0 64 lo hi
  | .resOut | .resIn => runTouches c.geo (64 * c.pos) 1088 lo hi
  | .feed | .mcPort => srcTouches c.geo words c.sent lo hi
  | .gather | .scatter => rows
  | .drain => dstTouches c.geo c.pos c.sent lo hi
  | .copy => srcTouches c.source c.pos c.taken lo hi || dstTouches c.target c.pos c.sent lo hi
  | .gatherCopy => rows || dstTouches c.other c.pos c.sent lo hi
  | .scatterCopy => rows || srcTouches c.other c.pos c.taken lo hi
  | .mcGeo => srcTouches c.geo (if gSpace c.other = 0 then words else words - 64 / gBytes c.geo)
      (if gSpace c.other = 0 then c.sent else 64 * (c.pos - 1)) lo hi
  | .wb => srcTouches c.geo (words - 64 / gBytes c.geo) (64 * (c.pos - 1)) lo hi

/-- The words of a transfer under way have still to touch TSP bytes (R177). -/
def Entry.transferTouches (e : Entry) (lo hi : Nat) : Bool :=
  let n := (e.word.toNat % 256) + 1
  let op := e.word.toNat / 2 ^ 24 % 128
  decide (2 ≤ op) && decide (op ≤ 5) && e.begun
    && decide (e.va.toNat + 64 * e.pos < hi) && decide (lo < e.va.toNat + 64 * n)

/-- The words of a unit in a queue, those that handlers have interrupted with them. -/
def Seq.allQueued (q : Seq) (k : Nat) : List Entry := q.queues.get [] k ++ q.handlers.flatMap (fun h => h.image.queues.get [] k)


/-- Some engine access issued earlier has still to touch TSP bytes (R125); a running routine is not waited for (R260). -/
def Tile.reaching (x : Tile) (lo hi : Nat) : Bool :=
  x.str.cmds.any (fun c => c.2.touches lo hi) || x.mx.tokens.any (fun k => k.cmd.dueTouches lo hi || dstTouches k.cmd.geo k.cmd.pos k.cmd.sent lo hi)
    || x.mx.mups.any (fun l => gTouches l.entry.g0 l.pos lo hi) || x.mx.mepis.any (fun l => gTouches l.entry.g0 l.pos lo hi)
    || x.fab.loads.any (fun l => srcTouches l.2.entry.g0 0 0 lo hi) || (x.seq.allQueued 6).any (fun e => e.transferTouches lo hi)

/-- A multicast of a tile has still to write its copy into the tile's own TSP bytes (R125, R214). -/
def State.castTouches (s : State) (t : Nat) (c : Cmd) (lo hi : Nat) : Bool :=
  !c.done && c.kind = .mcGeo && ((s.castTiles t c).zipIdx).any (fun e => decide (e.1 = t) && c.live.contains e.2
    && dstTouches c.other (c.accepted.get 0 e.2 * (64 / gBytes c.geo)) 0 lo hi)

/-- `own`: a pane of the carve-out is refused; a flip to the core waits for the engines (R125, R127, R184). -/
def execOwn (_h : Hdr) (f : BitVec 8) (o : BitVec 1) (c : BitVec 8) (s : State) : Result :=
  let t := s.tileNo
  let x := s.tile t
  let ps := (List.range (c.toNat + 1)).map (· + f.toNat)
  if ps.any x.seq.ctl.inCarve then .next (s.issueTrap 0x0a 0)
  else if o = 0 && (x.reaching (4096 * f.toNat) (4096 * (f.toNat + c.toNat + 1))
      || x.str.cmds.any (fun k => s.castTouches t k.2 (4096 * f.toNat) (4096 * (f.toNat + c.toNat + 1)))) then .next s
  else .next (s.accept.mapTile t (fun x => { x with own := ps.foldl (fun m p => KMap.set 0 m p o) x.own }))

/-! ### Fences -/

/-- The scope within which the home node of a byte of a geometry lies: the tile 0, its grove 1, its die 2, the package 3, beyond 4;
HBM belongs to the die of its stack, and a page that is not mapped counts as the die's (R310, R327, R363). -/
def State.scopeAt (s : State) (t : Nat) (g : Vec) (a : Addr) : Nat := match gSpace g with
  | 0 | 6 => 0
  | 1 | 5 => 1
  | 2 => match (s.translate t (s.tile t).seq.ctl.asid a false false).2 with
    | .ok pa => if pa / 2 ^ 37 = dieOf (groveOf t) then 2 else 3
    | .fault _ => 2
  | _ => 4

/-- Some element of a geometry from number k on lies at a node within a scope; of `pk8` blocks, some page that they may reach. -/
def State.geoWithin (s : State) (t : Nat) (g : Vec) (k e : Nat) : Bool :=
  let as : List Addr := if gSpace g ≠ 2 then [gBase g]
    else if gFmt g = 6 then (List.range (33 * (gCount g / 32) / 65536 + 2)).map (fun i => gBase g + BitVec.ofNat 72 (65536 * i))
    else (List.range (gCount g - k)).map (fun j => gAddr g (k + j))
  decide (k < gCount g) && as.any (fun a => decide (s.scopeAt t g a ≤ e))

/-- The scope within which a tile lies for another one: itself 0, its grove 1, its die 2 (R327). -/
def tileScope (t m : Nat) : Nat := if m = t then 0 else if groveOf m = groveOf t then 1 else 2

/-- Values of a command on their way lie at a node within a scope. -/
def State.dueWithin (s : State) (t : Nat) (c : Cmd) (e : Nat) : Bool :=
  c.due.any (fun d => decide ((if c.kind = .mcGeo then tileScope t (s.dueTile t c d)
    else if c.kind = .wb then 0 else s.scopeAt t c.target d.addr) ≤ e))

/-- A member of a multicast into geometries has still to write within a scope (R214, R327). -/
def State.castWithin (s : State) (t : Nat) (c : Cmd) (e : Nat) : Bool :=
  ((s.castTiles t c).zipIdx).any (fun m => c.live.contains m.2 && (!c.ended || decide (c.accepted.get 0 m.2 < c.total))
    && decide (tileScope t m.1 ≤ e))

/-- A command has accesses to make to nodes within a scope, or words out to a peer without their responses. -/
def State.cmdWithin (s : State) (t : Nat) (c : Cmd) (e : Nat) : Bool :=
  let first := c.pos - c.buf.length / gBytes c.target
  let out := decide (4 ≤ e) && !(c.unacked.isEmpty && c.resend.isEmpty)
  if c.done then out else
  let rows := decide (c.standAt < c.count) && (s.geoWithin t c.index 0 e || s.geoWithin t c.geo 0 e)
  out || s.dueWithin t c e || match c.kind with
    | .recirc | .drop | .bar => false
    | .const => decide (c.reply.length ≠ 64) && decide (s.scopeAt t c.geo (gBase c.geo) ≤ e)
    | .wb => true
    | .mcGeo => (!c.ended && s.geoWithin t c.geo c.standAt e) || s.castWithin t c e
    | .copy => s.geoWithin t c.source c.pos e || s.geoWithin t c.target first e
    | .gather => rows
    | .scatter => rows || (decide (first < c.count) && s.geoWithin t c.geo 0 e)
    | .gatherCopy => rows || s.geoWithin t c.other first e
    | .scatterCopy => rows || s.geoWithin t c.other c.pos e || (decide (first < c.count) && s.geoWithin t c.geo 0 e)
    | .feed | .mcPort | .chr => s.geoWithin t c.geo c.standAt e
    | .drain | .chw => s.geoWithin t c.geo first e
    | .tok => decide (s.scopeAt t c.geo (gBase c.geo) ≤ e)
    | .resOut | .resIn => decide (c.pos < 17) && decide (s.scopeAt t c.geo (gBase c.geo) ≤ e)

/-- The scope of a transfer: 0 for a receive and for a send to the tile itself, 1 for any other send (R327). -/
def Entry.transferScope (e : Entry) (self : Nat) : Nat := match decodeN e.word with
  | some (.send _ p _ _ _) => if p.toNat = self then 0 else 1
  | some (.sendg _ _ _ _) => 1
  | _ => 0

/-- A word that a tile has sent within a scope stands in a landing queue: it has not been written to its receiver (R178, R327). -/
def State.sentWaits (s : State) (t e : Nat) : Bool :=
  (List.range 16).any (fun l =>
    let p := s.physOf (groveOf t) l
    decide ((if p = t then 0 else 1) ≤ e) && !((s.tile p).landing.get [] (s.logicalOf t)).isEmpty)

/-- An access that the tile issued before has not performed at a scope (R185, R314, R327). A routine writes the tile's own stores. -/
def State.fenceHeld (s : State) (t e : Nat) : Bool :=
  let x := s.tile t
  x.str.cmds.any (fun c => s.cmdWithin t c.2 e) || x.mx.running.isSome || x.mx.tokens.any (fun k => s.cmdWithin t k.cmd e)
    || x.mx.mups.any (fun l => s.geoWithin t l.entry.g0 l.pos e) || x.mx.mepis.any (fun l => s.geoWithin t l.entry.g0 l.pos e)
    || x.fab.loads.any (fun l => s.geoWithin t l.2.entry.g0 0 e)
    || (x.seq.allQueued 6).any (fun w => decide (2 ≤ w.word.toNat / 2 ^ 24 % 128) && decide (w.word.toNat / 2 ^ 24 % 128 ≤ 5) && w.begun
      && decide (w.transferScope (s.logicalOf t) ≤ e)) || s.sentWaits t e

/-- `fence` holds its queue and dispatch until every access named has performed (R185, R327). -/
def execFence (_h : Hdr) (e : BitVec 3) (s : State) : Result :=
  let q := s.seqOf s.focus
  let held := (decide (1 ≤ e.toNat) && q.allReqs.any (fun r => r.val.isNone)) || match s.focus with
    | .tile t => s.fenceHeld t e.toNat
    | .seq _ => false
  .next (if held then s else s.accept)

/-! ### Stream waits -/

/-- `swait` waits on a busy handle, and completes at the completion that it waits for (R186). -/
def execSwait (_h : Hdr) (st : BitVec 6) (s : State) : Result :=
  let t := s.tileNo
  let x := (s.tile t).str
  if (x.cmds.get? st.toNat).isSome then .next (if s.ctx.begun then s else s.begin 0) else
  .next (match x.faults.get? st.toNat with
    | none => s.accept
    | some f =>
      (s.accept.mapTile t (fun x => { x with str := { x.str with faults := x.str.faults.erase st.toNat } })).raise s.focus
        f.cause f.info s.ctx.slot.index)

/-! ### Control registers -/

/-- The control registers that tile cores and grove sequencers share (R121, R297). -/
def State.ctlCommon (s : State) (u : Agent) (i : Nat) : Option Word :=
  let c := (s.seqOf u).ctl
  match i with
  | 0x000 => some (BitVec.ofNat 64 s.cycle)
  | 0x002 => some (c.asid.setWidth 64)
  | 0x010 => some (c.codebase.setWidth 64)
  | 0x011 => some (c.codebound.setWidth 64)
  | 0x020 => some (c.tvec.setWidth 64)
  | 0x021 => some (c.trapcause.setWidth 64)
  | 0x022 => some (c.trappc.setWidth 64)
  | 0x023 => some c.trapinfo
  | _ => none

/-- A tile's control register by its index (R121). -/
def State.ctlTile (s : State) (t i : Nat) : Option Word :=
  let c := (s.tile t).seq.ctl
  let g := s.grove (groveOf t)
  match i with
  | 0x001 => some (s.tileid t)
  | 0x030 => some (c.uivec.setWidth 64)
  | 0x031 => some c.uipend
  | 0x032 => some c.uimask
  | 0x040 => some (c.spillbase.setWidth 64)
  | 0x041 => some (c.spillpanes.setWidth 64)
  | 0x050 => some (c.tstamp.setWidth 64)
  | 0x051 => some (c.tgroup.setWidth 64)
  | 0x052 => some c.tstatus
  | 0x053 => some (c.trerun.setWidth 64)
  | 0x060 => some (c.pmax.setWidth 64)
  | 0x061 => some (c.preq.setWidth 64)
  | 0x070 => some (c.gangwait.setWidth 64)
  | 0x080 => some (c.mclag.setWidth 64)
  | 0x100 => some (g.stilllimit.setWidth 64)
  | 0x101 => some (g.replylimit.setWidth 64)
  | i => s.ctlCommon (.tile t) i

/-- The register of the tile control window that an index selects (R300). -/
def windowIndex (i : Nat) : Option Nat := match i % 64 with
  | 0 => some 0x010
  | 1 => some 0x011
  | 2 => some 0x040
  | 3 => some 0x041
  | 4 => some 0x053
  | 5 => some 0x060
  | _ => none

/-- A grove sequencer's control register by its index (R297, R300). -/
def State.ctlGrove (s : State) (g i : Nat) : Option Word :=
  let x := s.grove g
  let c := x.seq.ctl
  let ev := x.events.head?
  match i with
  | 0x001 => some (BitVec.ofNat 64 (dieOf g * 2 ^ 14 + g % 10 * 2 ^ 10 + 0x3ff))
  | 0x100 => some (x.stilllimit.setWidth 64)
  | 0x101 => some (x.replylimit.setWidth 64)
  | 0x102 => some (x.place.setWidth 64)
  | 0x103 => some (x.bkrate.setWidth 64)
  | 0x104 => some (x.bkdepth.setWidth 64)
  | 0x105 => some (BitVec.ofNat 64 (x.bklevel / 256))
  | 0x110 => some (c.evvec.setWidth 64)
  | 0x111 => some (c.evpc.setWidth 64)
  | 0x112 => some ((ev.map (·.w0)).getD 0)
  | 0x113 => some ((ev.map (·.w1)).getD 0)
  | 0x114 => some (BitVec.ofNat 64 x.events.length)
  | 0x115 => some 0
  | 0x116 => some (BitVec.ofNat 64 (((List.range 16).map (fun l =>
      if (s.tile (s.physOf g l)).fab.latch then 2 ^ l else 0)).foldl (· + ·) 0))
  | i =>
    if 0xc00 ≤ i then (windowIndex i).bind (fun k => s.ctlTile (s.physOf g (i / 64 % 16)) k) else s.ctlCommon (.seq g) i

/-- `ctl.rd`: a late writer; an index outside the map raises 0x02 (R122, R187). -/
def execCtlRd (_h : Hdr) (d : BitVec 6) (i : BitVec 12) (s : State) : Result :=
  let v := match s.focus with
    | .tile t => s.ctlTile t i.toNat
    | .seq g => s.ctlGrove g i.toNat
  .next (match v with
    | some v => (s.late d v).accept
    | none => s.issueTrap 0x02 0)

/-- The supervisor registers of a tile, as the window and a kernel record write them (R121, R300, R349). -/
def Ctl.writeSuper (c : Ctl) (i : Nat) (v : Word) : Ctl := match i with
  | 0x010 => { c with codebase := v.setWidth 11 }
  | 0x011 => { c with codebound := v.setWidth 12 }
  | 0x040 => { c with spillbase := v.setWidth 8 }
  | 0x041 => { c with spillpanes := v.setWidth 9 }
  | 0x053 => { c with trerun := v.setWidth 8 }
  | 0x060 => { c with pmax := v.setWidth 32 }
  | _ => c

/-- A control write: done, or refused with a cause (R121, R122, R288, R297). -/
abbrev CtlWrite := Except (BitVec 8) State

/-- The registers of both maps that a program writes. -/
def Ctl.writeCommon (c : Ctl) (i : Nat) (v : Word) : Option Ctl := match i with
  | 0x020 => some { c with tvec := v.setWidth 11 }
  | 0x022 => some { c with trappc := v.setWidth 11 }
  | _ => none

/-- A write by a tile kernel; 0x0C for an R or S register, 0x02 outside the map (R121, R122, R187). -/
def State.ctlWriteTile (s : State) (t i : Nat) (v : Word) : CtlWrite :=
  let put (f : Ctl → Ctl) : CtlWrite := .ok (s.mapSeq (.tile t) (fun q => { q with ctl := f q.ctl }))
  match i with
  | 0x030 => put (fun c => { c with uivec := v.setWidth 11 })
  | 0x031 => put (fun c => { c with uipend := c.uipend &&& ~~~ v })
  | 0x032 => put (fun c => { c with uimask := v })
  | 0x070 => put (fun c => { c with gangwait := v.setWidth 32 })
  | 0x080 => put (fun c => { c with mclag := if v.setWidth 16 = (0 : BitVec 16) then 1 else v.setWidth 16 })
  | i => match (s.tile t).seq.ctl.writeCommon i v with
    | some c => put (fun _ => c)
    | none => if (s.ctlTile t i).isSome then .error 0x0c else .error 0x02

/-- A write by a grove sequencer (R288, R297, R298, R300). -/
def State.ctlWriteGrove (s : State) (g i : Nat) (v : Word) : CtlWrite :=
  let put (f : Grove → Grove) : CtlWrite := .ok (s.mapGrove g f)
  let ctl (f : Ctl → Ctl) : CtlWrite := .ok (s.mapSeq (.seq g) (fun q => { q with ctl := f q.ctl }))
  match i with
  | 0x100 => put (fun x => { x with stilllimit := v.setWidth 32 })
  | 0x101 => put (fun x => { x with replylimit := v.setWidth 32 })
  | 0x102 => if placeBad (s.grove g).place v then .error 0x14 else .ok (s.startMigration g (v.setWidth 5))
  | 0x110 => ctl (fun c => { c with evvec := v.setWidth 11 })
  | 0x111 => ctl (fun c => { c with evpc := v.setWidth 11 })
  | 0x115 => put Grove.popEvent
  | i =>
    if 0xc00 ≤ i then
      match windowIndex i with
      | some k => .ok (s.mapSeq (.tile (s.physOf g (i / 64 % 16))) (fun q => { q with ctl := q.ctl.writeSuper k v }))
      | none => .error 0x02
    else match (s.grove g).seq.ctl.writeCommon i v with
      | some c => ctl (fun _ => c)
      | none => if (s.ctlGrove g i).isSome then .error 0x0c else .error 0x02

/-- `ctl.wr` (R122, R187). A change of `place` that meets a migration waits for it. -/
def execCtlWr (_h : Hdr) (_a : BitVec 6) (i : BitVec 12) (s : State) : Result :=
  let v : Word := s.ctx.va.setWidth 64
  match s.focus with
  | .tile t => .next (match s.ctlWriteTile t i.toNat v with
    | .ok s' => s'.accept
    | .error c => s.issueTrap c 0)
  | .seq g =>
    if i.toNat = 0x102 ∧ (s.grove g).migration.isSome then .next s
    else .next (match s.ctlWriteGrove g i.toNat v with
      | .ok s' => s'.accept
      | .error c => s.issueTrap c 0)

/-! ### Returns and `halt` -/

/-- The unit's own queues hold nothing but the context's word, and no reply of its own is outstanding (R119, R189). -/
def Seq.alone (q : Seq) : Bool :=
  q.reqs.all (fun r => r.dest.isNone) && (List.range 8).all (fun k => if k = 7 then decide ((q.queues.get [] k).length ≤ 1) else (q.queues.get [] k).isEmpty)

/-- The wait before a return, and before a `halt`: results in flight land (R119, R453). -/
def State.settle (s : State) : State := (s.drainLands s.focus).landLates s.focus

/-- A return or a `halt` meets a trap of a word or result of its own code: the trap is taken first, and the word stays in its queue,
captured with the others (R119, R188, R189). -/
def Seq.trapFirst (q : Seq) : Bool := !q.traps.isEmpty

/-- `tret` returns from a trap handler to `trappc`, and from an event handler to `evpc` (R119, R188, R298). The depth of
the loop stack was checked at dispatch. -/
def execTret (_h : Hdr) (s : State) : Result :=
  let u := s.focus
  if !(s.seqOf u).alone then .next s else
  let s := s.settle
  let q := s.seqOf u
  if q.trapFirst then .next s else
  match q.handlers with
  | [] => .next s.accept
  | h :: _ =>
    let pc := if h.kind = .event then q.ctl.evpc.toNat else q.ctl.trappc.toNat
    .next ((s.accept.returnTo u pc).mapSeq u (fun q => { q with evGap := false }))

/-- `uiret` restores the bank and returns to the bundle that `s31` of the shadow bank names (R131). -/
def execUiret (_h : Hdr) (s : State) : Result :=
  let u := s.focus
  if !(s.seqOf u).alone then .next s else
  let s := s.settle
  let q := s.seqOf u
  if q.trapFirst then .next s else
  let pc := (q.readS 31).toNat % 2048
  .next (((s.accept.mapSeq u Seq.swapBank).returnTo u pc).mapSeq u (fun q => { q with uiGap := false }))

/-- Engines of a tile are still at work for it (R134, R189). -/
def Tile.engaged (x : Tile) : Bool :=
  !x.str.cmds.isEmpty || x.mx.running.isSome || !x.mx.tokens.isEmpty || !x.mx.mups.isEmpty || !x.mx.mepis.isEmpty

/-- `halt`, once no store of the unit is on its way that could still trap; in a handler the landing buffer is discarded, but for stores
and atomics on their way to their banks, which it does not hold (R119, R162, R168, R189, R453; log entry 23). -/
def execHalt (_h : Hdr) (s : State) : Result :=
  let u := s.focus
  let engaged := match u with
    | .tile t => (s.tile t).engaged
    | .seq _ => false
  if engaged || !(s.seqOf u).alone || !(s.seqOf u).reqs.isEmpty then .next s else
  let s := s.settle
  if (s.seqOf u).trapFirst then .next s else
  let s := s.accept.mapSeq u (fun q => { q with run := .halted, handlers := [], reqs := q.leftReqs })
  .next (match u with
    | .tile t => s.postTile t 1 0 0 0 0
    | .seq _ => s)

end Sys2Proof.Machine
end

