-- ==== Sys2Proof/Machine/Transfers.lean ====
section
/-!
DEFINITION. Slot N: transfers between the tiles of a grove (R177 to R180) and the arrival counters (R441 to R443).
-/
namespace Sys2Proof.Machine

/-! ### Transfers -/

/-- The checks of a transfer at issue: bounds, alignment, owner bits (R177). -/
def State.transferFault (s : State) (t n : Nat) : Option (BitVec 8) :=
  let a := s.ctx.va.toNat
  if 0x100000 < a + 64 * n then some 0x0b
  else if a % 64 ≠ 0 then some 0x09
  else if !(s.tile t).enginesReach a (64 * n) then some 0x0a
  else none

/-- A word is a transfer: `send`, `recv`, `recvadd` or `sendg` (R177, R180). -/
def Entry.transfers (e : Entry) : Bool :=
  let op := e.word.toNat / 2 ^ 24 % 128
  decide (2 ≤ op) && decide (op ≤ 5)

/-- The transfer under way of code that a handler has interrupted: the handler, counted from the innermost, and the word. A word
that has issued is not captured but goes on (R119). -/
def Seq.heldTransfer (q : Seq) : Option (Nat × Entry) :=
  q.handlers.zipIdx.findSome? (fun h => match h.1.image.queues.get [] 6 with
    | e :: _ => if e.begun && e.transfers then some (h.2, e) else none
    | [] => none)

/-- A transfer issues: it holds the N queue until its last word has moved, and waits for one that a handler has interrupted (R119,
R177, R178). -/
def State.transfer (s : State) (c : BitVec 8) : State :=
  if s.ctx.begun || (s.seqOf s.focus).heldTransfer.isSome then s else
  match s.transferFault s.tileNo (c.toNat + 1) with
  | some cause => s.issueTrap cause 0
  | none => s.begin 0

/-- `send` (R177). -/
def execSend (_h : Hdr) (_e _a _t : BitVec 4) (c : BitVec 8) (s : State) : Result := .next (s.transfer c)
/-- `recv` (R177). -/
def execRecv (_h : Hdr) (_e _a _t : BitVec 4) (c : BitVec 8) (s : State) : Result := .next (s.transfer c)
/-- `recvadd` (R177, R179). -/
def execRecvadd (_h : Hdr) (_e _a _t : BitVec 4) (c : BitVec 8) (s : State) : Result := .next (s.transfer c)

/-- The members of a group as positions of one grove, or none where it is empty or leaves the grove (R180). -/
def State.groveGroup (s : State) (g grp : Nat) : Option (List Nat) :=
  let ms := s.castGroup (tileAt g 0) grp
  if ms.isEmpty || ms.any (fun m => decide (m / 16 ≠ g % 10)) then none else some (ms.map (· % 16))

/-- `sendg` (R180). -/
def execSendg (_h : Hdr) (g : BitVec 8) (_a : BitVec 4) (c : BitVec 8) (s : State) : Result :=
  if s.ctx.begun || (s.seqOf s.focus).heldTransfer.isSome then .next s else
  .next (match s.groveGroup (groveOf s.tileNo) g.toNat with
    | none => s.issueTrap 0x14 0
    | some _ => s.transfer c)

/-- The landing queue of a tile for a sender (R178). -/
def Tile.landed (x : Tile) (l : Nat) : List Landed := x.landing.get [] l

/-- The N queue with the transfer under way: that of a handler's landing buffer, or the unit's own. -/
def Seq.mapN (q : Seq) (f : List Entry → List Entry) : Seq :=
  match q.heldTransfer with
  | some (n, _) => q.mapImage n (fun im => { im with queues := im.queues.set [] 6 (f (im.queues.get [] 6)) })
  | none => { q with queues := q.queues.set [] 6 (f (q.queues.get [] 6)) }

/-- The transfer under way has moved one word on, or has ended. -/
def State.moveOn (s : State) (t n : Nat) : State :=
  s.mapSeq (.tile t) (·.mapN (fun es => match es with
    | [] => []
    | e :: rest => if n ≤ e.pos + 1 then rest else { e with pos := e.pos + 1 } :: rest))

/-- The transfer under way stops with a trap, of the code that it belongs to; if another one is taken first, it goes on later (R119,
R162, R264). -/
def State.transferTrap (s : State) (t : Nat) (e : Entry) (cause : BitVec 8) : State :=
  let trap : Trap := ⟨cause, trapInfo e.word 0 e.slot.index, e.slot.index, none, some e⟩
  s.mapSeq (.tile t) (fun q => match q.heldTransfer with
    | some (n, _) => (q.mapN (·.drop 1)).mapImage n (fun im => { im with traps := im.traps ++ [trap] })
    | none => { q.mapN (·.drop 1) with traps := q.traps ++ [trap] })

/-- The next word of a send leaves for the landing queues of the receivers, once each has room (R178, R180). -/
def State.sendWord (s : State) (t : Nat) (e : Entry) (peers : List Nat) (tag : BitVec 4) (n : Nat) : State :=
  let g := groveOf t
  let from_ := s.logicalOf t
  let a := e.va.toNat + 64 * e.pos
  let tiles := peers.map (s.physOf g)
  if !tiles.all (fun p => decide (((s.tile p).landed from_).length < 4)) then s
  else if !(s.tile t).enginesReach a 64 then s.transferTrap t e 0x0a
  else if s.mem.poisoned (tspAddr t a) 64 then s.transferTrap t e 0x13
  else
    let w : Landed := ⟨tag, BitVec.ofNat 512 (s.readNat (tspAddr t a) 64)⟩
    (tiles.foldl (fun s p => s.mapTile p (fun x => { x with
      landing := x.landing.set [] from_ (x.landed from_ ++ [w]) })) s).moveOn t n

/-- `fadd` in `f32` on 16 lanes, RNE, not saturated, not flushed (R90, R179). -/
def addLanes (v w : Vec) : Vec :=
  packLanes 1 (fun k => rne32 (XVal.add .rne (decodeType 1 (lanePat 1 v k)) (decodeType 1 (lanePat 1 w k))))

/-- The next matching word in the landing queue is written, or added, at its place (R178, R179). -/
def State.recvWord (s : State) (t : Nat) (e : Entry) (peer : Nat) (tag : BitVec 4) (adds : Bool) (n : Nat) : State :=
  let a := e.va.toNat + 64 * e.pos
  let ws := (s.tile t).landed peer
  match ws.findIdx? (fun w => w.tag = tag) with
  | none => s
  | some i =>
    if !(s.tile t).enginesReach a 64 then s.transferTrap t e 0x0a
    else if adds && s.mem.poisoned (tspAddr t a) 64 then s.transferTrap t e 0x13
    else
      let w := ((ws[i]?).map (·.data)).getD 0
      let v := if adds then addLanes (BitVec.ofNat 512 (s.readNat (tspAddr t a) 64)) w else w
      ((s.writeNat (tspAddr t a) 64 v.toNat).mapTile t (fun x => { x with
        landing := x.landing.set [] peer (ws.eraseIdx i) })).moveOn t n

/-- The transfer under way of a tile, if any: one that a handler has interrupted, or the head of the N queue (R119, R178). -/
def Seq.underWay (q : Seq) : Option Entry :=
  match q.heldTransfer with
  | some (_, e) => some e
  | none => (q.queues.get [] 6).head?.filter (·.begun)

/-- TRANSFER_WORD_ARRIVAL: the transfer under way of a tile moves one word (R178 to R180). -/
def execTransferWordArrival (t : Nat) (s : State) : Result :=
  let x := s.tile t
  .next (if x.still || x.landing? then s else
    match x.seq.underWay with
    | none => s
    | some e =>
      match decodeN e.word with
      | some (.send _ p _ tag c) => s.sendWord t e [p.toNat] tag (c.toNat + 1)
      | some (.sendg _ g _ c) =>
        (match s.groveGroup (groveOf t) g.toNat with
        | none => s.transferTrap t e 0x14
        | some ms => s.sendWord t e (ms.filter (· != s.logicalOf t)) 0 (c.toNat + 1))
      | some (.recv _ p _ tag c) => s.recvWord t e p.toNat tag false (c.toNat + 1)
      | some (.recvadd _ p _ tag c) => s.recvWord t e p.toNat tag true (c.toNat + 1)
      | _ => s)

/-! ### Arrival counters -/

/-- A counter takes a value; the cycle is kept for R443. -/
def State.setCounter (s : State) (t c : Nat) (v : BitVec 32) : State :=
  s.mapTile t (fun x => { x with ac := x.ac.set 0 c v, cntSince := x.cntSince.put c s.cycle })

/-- `cnt.set`: the deliveries of the same cycle are added to the value (R441, R442). -/
def execCntSet (_h : Hdr) (c _a : BitVec 6) (s : State) : Result :=
  let t := s.tileNo
  .next (s.accept.setCounter t c.toNat ((s.ctx.va.setWidth 32) + (s.tile t).cntAdds.get 0 c.toNat))

/-- `cnt.add` (R441). -/
def execCntAdd (_h : Hdr) (c : BitVec 6) (i : BitVec 8) (s : State) : Result :=
  let t := s.tileNo
  .next (s.accept.setCounter t c.toNat ((s.tile t).ac.get 0 c.toNat + .ofNat 32 (immUnsigned s.ctx.ext i)))

/-- The condition of `cnt.wait` (R441). -/
def reached? (v imm : BitVec 32) : Bool := decide ((v - imm).toNat < 2 ^ 31)

/-- `cnt.wait` holds the N queue until its condition holds (R441). -/
def execCntWait (_h : Hdr) (c : BitVec 6) (i : BitVec 8) (s : State) : Result :=
  let v := (s.tile s.tileNo).ac.get 0 c.toNat
  .next (if reached? v (.ofNat 32 (immUnsigned s.ctx.ext i)) then s.accept else if s.ctx.begun then s else s.begin s.cycle)

/-- `cnt.rd`: a late writer (R117, R441). -/
def execCntRd (_h : Hdr) (d c : BitVec 6) (s : State) : Result :=
  .next (s.late d (((s.tile s.tileNo).ac.get 0 c.toNat).setWidth 64)).accept

/-- The `cnt.wait` at the head of a tile's N queue, with its counter, the value waited for and its first cycle. -/
def Tile.waiting (x : Tile) : Option (Entry × Nat × BitVec 32) :=
  match x.seq.queues.get [] 6 with
  | [] => none
  | e :: _ => if !e.begun then none else match decodeN e.word with
    | some (.cntWait _ c i) => some (e, c.toNat, .ofNat 32 (immUnsigned e.ext i))
    | _ => none

/-- CNT_WAIT_TIMEOUT: the counter has not changed for `replylimit` cycles (R443). -/
def execCntWaitTimeout (t : Nat) (s : State) : Result :=
  let x := s.tile t
  .next (match x.waiting with
    | none => s
    | some (e, c, imm) =>
      let since := max e.pos (x.cntSince.get 0 c)
      if !x.still && !reached? (x.ac.get 0 c) imm && decide ((s.grove (groveOf t)).replylimit.toNat ≤ s.cycle - since) then
        s.mapSeq (.tile t) (fun q => { q with
          queues := q.queues.set [] 6 ((q.queues.get [] 6).drop 1)
          traps := q.traps ++ [⟨0x12, trapInfo e.word c e.slot.index, e.slot.index, none, some e⟩] })
      else s)

/-- A delivery advances a counter; where the tile's context lies in shadow storage, that context's. One to `ac48` to `ac63`
posts kind 5 (R299, R442). -/
def State.deliverCount (s : State) (t c n : Nat) : State :=
  let g := groveOf t
  let l := s.logicalOf t
  let add (x : Tile) : Tile := { x with ac := x.ac.set 0 c (x.ac.get 0 c + BitVec.ofNat 32 n) }
  let keep (x : Tile) : Tile := { x with cntKept := insertNat c x.cntKept }
  let (s, v) : State × BitVec 32 := match (s.grove g).savedTiles.get? l with
    | some x => (s.mapGrove g (fun y => { y with savedTiles := y.savedTiles.put l (keep (add x)) }), (add x).ac.get 0 c)
    | none =>
      let s := s.setCounter t c ((add (s.tile t)).ac.get 0 c)
      (s.mapTile t (fun x =>
        let x := { x with cntAdds := x.cntAdds.set 0 c (x.cntAdds.get 0 c + BitVec.ofNat 32 n) }
        if x.preempt = some .saved then keep x else x), (s.tile t).ac.get 0 c)
  if 48 ≤ c then s.postTile t 5 0 c 0 (v.setWidth 64) else s

end Sys2Proof.Machine
end

