-- ==== Sys2Proof/Machine/Handlers.lean ====
section
/-!
DEFINITION. Entering handlers between two dispatches: pending traps (R162, R261, R264), the user handler (R130) and the
event handler of a grove sequencer (R298).
-/
namespace Sys2Proof.Machine

/-- Of two traps, the one of the lower slot (R264). -/
def lowerTrap (a b : Trap) : Trap := if b.slot < a.slot then b else a

/-- The point between two bundles is one where dispatch may be interrupted: not between an `ext` and the bundle it
prefixes (R142), nor after an inserted bundle (R425). -/
def Seq.open? (q : Seq) : Bool := q.prefixes.isEmpty && !q.noTrap

/-- A return or a `halt` waits in slot V and holds dispatch (R188, R189). -/
def Seq.returning (q : Seq) : Bool := (q.queues.get [] 7).any (fun e => [0x0b, 0x0c, 0x0d].contains (opOf e.word))

/-- A trap may be taken: the point is open, or a return or a `halt` waits at it, behind which no bundle is dispatched (R142, R188, R189). -/
def Seq.trapOpen (q : Seq) : Bool := (q.prefixes.isEmpty || q.returning) && !q.noTrap

/-- The next bundle, as an index. -/
def Seq.pcNat (q : Seq) : Nat := (q.pc % 2048).toNat

/-- A trap found between dispatches is taken, that of the lowest slot first (R162, R261, R264). -/
def State.takePending (s : State) (u : Agent) : Option State :=
  let q := s.seqOf u
  if !q.trapOpen then none else
  match q.traps with
  | [] => none
  | t :: rest =>
    let x := rest.foldl lowerTrap t
    some ((s.setSeq u { q with traps := q.traps.erase x }).takeTrap u x.cause (x.pc.getD q.pcNat) x.info)

/-- A unit's sequencer may act: its kernel runs, its clock runs, and no landing or saved context holds it. -/
def State.runs (s : State) (u : Agent) : Bool :=
  match u with
  | .tile t =>
    let x := s.tile t
    x.seq.run = .running && !x.still && !x.landing?
  | .seq g =>
    let x := s.grove g
    x.seq.run = .running && x.preempt ≠ some .saved

/-- TRAP_ENTRY of the focus unit (R261). -/
def execTrapEntry (s : State) : Result :=
  .next (if s.runs s.focus then (s.takePending s.focus).getD s else s)

/-- A handler begins at a vector, with the landing buffer captured (R119). -/
def Seq.enter (q : Seq) (k : HandlerKind) (pc : Nat) : Seq :=
  { q.clear with handlers := ⟨k, q.loops.length, q.capture⟩ :: q.handlers, boundary := false, pc := pc }

/-- The conditions of the user handler (R130). -/
def Seq.userDue (q : Seq) : Bool :=
  decide (q.ctl.uivec ≠ 0) && decide (q.ctl.uipend &&& ~~~ q.ctl.uimask ≠ 0) && q.handlers.isEmpty && q.uiGap && q.open?

/-- Entry to the user handler (R130). -/
def Seq.enterUser (q : Seq) : Seq :=
  let pc := q.pcNat
  ((q.enter .user q.ctl.uivec.toNat).swapBank).writeS 31 (BitVec.ofNat 64 pc)

/-- UI_ENTRY of the focus tile (R130). -/
def execUiEntry (s : State) : Result :=
  .next (match s.focus with
    | .seq _ => s
    | .tile t =>
      let q := (s.tile t).seq
      if s.runs s.focus && q.traps.isEmpty && q.userDue then s.setSeq (.tile t) q.enterUser else s)

/-- The conditions of the event handler (R298). -/
def Grove.eventDue (x : Grove) : Bool :=
  !x.events.isEmpty && decide (x.seq.ctl.evvec ≠ 0) && x.seq.handlers.isEmpty && x.seq.evGap && x.seq.open?

/-- Entry to the event handler (R298). -/
def Seq.enterEvent (q : Seq) : Seq :=
  let pc := q.pcNat
  let y := q.enter .event q.ctl.evvec.toNat
  { y with ctl := { y.ctl with evpc := .ofNat 11 pc } }

/-- EVENT_ENTRY of the focus sequencer (R298). -/
def execEventEntry (s : State) : Result :=
  .next (match s.focus with
    | .tile _ => s
    | .seq g =>
      let x := s.grove g
      if s.runs s.focus && x.seq.traps.isEmpty && x.eventDue then s.setSeq (.seq g) x.seq.enterEvent else s)

end Sys2Proof.Machine
end

