-- ==== Sys2Proof/Machine/Tasks.lean ====
section
/-!
DEFINITION. Tasks: `cfg.load` (R191), `cfg.run` (R133, R192, R305, R319), `tsk.end` (R134, R193), the commit sequencer
(R318 to R321, R374), quorum joins at their release and fill (R340 to R346), the write-back of logs (R318, R375) and soft
errors (R38, R39, R273, R274).
-/
namespace Sys2Proof.Machine

/-! ### Loading and running a configuration -/

/-- `cfg.load` waits for an earlier load of its slot; it refuses a source outside the TSP, the GSP and HBM, and otherwise empties the slot
and loads in the background (R78, R191). One that is refused at issue leaves its slot as it was (log entry 18). -/
def execCfgLoad (_h : Hdr) (l : BitVec 2) (_g : BitVec 4) (b : BitVec 11) (s : State) : Result :=
  let t := s.tileNo
  if ((s.tile t).fab.loads.get? l.toNat).isSome then .next s else
  .next (if 2 < gSpace s.ctx.g0 then s.issueTrap 0x14 0 else s.accept.mapTile t (fun x => { x with fab := { x.fab with
        slots := x.fab.slots.erase l.toNat, loads := x.fab.loads.put l.toNat ⟨s.ctx, l.toNat, b.toNat⟩ } }))

/-- Where a context stands: in a physical tile, or saved in its grove's shadow storage for a logical position. -/
inductive Stand where
  | tile (t : Nat)
  | saved (g l : Nat)
  deriving DecidableEq, Repr

/-- The open tasks of a commit group of a die that have neither ended nor had their commit point, those of saved contexts
too (R319). -/
def State.groupTasks (s : State) (d grp : Nat) : List (Stand × Task) :=
  let live (w : Stand) (x : Tile) : Option (Stand × Task) := match x.task with
    | some k => if decide (x.seq.ctl.tgroup.toNat = grp) && !x.seq.ctl.tended && !k.committed then some (w, k) else none
    | none => none
  let here := (s.tiles.filter (fun e => dieOf (groveOf e.1) = d)).filterMap (fun e => live (.tile e.1) e.2)
  let saved := (s.groves.filter (fun e => dieOf e.1 = d)).flatMap (fun e =>
    e.2.savedTiles.filterMap (fun x => live (.saved e.1 x.1) x.2))
  here ++ saved

/-- The commit order of two tasks of a group: tasks opened at or below the frontier first, the later opened before the
earlier, then by key (R319). -/
def Task.before (a b : Task) : Bool :=
  if a.seen ≠ 0 ∨ b.seen ≠ 0 then decide (b.seen < a.seen) else decide (a.key < b.key)

/-- The key of a task: timestamp, grove and logical tile (R319). -/
def State.taskKey (s : State) (t : Nat) (stamp : BitVec 48) : Nat := stamp.toNat * 256 + s.dieTile t

/-- A released join of the group still waits to be freed, and the tile has not arrived (R341). -/
def State.straggler (s : State) (t grp : Nat) : Bool :=
  (s.die (dieOf (groveOf t))).joins.any (fun j => j.2.released && decide (j.2.group = grp)
    && !j.2.arrived.contains (s.rankOf t grp))

/-- The task record of R133, taken before any word of the bundle takes effect (R192). -/
def State.record (s : State) (t slot grp : Nat) (stamp : BitVec 48) : Task :=
  let x := s.tile t
  let d := dieOf (groveOf t)
  let key := s.taskKey t stamp
  let late : Bool := grp ≠ 0 && match (s.die d).frontier.get? grp with
    | some f => decide (key ≤ f)
    | none => false
  let seen := if late then 1 + ((s.groupTasks d grp).map (·.2.seen)).foldl max 0 else 0
  { pc := s.ctx.pc, s := x.seq.s, a := x.seq.a, q := x.seq.q, loops := x.seq.loops, g := x.g, nz := x.nz, bars := x.seq.bars,
    slot := slot, key := key, seen := seen, boundary := x.seq.boundary, killPending := grp ≠ 0 && s.straggler t grp }

/-- The configuration of a slot is activated afresh (R11, R25, R133, R304). -/
def Tile.activate (x : Tile) (slot : Nat) : Tile :=
  let y := { x with fab := { x.fab with active := some slot } }.resetArray
  { y with fab := { y.fab with latch := false } }

/-- A task opens, or a task aborted before is run again with its slot; one that has ended since stays ended (R133, R134,
R192, R305). -/
def State.openTask (s : State) (t : Nat) (l : BitVec 2) (stamp : BitVec 48) (grp : BitVec 8) : State :=
  let x := s.tile t
  let slot := x.runSlot l
  match x.task with
  | some k =>
    let s := s.mapTile t (fun x => { x with task := some { k with rerunning := false } })
    if x.seq.ctl.tended then s else s.mapTile t (·.activate slot)
  | none =>
    let k := s.record t slot grp.toNat stamp
    s.mapTile t (fun x =>
      let y := x.activate slot
      { y with
        task := some k
        fab := { y.fab with decision := none }
        seq := { y.seq with ctl := { y.seq.ctl with
          tstamp := stamp, tgroup := grp, treruns := 0, tcause := 0, tended := false, topen := true } } })

/-- `cfg.run` at the dispatch of its bundle; it waits for a load of its slot, for outstanding replies and for results in
flight, which land (R191, R192, R453). -/
def execCfgRun (h : Hdr) (l : BitVec 2) (a : BitVec 6) (g : BitVec 8) (s : State) : Result :=
  let t := s.tileNo
  let q := s.seqOf s.focus
  if q.holds h && (((s.tile t).fab.loads.get? ((s.tile t).runSlot l)).isSome || q.reqs.any (fun r => r.dest.isSome)) then .next s else
  let s := if q.holds h then s.drainLands s.focus else s
  atDispatch (.cfgRun h l a g) h s (fun s => s.openTask t l (((s.seqOf s.focus).opnd a).setWidth 48) g)

/-! ### Ending a task -/

/-- Every stream command of the task has completed, and every routine and `macc` that the tile issued, its stores have reached their
nodes or the log, and nothing is in flight but in output ports (R134, R260). -/
def Tile.taskDone (x : Tile) : Bool :=
  !x.str.cmds.any (fun c => c.2.inTask) && x.mx.tokens.isEmpty && x.mx.running.isNone && [3, 4, 5].all (fun k => (x.seq.queues.get [] k).isEmpty) && !x.seq.reqs.any (fun r => r.inTask)
    && (x.image.edges.zipIdx).all (fun e => decide (208 ≤ eTo e.1) || (x.fab.edges.get [] e.2).isEmpty)
    && x.fab.elems.all (fun e => e.2.pipe.isEmpty)

/-- The task is closed: `tsk.end` completes (R134). -/
def Tile.closeTask (x : Tile) : Tile :=
  { x with task := none, seq := { x.seq with ctl := { x.seq.ctl with topen := false, tended := false } } }

/-- The open join of which a task of a tile is a member, by its number, with the member's index (R340). -/
def State.joinOf (s : State) (t grp : Nat) : Option (Nat × Join × Nat) :=
  if grp = 0 then none else
  let r := s.rankOf t grp
  ((s.die (dieOf (groveOf t))).joins.find? (fun j => !j.2.released && decide (j.2.group = grp)
    && !j.2.arrived.contains r && s.inGroup t grp)).map (fun j => (j.1, j.2, r))

/-- The address of byte o of a range held page by page. -/
def pageAddr (pages : List (Nat × Nat)) (o : Nat) : Nat :=
  match (pages.filter (fun p => decide (p.1 ≤ o))).getLast? with
  | some (b, a) => a + (o - b)
  | none => 0

/-- Where a logged byte lies in a join's target range. -/
def Join.offset (j : Join) (a : Nat) : Option Nat :=
  (j.pages.zipIdx).findSome? (fun (p, i) =>
    let fin := match j.pages[i + 1]? with
      | some n => n.1
      | none => j.tlen
    if p.2 ≤ a ∧ a < p.2 + (fin - p.1) then some (p.1 + (a - p.2)) else none)

/-- The target words that a log writes, by number (R340). -/
def Join.targets (j : Join) (log : KMap Byte) : List Nat := ((log.filterMap (fun e => j.offset e.1)).map (· / 4)).eraseDups

/-- A write of a task's log covers part of a target word (R340). -/
def State.partial? (s : State) (t : Nat) (k : Task) : Bool :=
  match s.joinOf t (s.tile t).seq.ctl.tgroup.toNat with
  | some (_, j, _) => k.part.any (fun w => (List.range 4).any (fun i => (j.offset (w + i)).isSome))
  | none => false

/-- A target word that a task's log would be combined into is uncorrectable (R340, R382). -/
def State.targetBad (s : State) (t : Nat) (k : Task) : Bool :=
  match s.joinOf t (s.tile t).seq.ctl.tgroup.toNat with
  | some (_, j, _) => (j.targets k.log).any (fun w => s.mem.poisoned (pageAddr j.pages (4 * w)) 4)
  | none => false

/-- `tsk.end` requests commit and holds dispatch until the outcome is known (R134, R193, R340, R341). -/
def execTskEnd (_h : Hdr) (s : State) : Result :=
  let t := s.tileNo
  let x := s.tile t
  .next (match x.task with
    | none => s.accept
    | some k =>
      if x.seq.ctl.tended then
        let exhausted := x.seq.ctl.tstat = .fault ∧ x.seq.ctl.tcause = 0x1f
        let s := (s.mapTile t Tile.closeTask).accept
        if exhausted then s.raise s.focus 0x1f (trapInfo s.ctx.word 0 s.ctx.slot.index) s.ctx.slot.index else s
      else if k.committed then (if k.acks then s else (s.mapTile t Tile.closeTask).accept)
      else if k.requested || !x.taskDone then s
      else if k.killPending then s.abortTask t .quorum 0
      else if s.partial? t k then s.abortTask t .fault 0x09
      else (s.mapTile t (fun x => { x with task := some { k with requested := true } })).mapDie (dieOf (groveOf t)) (fun d => { d with
        commits := d.commits ++ [⟨t, x.seq.ctl.tgroup.toNat, k.key, s.cycle⟩] }))

/-! ### Quorum joins -/

/-- The combination of R340 on `f32` values. -/
def joinOp (op : Nat) (t v : XVal) : Nat :=
  match op with
  | 0 => rne32 (t.add .rne v)
  | op =>
    if t.isNan || v.isNan then rne32 .nan else
    let less := t.lt v || (t.eq v && t.isNeg && !v.isNeg)
    rne32 (if decide (op = 1) = less then v else t)

/-- Target word k combined with a weighted value. -/
def State.combineAt (s : State) (j : Join) (k : Nat) (w : BitVec 32) (v : XVal) : State :=
  let a := pageAddr j.pages (4 * k)
  let old := decodeType 1 (s.readNat a 4)
  s.writeNat a 4 (joinOp j.op old ((decodeType 1 w.toNat).mul v))

def State.setJoin (s : State) (d n : Nat) (j : Join) : State := s.mapDie d (fun x => { x with joins := x.joins.put n j })

/-- A quorum kill is due for a tile's task: it lands at once at its commit request or on a frozen region, otherwise at the end
of the drain under way or at its next kill point (R272, R336, R341, R346). -/
def State.killTask (s : State) (t : Nat) : State :=
  let x := s.tile t
  match x.task with
  | none => s
  | some k =>
    if k.requested then s.abortTask t .quorum 0
    else
      let s := s.mapTile t (fun x => { x with task := some { k with killPending := true } })
      if x.freeze.isSome && !x.inGang && x.preempt ≠ some .saved then s.finishKill t else s

/-- The saved task of a logical position is marked to be killed when it is restored (R272). -/
def State.markSaved (s : State) (g l grp : Nat) : State :=
  s.mapGrove g (fun x => { x with savedTiles := x.savedTiles.map (fun e =>
    if e.1 = l && decide (e.2.seq.ctl.tgroup.toNat = grp) && !e.2.seq.ctl.tended then
      (e.1, { e.2 with task := e.2.task.map (fun k => if k.committed then k else { k with killPending := true }) })
    else e) })

/-- A join releases: arrival closes, every member that has not arrived is a straggler, and kind 7 is posted (R299,
R341). -/
def State.releaseJoin (s : State) (d n : Nat) : State :=
  match (s.die d).joins.get? n with
  | none => s
  | some j =>
    if j.released then s else
    let s := s.setJoin d n { j with released := true }
    let ms := groupMembers ((s.die d).groups.get 0 j.group)
    let s := (ms.zipIdx.filter (fun e => !j.arrived.contains e.2)).foldl (fun s e =>
      let t := s.ofDieTile d e.1
      let x := s.tile t
      let s := s.markSaved (groveOf t) (e.1 % 16) j.group
      if x.task.isSome && decide (x.seq.ctl.tgroup.toNat = j.group) && !x.seq.ctl.tended then s.killTask t else s) s
    s.postEvent j.grove (evRecord 7 0 0xff n 0 (BitVec.ofNat 64 j.arrived.length))

/-- The exact quotient of two `f32` values, rounded once (R342); the divisor is no zero. -/
def divide (a b : XVal) : Nat :=
  match a, b with
  | .fin na ma ea, .fin nb mb eb =>
    if ma = 0 then rne32 (.fin (na != nb) 0 0) else rne32 (quotient (na != nb) ma mb (ea - eb))
  | .inf na, .fin nb _ _ => rne32 (.inf (na != nb))
  | .fin na _ _, .inf nb => rne32 (.fin (na != nb) 0 0)
  | _, _ => rne32 .nan

/-- The factor of the rescale fill, if any (R342). -/
def Join.factor (j : Join) : Option Nat :=
  let sum (ws : List (BitVec 32)) : Nat := ws.foldl (fun p w => rne32 (XVal.add .rne (decodeType 1 p) (decodeType 1 w.toNat))) 0
  let warr := sum ((j.weights.zipIdx.filter (fun e => j.arrived.contains e.2)).map (·.1))
  if j.arrived = [] ∨ (decodeType 1 warr).isZero then none
  else some (divide (decodeType 1 (sum j.weights)) (decodeType 1 warr))

/-- Management firmware is told of an uncorrectable word that no task or command meets (R382). -/
def State.report (s : State) (cause : BitVec 8) (unit : Nat) : State :=
  { s with hub := { s.hub with reports := s.hub.reports ++ [(cause, unit)] } }

/-- The fill rule applied to every word of the target; an uncorrectable word is not used (R342, R382). -/
def State.fillJoin (s : State) (d n : Nat) (j : Join) : State :=
  let words := List.range (j.tlen / 4)
  let s := match j.fill with
    | 1 => (match j.factor with
      | none => s
      | some f => words.foldl (fun s k =>
        let a := pageAddr j.pages (4 * k)
        if s.mem.poisoned a 4 then s.report 0x13 (a / 2 ^ 36) else
        s.writeNat a 4 (rne32 ((decodeType 1 (s.readNat a 4)).mul (decodeType 1 f)))) s)
    | 2 => (j.weights.zipIdx.filter (fun (e : BitVec 32 × Nat) => !j.arrived.contains e.2)).foldl (fun (s : State) (e : BitVec 32 × Nat) => words.foldl (fun s k =>
        let as := (List.range 4).map (fun i => pageAddr j.subPages (e.2 * j.tlen + 4 * k + i))
        if as.any (fun a => s.mem.poisoned a 1) || s.mem.poisoned (pageAddr j.pages (4 * k)) 4 then
          s.report 0x13 ((as.headD 0) / 2 ^ 36)
        else s.combineAt j k e.1 (decodeType 1 (leNat (as.map s.mem.bytes.read)))) s) s
    | _ => s
  s.setJoin d n { j with filled := true }

/-- QUORUM_FILL (R342). -/
def execQuorumFill (d j : Nat) (s : State) : Result :=
  .next (match (s.die d).joins.get? j with
    | some x => if x.released && !x.filled then s.fillJoin d j x else s
    | none => s)

/-- QUORUM_TIMEOUT (R343). -/
def execQuorumTimeout (d j : Nat) (s : State) : Result :=
  .next (match (s.die d).joins.get? j with
    | some x => (match x.deadline with
      | some c => if !x.released && decide (c ≤ s.cycle) then s.releaseJoin d j else s
      | none => s)
    | none => s)

/-! ### The commit sequencer -/

/-- A request may commit: every open task of its group with a lower key has committed or ended (R319). -/
def State.eligible (s : State) (d : Nat) (c : CommitReq) : Bool :=
  match (s.tile c.tile).task with
  | none => false
  | some k => c.group = 0 || (s.groupTasks d c.group).all (fun e => decide (e.1 = .tile c.tile) || !e.2.before k)

/-- The request that takes the next commit point: the first to arrive, of one cycle the lowest key (R374). -/
def State.nextCommit (s : State) (d : Nat) : Option CommitReq :=
  match (s.die d).commits.filter (s.eligible d) with
  | [] => none
  | c :: rest => some (rest.foldl (fun a b =>
      if b.cycle < a.cycle ∨ (b.cycle = a.cycle ∧ b.key < a.key) then b else a) c)

/-- Runs of consecutive bytes of a log. -/
def logRuns : KMap Byte → List (Nat × List Byte)
  | [] => []
  | (a, b) :: t => match logRuns t with
    | (a', bs) :: rest => if a' = a + 1 then (a, b :: bs) :: rest else (a, [b]) :: (a', bs) :: rest
    | [] => [(a, [b])]

/-- A granule of a write set is in a task's signature (R321). -/
def Task.conflicts (k : Task) (ws : List Nat) : Bool := ws.any (fun a => sigHas k.signature (granuleKey a))

/-- The granules a log writes (R321). -/
def writeSet (log : KMap Byte) : List Nat := (log.map (fun e => e.1 / 256 * 256)).eraseDups

/-- What is done to a tile is done to a saved context, in its place (R269). -/
def State.onSaved (s : State) (g l : Nat) (f : State → Nat → State) : State :=
  match (s.grove g).savedTiles.get? l with
  | none => s
  | some y =>
    let t := s.physOf g l
    let d := dieOf g
    let u := f (s.setTile t y) t
    ((u.setTile t (s.tile t)).mapGrove g (fun x => { x with savedTiles := x.savedTiles.put l (u.tile t) })).mapDie d (fun x =>
      { x with commits := (s.die d).commits })

/-- The task of a saved context is aborted, and runs again when the context is restored (R134, R321). -/
def State.retrySaved (s : State) (g l : Nat) (st : TaskStatus) : State := s.onSaved g l (fun s t => s.rerunTask t st)

/-- The logical number on its die of the place where a task stands. -/
def State.standIndex (s : State) : Stand → Nat
  | .tile t => s.dieTile t
  | .saved g l => 16 * (g % 10) + l

/-- Later tasks of the group that have read what is written are aborted and run again, in the order of the die's tiles, by which a gang
records the lowest member of one cycle (R321, R334). -/
def State.abortConflicts (s : State) (d grp : Nat) (k : Task) (ws : List Nat) : State :=
  if grp = 0 then s else
  let late := (s.groupTasks d grp).filter (fun e => k.before e.2 && e.2.conflicts ws)
  ((List.range 160).flatMap (fun n => late.filter (fun e => s.standIndex e.1 = n))).foldl (fun s e => match e.1 with
    | .tile t => s.retryTask t .conflict
    | .saved g l => s.retrySaved g l .conflict) s

/-- The log becomes visible: bytes, and presence where the channel is still allocated (R318, R325, R357). -/
def State.performLog (s : State) (log : KMap Byte) (present : List Nat) : State :=
  let s := (logRuns log).foldl (fun s r => s.write r.1 r.2) s
  present.foldl (fun s a =>
    let g := (a - gspAddr 0 0) / 0x1000000
    if ((s.grove g).channelOf (a - gspAddr g 0)).isSome then s.setPresent a else s) s

/-- The remote writes of a log, one destination after another in the order of their first writes, each in log order (R318; log entry
35). -/
def byDest (rs : List Remote) : List Remote :=
  (rs.map Remote.dest).eraseDups.flatMap (fun d => rs.filter (fun r => r.dest = d))

/-- A commit point: visibility, contributions, events, and what follows from them (R318 to R321, R340, R374). -/
def State.commit (s : State) (d : Nat) (c : CommitReq) (k : Task) : State :=
  let t := c.tile
  let join := s.joinOf t c.group
  let log := match join with
    | some (_, j, _) => k.log.filter (fun e => (j.offset e.1).isNone)
    | none => k.log
  let s := s.mapTile t (fun x => { x with
    task := some { k with committed := true, acks := !k.remote.isEmpty }
    seq := { x.seq with ctl := { x.seq.ctl with tstat := .committed, tcause := 0 } } })
  let s := s.mapDie d (fun x => { x with
    commits := x.commits.filter (fun e => e.tile != t)
    committed := some s.cycle
    frontier := if c.group = 0 ∨ k.seen ≠ 0 then x.frontier else x.frontier.put c.group k.key
    writeback := if k.remote.isEmpty then x.writeback else x.writeback ++ [{ tile := t, items := byDest k.remote }] })
  let s := s.abortConflicts d c.group k (writeSet log)
  let s := s.performLog log k.present
  let s := match join with
    | none => s
    | some (n, j, i) =>
      let s := (j.targets k.log).foldl (fun (s : State) w =>
        let bs := (List.range 4).map (fun o => (k.log.get? (pageAddr j.pages (4 * w + o))).getD 0)
        s.combineAt j w ((j.weights[i]?).getD 0) (decodeType 1 (leNat bs))) s
      s.setJoin d n { j with arrived := j.arrived ++ [i] }
  let s := k.tokens.foldl (fun s e => s.postTile t 4 0 e.channel e.offset e.lanes) s
  let s := s.postTile t 6 0 c.group 0 ((s.tile t).seq.ctl.tstamp.setWidth 64)
  match join with
  | some (n, j, _) => if j.arrived.length + 1 = j.q then s.releaseJoin d n else s
  | none => s

/-- A word of a log whose channel is still allocated has been made present by another writer (R294, R357). -/
def State.taken (s : State) (k : Task) : Bool :=
  k.present.any (fun a => s.present a && ((s.grove ((a - gspAddr 0 0) / 0x1000000)).channelOf
    (a - gspAddr ((a - gspAddr 0 0) / 0x1000000) 0)).isSome)

/-- COMMIT_POINT: the die's commit sequencer takes the next request, one commit point in a cycle (R374); a request whose channel words another writer has made
present, that writes part of a target word, or whose target word is uncorrectable, ends instead (R294, R318, R340, R374, R382). -/
def execCommitPoint (d : Nat) (s : State) : Result :=
  .next (match s.nextCommit d with
    | none => s
    | some c => match (s.tile c.tile).task with
      | none => s
      | some k =>
        if (s.die d).committed = some s.cycle then s
        else if s.taken k then s.abortTask c.tile .fault 0x16
        else if s.targetBad c.tile k then s.abortTask c.tile .fault 0x13
        else if s.partial? c.tile k then s.abortTask c.tile .fault 0x09
        else s.commit d c k)

/-! ### Write-back of remote writes (R318, R375, R435) -/

/-- The first write-back of a tile is replaced, or removed when nothing is left; then its task's writes are all
acknowledged. -/
def State.setOutgoing (s : State) (t : Nat) (o : Outgoing) : State :=
  let d := dieOf (groveOf t)
  let ws := (s.die d).writeback
  match ws.findIdx? (fun e => e.tile = t) with
  | none => s
  | some i =>
    if o.items.isEmpty && o.awaited = 0 then
      (s.mapDie d (fun x => { x with writeback := ws.eraseIdx i })).mapTile t (fun x => { x with
        task := x.task.map (fun k => { k with acks := false }) })
    else s.mapDie d (fun x => { x with writeback := ws.set i o })

/-- LOG_WRITEBACK: the next remote write of a committed log goes out (R318); a drive that does not answer acknowledges nothing. -/
def execLogWriteback (t : Nat) (s : State) : Result :=
  let d := dieOf (groveOf t)
  .next (match (s.die d).writeback.find? (fun e => e.tile = t) with
    | none => s
    | some o =>
      if o.awaited ≠ 0 then s else
      match o.items with
      | [] => s.setOutgoing t o
      | .store p n a bs :: rest =>
        if (s.hub.driveDown.get? p).isSome then
          if o.since.isSome then s else s.setOutgoing t { o with since := some s.cycle }
        else (s.writeFlash p n a bs).setOutgoing t { o with items := rest, since := none, told := false }
      | .peer e a v k :: rest =>
        (s.sendPeer d e { kind := k, addr := a, data := v, senders := [(t, 0, 0)] }).setOutgoing t { o with items := rest, awaited := 1, since := some s.cycle, told := false })

/-- A write-back waits for the acknowledgement of a word of a peer edge, or for a drive that does not answer (R318). -/
def State.awaits (s : State) (o : Outgoing) : Bool := o.awaited ≠ 0 || (match o.items with
  | .store p _ _ _ :: _ => (s.hub.driveDown.get? p).isSome
  | _ => false)

/-- REMOTE_WRITEBACK_TIMEOUT: a remote write has not been acknowledged within `replylimit` cycles: management firmware is told, and the
partition is faulted (R318). -/
def execRemoteWritebackTimeout (t : Nat) (s : State) : Result :=
  let d := dieOf (groveOf t)
  .next (match (s.die d).writeback.find? (fun e => e.tile = t) with
    | none => s
    | some o => match o.since with
      | none => s
      | some c =>
        if !o.told ∧ s.awaits o ∧ (s.grove (groveOf t)).replylimit.toNat ≤ s.cycle - c then
          ((s.setOutgoing t { o with told := true }).report 0x12 (groveOf t)).faultPartition (groveOf t) 0x12
        else s)

/-! ### Soft errors -/

/-- PARITY_ERROR_ABORT: an error detected in a tile (R38, R39, R273, R274). -/
def execParityErrorAbort (t : Nat) (s : State) : Result := .next (s.softError t)

end Sys2Proof.Machine
end

