-- ==== Sys2Proof/Machine/Grove.lean ====
section
/-!
DEFINITION. The slot-V words of a grove sequencer (R328, R329): decisions (R352), task aborts (R347), quorum joins (R338,
R339, R344, R345), groups (R302, R353, R354), kernels (R348 to R351), regions (R355) and channels (R356, R357).
-/
namespace Sys2Proof.Machine

/-- A word that only a sequencer may issue acts in its grove; in a tile kernel it is a privilege trap (R152, R329). -/
def State.groveWord (s : State) (act : Nat → State) : Result :=
  .next (match s.focus with
    | .tile _ => s.issueTrap 0x0c 0
    | .seq g => act g)

/-- The value of the register operand that the context captured. -/
def State.operand (s : State) : Word := s.ctx.va.setWidth 64

/-- The physical tiles of a tile mask; a set bit above bit 15 refuses it (R329). -/
def State.maskTiles (s : State) (g : Nat) (v : Word) : Option (List Nat) :=
  if 2 ^ 16 ≤ v.toNat then none
  else some (((List.range 16).filter (fun l => v.getLsbD l)).map (s.physOf g))

/-- A word over a tile mask (R329). -/
def State.masked (s : State) (act : State → List Nat → State) : Result :=
  s.groveWord (fun g => match s.maskTiles g s.operand with
    | none => s.issueTrap 0x14 0
    | some ts => act s.accept ts)

/-- `cfg.dec` sets the pending decision of each masked tile (R305, R352). -/
def execCfgDec (_h : Hdr) (_a : BitVec 6) (x v : BitVec 2) (s : State) : Result :=
  s.masked (fun s ts => ts.foldl (fun s t => s.mapTile t (fun y => { y with fab := { y.fab with decision := some (x, v) } })) s)

/-- `tsk.abort` (R347). -/
def execTskAbort (_h : Hdr) (_a : BitVec 6) (s : State) : Result :=
  s.masked (fun s ts => ts.foldl (fun s t => s.abortTask t .software 0) s)

/-! ### Reads of the sequencer's words -/

/-- A run of GSP words may be read: no channel word among them is absent (R293). -/
def State.gspReady (s : State) (g a n : Nat) : Bool :=
  (List.range ((a + n - 1) / 64 - a / 64 + 1)).all (fun i =>
    let w := (a / 64 + i) * 64
    ((s.grove g).channelOf w).isNone || s.present (gspAddr g w))

/-- A translation for a grove sequencer: through the die's slices and the walker, past the tiles' own TLBs (R366,
R367). -/
def State.translateSeq (s : State) (g : Nat) (va : Addr) (read write : Bool) : State × Trans :=
  let t := tileAt g 0
  let x := s.tile t
  let (s', r) := (s.setTile t { x with tlb := [] }).translate t (s.grove g).seq.ctl.asid va read write
  (s'.mapTile t (fun y => { y with tlb := x.tlb }), r)

/-- The pages of a range of virtual addresses: the offset in the range and the physical address where each begins. -/
def State.rangePages (s : State) (g : Nat) (va : Addr) (len : Nat) (read write : Bool) (off : Nat) :
    Nat → State × Except (BitVec 8) (List (Nat × Nat))
  | 0 => (s, .ok [])
  | n + 1 =>
    if len ≤ off then (s, .ok []) else
    let a := va + BitVec.ofNat 72 off
    match s.translateSeq g a read write with
    | (s, .fault c) => (s, .error c)
    | (s, .ok pa) =>
      match s.rangePages g va len read write (off + (65536 - a.toNat % 65536)) n with
      | (s, .ok ps) => (s, .ok ((off, pa) :: ps))
      | r => r

/-- The pages of a whole range. -/
def State.pagesOf (s : State) (g : Nat) (va : Addr) (len : Nat) (read write : Bool) :
    State × Except (BitVec 8) (List (Nat × Nat)) :=
  s.rangePages g va len read write 0 (len / 65536 + 2)

/-- Bytes of HBM by virtual address, for a word of the sequencer. -/
def State.seqRead (s : State) (g : Nat) (va : Addr) (len : Nat) : State × Except (BitVec 8) (List Byte) :=
  match s.pagesOf g va len true false with
  | (s, .error c) => (s, .error c)
  | (s, .ok ps) =>
    let as := (List.range len).map (pageAddr ps)
    if as.any (fun a => s.mem.poisoned a 1) then (s, .error 0x13)
    else (s, .ok (as.map s.mem.bytes.read))

/-! ### Quorum joins -/

/-- A field of a byte string, least significant byte first. -/
def bytesAt (bs : List Byte) (off n : Nat) : Nat := leNat ((bs.drop off).take n)

/-- Every byte of a range of a byte string is 0. -/
def zeroAt (bs : List Byte) (off n : Nat) : Bool := ((bs.drop off).take n).all (· == 0)

/-- The fields of a descriptor stand within R338, and its join and group are free for it (R339). -/
def State.descriptorOk (s : State) (d j : Nat) (b : List Byte) : Bool :=
  let e := (s.die d).groups.get 0 (bytesAt b 0 1)
  let members := (groupMembers e).length
  let mode := bytesAt b 2 1
  let fill := mode % 4
  let op := mode / 4 % 4
  let tlen := bytesAt b 20 4
  ((s.die d).joins.get? j).isNone && decide (bytesAt b 0 1 ≠ 0) && groupValid e
    && decide (1 ≤ members) && decide (members ≤ 64)
    && !(s.die d).joins.any (fun x => decide (x.2.group = bytesAt b 0 1))
    && decide (1 ≤ bytesAt b 1 1) && decide (bytesAt b 1 1 ≤ members)
    && decide (mode < 16) && decide (fill ≠ 3) && decide (op ≠ 3) && !(decide (fill = 1) && decide (op ≠ 0))
    && decide (bytesAt b 3 1 = 1)
    && decide (bytesAt b 8 9 % 4 = 0) && (decide (bytesAt b 17 1 = 1) || decide (bytesAt b 17 1 = 2))
    && zeroAt b 18 2 && zeroAt b 33 31
    && decide (tlen % 4 = 0) && decide (4 ≤ tlen) && decide (tlen ≤ 1048576)
    && (decide (fill = 2) || zeroAt b 24 9)

/-- The pages of a target or a substitute range: GSP bytes that lie within the scratchpad, or HBM pages (R339). -/
def State.joinRange (s : State) (g space : Nat) (a : Addr) (len : Nat) (write : Bool) :
    State × Except (BitVec 8) (List (Nat × Nat)) :=
  if len = 0 then (s, .ok [])
  else if space = 1 then
    (s, if 0x1000000 < a.toNat + len then .error 0x0b else .ok [(0, gspAddr g a.toNat)])
  else s.pagesOf g a len true write

/-- The numbers of the 64 KiB pages of a range of virtual addresses (R365). -/
def pagesIn (a : Addr) (len : Nat) : List Nat :=
  if len = 0 then [] else (List.range ((a.toNat + len - 1) / 65536 - a.toNat / 65536 + 1)).map (fun i => a.toNat / 65536 + i)

/-- A join is armed from its descriptor (R338, R339). -/
def State.armJoin (s : State) (g j : Nat) (b : List Byte) (ws : List (BitVec 32)) : State × Except (BitVec 8) Join :=
  let space := bytesAt b 17 1
  let tlen := bytesAt b 20 4
  let fill := bytesAt b 2 1 % 4
  let subs := if fill = 2 then ws.length * tlen else 0
  let vpns := if space = 1 then [] else pagesIn (BitVec.ofNat 72 (bytesAt b 8 9)) tlen ++ pagesIn (BitVec.ofNat 72 (bytesAt b 24 9)) subs
  match s.joinRange g space (BitVec.ofNat 72 (bytesAt b 8 9)) tlen true with
  | (s, .error c) => (s, .error c)
  | (s, .ok ps) =>
    match s.joinRange g space (BitVec.ofNat 72 (bytesAt b 24 9)) subs false with
    | (s, .error c) => (s, .error c)
    | (s, .ok subPages) =>
      (s, .ok { grove := g, group := bytesAt b 0 1, q := bytesAt b 1 1, fill := fill, op := bytesAt b 2 1 / 4 % 4,
                deadline := if bytesAt b 4 4 = 0 then none else some (s.cycle + bytesAt b 4 4),
                pages := ps, tlen := tlen, subPages := subPages, weights := ws,
                asid := (s.grove g).seq.ctl.asid, vpns := vpns })

/-- `q.open` (R338, R339): bounds and alignment of the descriptor first, then its fields, then its ranges. -/
def execQOpen (_h : Hdr) (j : BitVec 6) (_a : BitVec 4) (s : State) : Result :=
  s.groveWord (fun g =>
    let d := dieOf g
    let a := s.ctx.va.toNat
    if 0x1000000 ≤ a then s.issueTrap 0x0b 0
    else if a % 64 ≠ 0 then s.issueTrap 0x09 0
    else if !s.gspReady g a 64 then s
    else if s.mem.poisoned (gspAddr g a) 64 then s.issueTrap 0x13 0
    else
      let b := s.mem.bytes.readList (gspAddr g a) 64
      let members := (groupMembers ((s.die d).groups.get 0 (bytesAt b 0 1))).length
      if !s.descriptorOk d j.toNat b then s.issueTrap 0x14 0
      else if 0x1000000 < a + 64 + 4 * members then s.issueTrap 0x0b 0
      else if !s.gspReady g (a + 64) (4 * members) then s
      else if s.mem.poisoned (gspAddr g (a + 64)) (4 * members) then s.issueTrap 0x13 0
      else
        let ws := (List.range members).map (fun i => BitVec.ofNat 32 (s.readNat (gspAddr g (a + 64 + 4 * i)) 4))
        match s.armJoin g j.toNat b ws with
        | (s, .error c) => s.issueTrap c 0
        | (s, .ok x) => s.accept.setJoin d j.toNat x)

/-- The arrival mask of a join (R344). -/
def Join.mask (x : Join) : Word := BitVec.ofNat 64 ((x.arrived.map (fun i => 2 ^ i)).foldl (· + ·) 0)

/-- `q.wait` completes when the join is filled after its release, or is free (R344). -/
def execQWait (_h : Hdr) (d : BitVec 6) (j : BitVec 6) (s : State) : Result :=
  s.groveWord (fun g => match (s.die (dieOf g)).joins.get? j.toNat with
    | none => (s.late d 0).accept
    | some x => if x.filled then (s.late d x.mask).accept else s)

/-- `q.close`: an open join is released and filled and stays; a released one is freed, filled first (R342, R345). -/
def execQClose (_h : Hdr) (j : BitVec 6) (s : State) : Result :=
  s.groveWord (fun g =>
    let d := dieOf g
    let fill (s : State) : State := match (s.die d).joins.get? j.toNat with
      | some x => if x.filled then s else s.fillJoin d j.toNat x
      | none => s
    let s := s.accept
    match (s.die d).joins.get? j.toNat with
    | none => s
    | some x =>
      if x.released then (fill s).mapDie d (fun y => { y with joins := y.joins.erase j.toNat })
      else fill (s.releaseJoin d j.toNat))

/-! ### Groups -/

/-- A running multicast names a group (R302). -/
def Cmd.castOf (c : Cmd) (grp : Nat) : Bool :=
  !c.members.isEmpty && (match c.kind with
    | .mcPort | .mcGeo => decide (gField c.geo % 256 = grp)
    | _ => decide (gId c.geo % 256 = grp))

/-- The tiles of a die with those whose contexts are saved. -/
def State.dieTiles (s : State) (d : Nat) : List Tile :=
  ((s.tiles.filter (fun e => dieOf (groveOf e.1) = d)).map (·.2))
    ++ (s.groves.filter (fun e => dieOf e.1 = d)).flatMap (fun e => e.2.savedTiles.map (·.2))

/-- A group-table entry is in use (R302). -/
def State.groupInUse (s : State) (d grp : Nat) : Bool :=
  ((s.die d).gangs.get? grp).isSome || (s.die d).joins.any (fun j => decide (j.2.group = grp))
    || (s.dieTiles d).any (fun x => (x.task.isSome && decide (x.seq.ctl.tgroup.toNat = grp))
        || x.str.cmds.any (fun c => c.2.castOf grp))

/-- The records of an image of groups, applied in order (R353). -/
def applyRecords (old : KMap (BitVec 256)) : List (Nat × BitVec 256) → KMap (BitVec 256)
  | [] => old
  | (k, v) :: t => applyRecords (KMap.set 0 old k v) t

/-- A group table that R302 accepts in place of another. -/
def State.groupsOk (s : State) (d : Nat) (recs : List (Nat × BitVec 256)) (new : KMap (BitVec 256)) : Bool :=
  let old := (s.die d).groups
  recs.all (fun r => decide (r.2.toNat / 2 ^ 160 % 2 ^ 94 = 0))
    && decide (new.get 0 0 = 0)
    && (List.range 160).all (fun i => decide ((new.filter (fun e => groupValid e.2 && e.2.getLsbD i)).length ≤ 4))
    && (recs.map (·.1)).all (fun k => decide (new.get 0 k = old.get 0 k) || !s.groupInUse d k)

/-- `grp.ld` reads, checks and installs an image of groups as one event (R302, R353). -/
def execGrpLd (_h : Hdr) (_a : BitVec 4) (s : State) : Result :=
  s.groveWord (fun g =>
    let d := dieOf g
    match s.seqRead g s.ctx.va 8 with
    | (s, .error c) => s.issueTrap c 0
    | (s, .ok h) =>
      let n := bytesAt h 0 2
      if n = 0 || 256 < n || !zeroAt h 2 6 then s.issueTrap 0x14 0
      else match s.seqRead g (s.ctx.va + 8) (40 * n) with
        | (s, .error c) => s.issueTrap c 0
        | (s, .ok b) =>
          let recs := (List.range n).map (fun i => (bytesAt b (40 * i) 1, BitVec.ofNat 256 (bytesAt b (40 * i + 8) 32)))
          let new := applyRecords (s.die d).groups recs
          if (List.range n).all (fun i => zeroAt b (40 * i + 1) 7) && s.groupsOk d recs new then
            s.accept.mapDie d (fun x => { x with groups := new })
          else s.issueTrap 0x14 0)

/-- The summary of a group-table entry for a grove of the die (R354). -/
def groupSummary (e : BitVec 256) (k : Nat) : Word :=
  let ms := groupMembers e
  let groves := (List.range 10).filter (fun i => ms.any (fun m => decide (m / 16 = i)))
  BitVec.ofNat 64 ((if e.getLsbD 255 then 2 ^ 63 else 0) + (if e.getLsbD 254 then 2 ^ 62 else 0) + ms.length * 2 ^ 48
    + ((groves.map (fun i => 2 ^ (16 + i))).foldl (· + ·) 0) + e.toNat / 2 ^ (16 * k) % 2 ^ 16)

/-- `grp.rd` (R354). -/
def execGrpRd (_h : Hdr) (d : BitVec 6) (n : BitVec 8) (s : State) : Result :=
  s.groveWord (fun g => (s.late d (groupSummary ((s.die (dieOf g)).groups.get 0 n.toNat) (g % 10))).accept)

/-! ### Kernels -/

/-- The fields of a kernel record stand within R348, and its entry within its code (R349). -/
def kernelOk (b : List Byte) : Bool :=
  let entry := bytesAt b 0 2
  let base := bytesAt b 2 2
  let bound := bytesAt b 4 2
  zeroAt b 7 1 && zeroAt b 11 1 && zeroAt b 25 7 && zeroAt b 40 24 && decide (entry < 2048) && decide (base < 2048)
    && decide (bound ≤ 2048) && decide (bytesAt b 8 2 ≤ 256) && decide (base ≤ entry) && decide (entry < bound)

/-- A sequencer at the start of a program: all but barriers, inserted bundles and the registers that a start keeps; stores and atomics
on their way to their banks go on (R349, R399). -/
def Seq.fresh (q : Seq) : Seq :=
  { run := .running, bars := q.bars, inserted := q.inserted, reqs := q.leftReqs
    ctl := { q.ctl with
      tvec := 0, trappc := 0, uivec := 0, uimask := BitVec.allOnes 64, gangwait := 0x00010000, mclag := 256 } }

/-- A tile's kernel starts from a record (R349). A task that has ended is closed with the kernel it belonged to. -/
def State.startKernel (s : State) (t : Nat) (b : List Byte) : State :=
  s.mapTile t (fun x =>
    let x := if x.task.isSome then x.closeTask else x
    let q := x.seq.fresh
    { x with seq := ({ q with
      pc := (bytesAt b 0 2 : Nat), s := [], a := KMap.set 0 [] 0 (BitVec.ofNat 72 (bytesAt b 16 9))
      ctl := { q.ctl with
        codebase := .ofNat 11 (bytesAt b 2 2), codebound := .ofNat 12 (bytesAt b 4 2), spillbase := .ofNat 8 (bytesAt b 6 1)
        spillpanes := .ofNat 9 (bytesAt b 8 2), trerun := .ofNat 8 (bytesAt b 10 1), pmax := .ofNat 32 (bytesAt b 12 4) } }
      : Seq).writeS 1 (BitVec.ofNat 64 (bytesAt b 32 8)) })

/-- `tk.start` reads its record at issue and starts every masked tile, or none (R348, R349). -/
def execTkStart (_h : Hdr) (_a : BitVec 6) (_m : BitVec 4) (s : State) : Result :=
  s.groveWord (fun g =>
    let a := s.ctx.vb.toNat
    if 0x1000000 ≤ a then s.issueTrap 0x0b 0
    else if a % 64 ≠ 0 then s.issueTrap 0x09 0
    else if !s.gspReady g a 64 then s
    else if s.mem.poisoned (gspAddr g a) 64 then s.issueTrap 0x13 0
    else
      let b := s.mem.bytes.readList (gspAddr g a) 64
      match s.maskTiles g s.operand with
      | none => s.issueTrap 0x14 0
      | some ts =>
        if ts.isEmpty || !kernelOk b || ts.any (fun t => (s.tile t).seq.run = .running) then s.issueTrap 0x14 0
        else
          let s := match (s.grove g).migration with
            | some m => if ts.contains m.src && !(s.tile m.src).inGang then s.hastenMigration g m else s
            | none => s
          let s := ((List.range 16).filter (fun l => s.operand.getLsbD l)).foldl (fun s l => s.startKernel (s.physOf g l) b) s.accept
          match (s.grove g).migration with
          | some m => if ts.contains m.src then s.requestPreempt m.src else s
          | none => s)

/-- A freeze ends with the kernels of its region: none runs any more, and no task that was open at the freeze is left (R347, R350,
R377). -/
def State.endIdleFreeze (s : State) (t : Nat) : State :=
  if (s.frozenWith t).any (fun m => decide ((s.tile m).seq.run = .running) || (match (s.tile m).freeze with
    | some f => f.taskOpen
    | none => false)) then s
  else s.endFreeze t

/-- A tile's kernel stops: its task is aborted, its commands, routine and loads are killed, its queues and landing buffer
discarded, and its pre-emption ends with it (R350, R377). Stores and atomics on their way go on to their banks. -/
def State.stopKernel (s : State) (t : Nat) : State :=
  if (s.tile t).seq.run = .idle then s else
  let s := s.abortTask t .software 0
  let s := (List.range 64).foldl (fun s h => s.killCmd t h) s
  let s := (s.abortGangsOf t 0).stopTileRoutine t 0
  (s.mapTile t (fun x =>
    let y : Tile := if x.task.isSome then x.closeTask else x
    let z : Tile := y.resume.retry
    { z with
      seq := { z.seq.clear with run := .idle, handlers := [], boundary := false, reqs := z.seq.leftReqs }
      mx := { z.mx with
        tokens := [], mups := [], mepis := [], epi := if z.mx.mepis.isEmpty then z.mx.epi else [] } })).endIdleFreeze t

/-- `tk.stop` (R350). -/
def execTkStop (_h : Hdr) (_a : BitVec 6) (s : State) : Result :=
  s.masked (fun s ts => ts.foldl (fun s t => s.stopKernel t) s)

/-- A migration of the tile's position is under way (R308). -/
def State.migrating (s : State) (t : Nat) : Bool := match (s.grove (groveOf t)).migration with
  | some m => decide (m.src = t)
  | none => false

/-- The `state` field of `tk.stat` (R351). -/
def State.tileState (s : State) (t : Nat) : Nat :=
  let x := s.tile t
  if x.preempt = some .saved then 6
  else if (x.freeze.map (·.reason)) = some 0x10 then 4
  else if s.migrating t then 5
  else match x.seq.run with
    | .idle => 0
    | .running => 1
    | .halted => 2
    | .escalated => 3

/-- The state word of a tile (R351). -/
def State.tileWord (s : State) (t : Nat) : Word :=
  let c := (s.tile t).seq.ctl
  let st := s.tileState t
  let cause := if st = 3 then c.trapcause.toNat else if st = 4 then 0x10 else 0
  let pc := if st = 3 then c.trappc.toNat else (s.tile t).seq.pcNat
  BitVec.ofNat 64 (st * 2 ^ 61 + cause * 2 ^ 53 + pc * 2 ^ 42 + c.tstatus.toNat % 2 ^ 24)

/-- `tk.stat` (R351). -/
def execTkStat (_h : Hdr) (d : BitVec 6) (l : BitVec 4) (s : State) : Result :=
  s.groveWord (fun g => (s.late d (s.tileWord (s.physOf g l.toNat))).accept)

/-! ### Regions -/

/-- The tiles of a region number, none if no such region stands (R303). -/
def State.regionNamed (s : State) (d r : Nat) : List Nat :=
  if r < 256 then
    let e := (s.die d).groups.get 0 r
    if groupValid e && e.getLsbD 254 then s.groupTiles d r else []
  else if 416 ≤ r then []
  else
    let t := s.ofDieTile d (r - 256)
    if s.regionOf t = r then [t] else []

/-- A frozen region's state is scanned back, and its clocks restart; a parity error met there, as altered bytes may leave one, is a
soft error (R37, R372, R373; log entry 9). -/
def State.resumeRegion (s : State) (t : Nat) (ts : List Nat) : State :=
  let altered := ts.filter s.slotAltered
  let s' := if altered = [] then s else (ts.foldl State.scanBack s).draw
  let bad := ts.find? (fun m => (s'.tile m).parityBad || (altered.contains m && Config.freeBit s.fresh))
  let s' := s'.thaw t false
  match bad with
  | some m => s'.softError m
  | none => s'

/-- `rg.resume` waits for scan-out, and for the restoration of a saved region, then restarts the region's clock (R272,
R355, R372). -/
def execRgResume (_h : Hdr) (_a : BitVec 6) (s : State) : Result :=
  s.groveWord (fun g =>
    let ts := s.regionNamed (dieOf g) (s.operand.toNat % 512)
    if 512 ≤ s.operand.toNat || !ts.any (fun t => decide (groveOf t = g)) then s.issueTrap 0x14 0
    else match ts.find? (fun t => (s.tile t).freeze.isSome) with
      | none => s.accept
      | some t =>
        let scanned : Bool := match (s.tile t).freeze with
          | some f => f.scanned
          | none => true
        if !scanned || ts.any (fun t => (s.tile t).preempt = some .saved || (s.tile t).landing?) then s
        else s.accept.resumeRegion t ts)

/-! ### Channels -/

/-- A channel entry overlaps another range of words. -/
def chanMeets (e f : Word) : Bool :=
  decide (chanBase e < chanBase f + chanSize f) && decide (chanBase f < chanBase e + chanSize e)

/-- `ch.alloc` (R292, R293, R356). -/
def execChAlloc (_h : Hdr) (_a : BitVec 6) (c : BitVec 8) (s : State) : Result :=
  s.groveWord (fun g =>
    let v := s.operand
    let x := s.grove g
    let bad := v.getLsbD 63 || decide (v.toNat / 2 ^ 42 % 2 ^ 20 ≠ 0) || decide (v.toNat / 2 ^ 18 % 2 ^ 6 ≠ 0)
      || (decide (v.toNat % 2 ^ 18 = 0) && decide (chanBase v ≠ 0)) || chanValid (x.chans.get 0 c.toNat)
      || x.chans.any (fun e => chanValid e.2 && chanMeets v e.2)
    if bad then s.issueTrap 0x14 0
    else if 262144 < chanBase v + chanSize v then s.issueTrap 0x0b 0
    else
      let lo := gspAddr g (64 * chanBase v)
      let s := { s with mem := { s.mem with
        present := s.mem.present.filter (fun a => !(decide (lo ≤ a) && decide (a < lo + 64 * chanSize v))) } }
      s.accept.mapGrove g (fun x => { x with chans := x.chans.put c.toNat (v ||| BitVec.twoPow 64 63) }))

/-- A running command stands at a read that has to wait (R293). -/
def State.cmdWaits (s : State) (t : Nat) (c : Cmd) : Bool :=
  let waits {α : Type} (r : State × Acc α) : Bool := match r.2 with
    | .wait => true
    | _ => false
  c.active && (match c.kind with
    | .feed | .gather | .mcPort | .chr => waits (s.nextSlot t c)
    | .const => decide (c.reply.length ≠ 64) && waits (s.read t c c.geo (gBase c.geo) 64)
    | .copy | .gatherCopy | .scatterCopy => waits (s.copyRead t c)
    | .drain | .scatter => waits (s.rowOf t c c.pos)
    | .mcGeo => !c.ended && (if gSpace c.other = 0 then waits (s.dataWord t c c.pos) else waits (s.wbNext t c 0))
    | .wb => waits (s.wbNext t c 0)
    | .resIn => waits (s.read t c c.geo (gBase c.geo + BitVec.ofNat 72 (64 * c.pos)) 64)
    | _ => false)

/-- The reads of slot A that wait on a word of a channel end with 0x14 when it is freed, those that handlers interrupted
too (R162, R295). -/
def State.endReads (s : State) (u : Agent) (hit : Req → Bool) : State :=
  let trap (r : Req) : Trap := r.trapOf 0x14 0
  s.mapSeq u (fun q => { q with
    reqs := q.reqs.filter (fun r => !hit r)
    traps := q.traps ++ (q.reqs.filter hit).map trap
    handlers := q.handlers.map (fun h => { h with image := { h.image with
      reqs := h.image.reqs.filter (fun r => !hit r)
      traps := h.image.traps ++ (h.image.reqs.filter hit).map trap } }) })

/-- What a tile's engines read at that waits on absent channel words: stream commands by their handles, the first `mup` and `mepi`, and
configuration loads by slot with their offsets (R191, R242, R244, R293). -/
structure Waits where
  cmds : List Nat
  mup : Bool
  mepi : Bool
  loads : List (Nat × Nat)
  deriving DecidableEq, Repr

/-- The reads of a tile's engines that wait. -/
def State.waits (s : State) (t : Nat) : Waits :=
  let x := s.tile t
  let head (ls : List MatrixLoad) : Bool := match ls with
    | [] => false
    | l :: _ => (match (s.loadRead t l).2 with
      | .wait => true
      | _ => false)
  { cmds := (x.str.cmds.filter (fun k => s.cmdWaits t k.2)).map (·.1)
    mup := head x.mx.mups
    mepi := head x.mx.mepis
    loads := x.fab.loads.filterMap (fun l => (s.loadWaits t l.2).map (fun o => (l.1, o))) }

/-- The reads that waited and no longer do end with 0x14: a command stops by R226, a load completes with that status (R295). -/
def State.endWaits (s : State) (t : Nat) (was now : Waits) : State :=
  let s := (was.cmds.filter (fun h => !now.cmds.contains h)).foldl (fun s h => match s.cmd? t h with
    | some c => s.stopCmd t h { c with pos := c.standAt } 0x14
    | none => s) s
  let s := if was.mup && !now.mup then s.closeMup t 0x14 (((s.mx t).mups.head?.map (·.pos)).getD 0) else s
  let s := if was.mepi && !now.mepi then s.closeMepi t [] 0x14 (((s.mx t).mepis.head?.map (·.pos)).getD 0 / 16) else s
  (was.loads.filter (fun l => !now.loads.contains l)).foldl (fun s l => s.failLoad t l.1 l.2 0x14) s

/-- `ch.free`: the channel is no longer valid, and the reads that wait on its words end with 0x14 (R295, R357). -/
def execChFree (_h : Hdr) (c : BitVec 8) (s : State) : Result :=
  s.groveWord (fun g =>
    let e := (s.grove g).chans.get 0 c.toNat
    if !chanValid e then s.accept else
    let inside (a : Nat) : Bool := decide (chanBase e ≤ a / 64) && decide (a / 64 < chanBase e + chanSize e)
    let hit (u : Agent) (r : Req) : Bool := (match r.kind with
      | .load _ => r.val.isNone && inside r.ea && !s.presentFor u.tileNo r.inTask (gspAddr g r.ea)
      | _ => false)
    let freed := s.accept.mapGrove g (fun x => { x with
      chans := KMap.set 0 x.chans c.toNat (e &&& ~~~ BitVec.twoPow 64 63) })
    let ended := (groveUnits g).foldl (fun s u => s.endReads u (hit u)) freed
    (List.range 17).foldl (fun r p => r.endWaits (tileAt g p) (s.waits (tileAt g p)) (freed.waits (tileAt g p))) ended)

end Sys2Proof.Machine
end

