-- ==== Sys2Proof/Machine/Die.lean ====
section
/-!
DEFINITION. Events of a die: page walks (R366), scan-out (R371, R373), stillness (R376, R377), reply timeouts (R224,
R378), shootdowns (R369), the die registers (R368), and the errors, scrubs and spares of its memories (R290, R382, R383).
-/
namespace Sys2Proof.Machine

/-! ### Walks, scan-out, stillness, reply timeouts -/

/-- The accesses to HBM at which a command stands, as addresses with whether they read and their elements: those of what it reads
next, of the index first, and of the first value on its way. An access that it does not make next is none of them (R223). -/
def State.walksAt (s : State) (t : Nat) (c : Cmd) : List (Addr × Bool × Nat) :=
  let j := c.standAt
  let src := c.readGeo
  let past := match c.kind with
    | .feed | .mcPort => c.sent
    | .mcGeo => if gSpace c.other = 0 then c.sent else 64 * (c.pos - 1)
    | .wb => 64 * (c.pos - 1)
    | _ => c.taken
  let on (g : Vec) (a : Addr) (reads : Bool) (k : Nat) : List (Addr × Bool × Nat) := if gSpace g = 2 then [(a, reads, k)] else []
  let row := (s.rowOf t c j).2
  let index := if c.indexed then on c.index (gAddr c.index (j / max 1 (rowLen c.geo))) true (j / max 1 (rowLen c.geo)) else []
  let data : List (Addr × Bool × Nat) := if gFmt src = 6 then on src (gBase src + BitVec.ofNat 72 past) true j
    else if c.indexed && src = c.geo then (match row with
      | .ok r => on src (c.addr j r) true j
      | _ => [])
    else on src (gAddr src j) true j
  (if decide (j < c.count) then index else []) ++ (if c.reading then data else []) ++ (match c.due with
      | d :: _ => if c.dueSpace = 2 then [(d.addr, false, d.elem)] else []
      | [] => [])

/-- The accesses of a command walked in turn: the first that meets a fault meets the command as the access would. -/
def State.walkAll (s : State) (t h : Nat) (c : Cmd) : List (Addr × Bool × Nat) → State
  | [] => s
  | (a, reads, j) :: rest => match s.translate t (s.tile t).seq.ctl.asid a reads (!reads) with
    | (s', .ok _) => s'.walkAll t h c rest
    | (s', .fault e) => if e = 0x10 then s'.pageFault t h c a else if s.faultsToo t then s else s'.stopCmd t h { c with pos := j } e

/-- PAGE_WALK for command h of tile t: where both TLBs miss, the walk that its next access needs fills them, or meets the
command as the access would (R223, R366, R367, R370). -/
def execPageWalk (t h : Nat) (s : State) : Result :=
  .next (match s.cmd? t h with
    | none => s
    | some c =>
      if !c.active || ((s.tile t).still && !s.faultsToo t) then s else s.walkAll t h c (s.walksAt t c))

/-- The occupancy entry of an edge (R373). -/
def Tile.occupancy (x : Tile) (k : Nat) (e : BitVec 64) : Nat :=
  let q := x.fab.edges.get [] k
  let head : Nat := match q with
    | [] => 0
    | w :: _ => w.kind.toNat * 32 + (if eKind e = 1 ∧ w.kind = 0 ∧ w.data.getLsbD 0 then 128 else 0)
  min q.length 16 + head

/-- The header of a save slot, and the table of occupancies before it (R373). -/
def Tile.slotHeader (x : Tile) (f : Freeze) : List Byte :=
  let edges := x.image.edges.length
  let (h, a) := (f.faults.head?).getD (0xff, 0)
  [f.reason, BitVec.ofNat 8 (x.fab.active.getD 0)] ++ leBytes 2 edges ++ List.replicate 4 0 ++ leBytes 8 f.since
    ++ leBytes 9 a.toNat ++ [BitVec.ofNat 8 h] ++ List.replicate 38 0

/-- What scan-out writes: the table, the header, and the scanned words in an arrangement of the device's own (R373). -/
def Tile.slotBytes (x : Tile) (f : Freeze) : List Byte :=
  let occ := x.image.edges.zipIdx.flatMap (fun e => leBytes 2 (x.occupancy e.2 e.1))
  (occ ++ List.replicate (1024 - occ.length) 0).take 1024 ++ x.slotHeader f
    ++ (List.range x.scanItems.length).flatMap (scanBytes f.drawn)

/-- A host record of a frozen region: kind 6 with the header bytes 0 to 23 (R371, R398). -/
def State.hostFreeze (s : State) (t : Nat) (f : Freeze) (h : List Byte) : State :=
  match s.partOf (groveOf t) with
  | some (_, e) => s.hostEvent (partPort e) ⟨6, f.reason, BitVec.allOnes 32, BitVec.ofNat 192 (leNat (h.take 24))⟩
  | none => s

/-- The events of a tile's faulting commands, in order of handle (R299, R371). -/
def State.faultEvents (s : State) (t : Nat) (f : Freeze) : State :=
  ((List.range 256).flatMap (fun h => f.faults.filter (fun e => e.1 = h))).foldl (fun s e =>
    let a := e.2.toNat
    (s.postTile t 9 0x10 0 (a / 2 ^ 64 % 256 * 2 ^ 24 + f.region) (BitVec.ofNat 64 a)).hostFreeze t f
      ((s.tile t).slotHeader { f with faults := [e] })) s

/-- One member's state is copied to its save slot (R371, R373). -/
def State.scanMember (s : State) (t : Nat) : State :=
  match (s.tile t).freeze with
  | none => s
  | some f =>
    let f' := { f with scanned := true, drawn := s.fresh }
    ((s.write (s.saveSlot t) ((s.tile t).slotBytes f')).mapTile t (fun x => { x with freeze := some f' })).draw

/-- A region's scan-out: every member's state is copied, and the events are posted (R371, R373, R377). -/
def State.scanRegion (s : State) (ts : List Nat) : State :=
  let s := ts.foldl State.scanMember s
  match (ts.filterMap (fun t => (s.tile t).freeze.map (fun f => (t, f)))) with
  | [] => s
  | (t0, f0) :: _ =>
    if f0.reason = 0x10 then
      ts.foldl (fun s t => match (s.tile t).freeze with
        | some f => s.faultEvents t f
        | none => s) s
    else
      let s := ((ts.map groveOf).eraseDups).foldl (fun s g => s.postEvent g (evRecord 8 0x19 0xff 0 f0.region 0)) s
      s.hostFreeze t0 f0 ((s.tile t0).slotHeader f0)

/-- What scan-out leaves: a parity error that its read has met is a soft error, and a freeze whose tasks are gone ends, with it or
before it (R37, R39, R347, R372). -/
def State.afterScan (s : State) (ts : List Nat) : State :=
  let s := match ts.find? (fun t => (s.tile t).parityBad) with
    | some t => s.softError t
    | none => s
  match ts.find? (fun t => match (s.tile t).freeze with
    | some f => f.ending
    | none => false) with
  | some t => s.thaw t true
  | none => s

/-- SCAN_OUT of region r of die d (R371). -/
def execScanOut (d r : Nat) (s : State) : Result :=
  let ts := s.regionNamed d r
  .next (if ts.any (fun t => match (s.tile t).freeze with
    | some f => !f.scanned
    | none => false) then (s.scanRegion ts).afterScan ts else s)

/-- A member runs a kernel, has a task open or a command busy (R376). -/
def Tile.watchedBy (x : Tile) : Bool := x.seq.run = .running || x.task.isSome || !x.str.cmds.isEmpty

/-- A region is watched (R376). -/
def State.watched (s : State) (ts : List Nat) : Bool :=
  ts.any (fun t => (s.tile t).watchedBy) && ts.all (fun t => !(s.tile t).still)

/-- The stillness limit of a region: that of the grove of its lowest-numbered member (R376). -/
def State.stillLimit (s : State) (ts : List Nat) : Nat := match ts with
  | [] => 0
  | t :: _ => (s.grove (groveOf t)).stilllimit.toNat

/-- STILLNESS_FAULT of region r of die d (R377). -/
def execStillnessFault (d r : Nat) (s : State) : Result :=
  let ts := s.regionNamed d r
  let limit := s.stillLimit ts
  .next (match ts with
    | [] => s
    | t :: _ =>
      if limit ≠ 0 && s.watched ts && decide (limit ≤ (s.die d).still.get 0 r) then s.freezeRegion t 0x19 none else s)

/-- A request of a command to a store port that its drive has not answered, with the cycle since which it is out and its element: the
read it stands at, or the first value on its way (R224, R378). -/
def State.storeWaits (s : State) (t : Nat) (c : Cmd) : Option (Nat × Nat) :=
  let asks (g : Vec) (j : Nat) : Option (Nat × Nat) :=
    if gSpace g ≠ 4 then none else (s.nameSpace t g).bind (fun ns => (s.hub.driveDown.get? ns.port).map (fun n => (max n c.waitSince, j)))
  let read := if c.reading then asks c.readGeo c.standAt else none
  if !c.active then none else
  match c.due with
  | d :: _ => if c.inTask || !c.dueOpen d || c.dueSpace ≠ 4 then read else asks c.target d.elem
  | [] => read

/-- REPLY_TIMEOUT of command h of tile t, 65 for its first `macc` token: a request out for `replylimit` cycles stops it
with 0x12 at the element whose request timed out (R224, R378). -/
def execReplyTimeout (t h : Nat) (s : State) : Result :=
  let limit := (s.grove (groveOf t)).replylimit.toNat
  let late (c : Cmd) : Option Nat :=
    match c.unacked.find? (fun u => decide (limit ≤ s.cycle - u.2)) with
    | some u => some u.1
    | none => if c.awaitsReply && c.asked.isSome && !c.frozen && decide (limit ≤ s.cycle - c.waitSince) then some c.readAt
      else match s.storeWaits t c with
        | some (n, j) => if limit ≤ s.cycle - n then some j else none
        | none => none
  .next (if h = 65 then
      match (s.mx t).tokens with
      | [] => s
      | k :: _ => match late k.cmd with
        | some j => s.closeToken t k 0x12 j
        | none => s
    else match s.cmd? t h with
      | none => s
      | some c =>
        if c.cause ≠ 0 && c.done then s else
        match late c with
        | some j => s.stopCmd t h { c with pos := j, unacked := [], resend := [] } 0x12
        | none => s)

/-! ### Shootdowns and the die registers -/

/-- A shootdown matches an entry (R369). -/
def TlbEntry.shot (e : TlbEntry) (v : BitVec 10) (page : BitVec 56) : Bool :=
  decide (e.asid = v.setWidth 9) && (v.getLsbD 9
    || decide (e.vpn = if e.big then page.toNat / 2 ^ 14 else page.toNat))

/-- A shootdown starts, or waits for the running one (R368, R369). -/
def Die.shootdown (x : Die) (v : BitVec 10) : Die :=
  let x := { x with dshootLast := v }
  match x.dshoot with
  | none => { x with dshoot := some (v, x.dshva) }
  | some _ => { x with shootWaiting := x.shootWaiting ++ [v] }

/-- The hub shoots a page, or all pages of an ASID, down on all four dies (R369). -/
def State.shootPackage (s : State) (page : BitVec 56) (v : BitVec 10) : State :=
  let s := (List.range 4).foldl (fun s d => s.mapDie d (fun x => ({ x with dshva := page } : Die).shootdown v)) s
  { s with hub := { s.hub with shooting := true } }

/-- A join that has still to access pages by the translation of a removed entry, which `q.open` made (R339, R369). -/
def Die.joinHolds (x : Die) (removed : List TlbEntry) : Bool :=
  x.joins.any (fun j => !j.2.filled && j.2.vpns.any (fun p => removed.any (fun e => e.hits j.2.asid (65536 * p))))

/-- DSHOOT_WRITE: a shootdown starts, or waits for the running one (R368, R369). -/
def execDshootWrite (d : Nat) (v : BitVec 64) (s : State) : Result :=
  .next (s.mapDie d (·.shootdown (v.setWidth 10)))

/-- SHOOTDOWN_DONE: the matching entries are gone from the slices and from the tiles' TLBs, once no join has an access to make by one
of them, and the next shootdown that waits starts; the hub's is complete when all four dies have cleared (R369). Every other access of
the model performs with its translation, so none is outstanding. -/
def execShootdownDone (d : Nat) (s : State) : Result :=
  .next (match (s.die d).dshoot with
    | none => s
    | some (v, page) =>
      let hit (e : TlbEntry) : Bool := e.shot v page
      let mine := s.tiles.filter (fun e => dieOf (groveOf e.1) = d)
      let removed := ((s.die d).tlb.flatMap (fun k => k.2.filter hit)) ++ mine.flatMap (fun e => e.2.tlb.filter hit)
      if (s.die d).joinHolds removed then s else
      let tiles := s.tiles.map (fun e => if dieOf (groveOf e.1) = d then
        (e.1, { e.2 with tlb := e.2.tlb.filter (fun k => !hit k) }) else e)
      let s := ({ s with tiles := tiles }).mapDie d (fun x =>
        let slices : KMap (List TlbEntry) := x.tlb.map (fun (k : Nat × List TlbEntry) => (k.1, k.2.filter (fun e => !hit e)))
        let x := { x with tlb := slices.filter (fun k => !k.2.isEmpty) }
        match x.shootWaiting with
        | [] => { x with dshoot := none }
        | w :: rest => { x with dshoot := some (w, x.dshva), shootWaiting := rest })
      if (List.range 4).all (fun k => (s.die k).dshoot.isNone) then { s with hub := { s.hub with shooting := false } } else s)

/-- DLOGBASE_WRITE, ignored where the area would pass the end of HBM (R368). -/
def execDlogbaseWrite (d : Nat) (v : BitVec 64) (s : State) : Result :=
  let b : Word := v &&& BitVec.ofNat 64 (2 ^ 46 - 2 ^ 28)
  .next (if b.toNat + 160 * 2 ^ 24 ≤ hbmEnd then s.mapDie d (fun x => { x with dlogbase := b }) else s)

/-- DSAVEBASE_WRITE, ignored where the area would pass the end of HBM (R368). -/
def execDsavebaseWrite (d : Nat) (v : BitVec 64) (s : State) : Result :=
  let b : Word := v &&& BitVec.ofNat 64 (2 ^ 46 - 2 ^ 22)
  .next (if b.toNat + 160 * 131072 ≤ hbmEnd then s.mapDie d (fun x => { x with dsavebase := b }) else s)

/-- DSCRUB_WRITE (R368). -/
def execDscrubWrite (d : Nat) (v : BitVec 64) (s : State) : Result :=
  let k := v.toNat % 256
  .next (s.mapDie d (fun x => { x with dscrub := if 32 ≤ k ∧ k ≤ 44 then .ofNat 8 k else 40 }))

/-! ### Errors of the memories -/

/-- The stack of an HBM address (R363). -/
def hbmStack (a : Nat) : Nat := a / 2 ^ 36
/-- The channel of its 256-byte block within the stack (R363). -/
def hbmChannel (a : Nat) : Nat := (a / 2 ^ 8 % 32) ^^^ (a / 2 ^ 16 % 32)
/-- The home node of the block: the controller of its channel, or of the stack's reserve, 32, once the block has moved there
(R310, R363, R383). -/
def State.homeNode (s : State) (a : Nat) : Nat × Nat :=
  (hbmStack a, if s.mem.moved.contains (a / 256) then 32 else hbmChannel a)

/-- A corrected error of a stack is counted, up to all ones (R368, R382). -/
def State.countError (s : State) (k : Nat) : State :=
  s.mapDie (k / 2) (fun x =>
    let n := x.dcerr.get 0 (k % 2)
    { x with dcerr := x.dcerr.set 0 (k % 2) (if n = BitVec.allOnes 32 then n else n + 1) })

/-- HBM_PATROL_SCRUB of the 32-byte unit at an address: it finds no error (0), one it corrects (1), or one it cannot
(2) (R382). -/
def execHbmPatrolScrub (a e : Nat) (s : State) : Result :=
  if hbmEnd ≤ a then .fault .noSuchAddress
  else .next (match e with
    | 0 => s
    | 1 => s.countError (hbmStack a)
    | _ => ({ s with mem := s.mem.setPoison a }).report 0x13 (hbmStack a))

/-- GSP_PATROL_SCRUB of the 64-bit word at an address of a grove scratchpad, with the same findings (R290). -/
def execGspPatrolScrub (g a e : Nat) (s : State) : Result :=
  if 0x1000000 ≤ a then .fault .noSuchAddress
  else .next (if e ≤ 1 then s else { s with mem := s.mem.setPoison (gspAddr g a) })

/-- HBM_ROW_REPAIR: the row's contents stand throughout, so no access sees it (R383). -/
def execHbmRowRepair (_k _r : Nat) (s : State) : Result := .next s

/-- HBM_CHANNEL_RETIRE of stack k: a number below 32 is a channel whose retirement begins, and a stack has one reserve; 32 + b moves block
b of the stack, of the channel that retires, to its new home node as one event, with its contents and its poison (R383; log entry 2). -/
def execHbmChannelRetire (k c : Nat) (s : State) : Result :=
  let b := k * 2 ^ 28 + (c - 32)
  .next (match s.mem.retired.get? k with
    | none => if c < 32 then { s with mem := { s.mem with retired := s.mem.retired.put k c } } else s
    | some r =>
      if 32 ≤ c ∧ c - 32 < 2 ^ 28 ∧ hbmChannel (256 * b) = r then { s with mem := { s.mem with moved := insertNat b s.mem.moved } }
      else s)

/-- The valid entries of a table; a table without listed bytes has none. -/
def State.tableEntries (s : State) (table size : Nat) : List Nat :=
  let as := ((s.mem.bytes.filter (fun c => decide (table ≤ c.1) && decide (c.1 < table + size))).map (fun c => c.1 / 8 * 8)).eraseDups
  (as.map (fun a => s.readNat a 8)).filter (fun e => Nat.testBit e 0)

/-- Some page that the tables map lies in a stack (R365, R366). -/
def State.mapsStack (s : State) (k : Nat) : Nat → Nat → Bool
  | 0, table => (s.tableEntries table 0x20000).any (fun e =>
      !entryBad 0 e && decide (e / 2 ^ 16 % 2 ^ 30 * 2 ^ 16 / 2 ^ 36 = k))
  | l + 1, table => (s.tableEntries table (if l = 2 then 0x80000 else 0x10000)).any (fun e =>
      let pa := e / 2 ^ 16 % 2 ^ 30 * 2 ^ 16
      !entryBad (l + 1) e && (if Nat.testBit e 1 then decide (pa / 2 ^ 36 = k) else s.mapsStack k l pa))

/-- SECOND_CHANNEL_FAILURE of stack k: where a channel has been spared before, management firmware is told, and the partitions mapped
onto the stack are faulted (R383). The cause 0 of both is the model's (log entry 47). -/
def execSecondChannelFailure (k : Nat) (s : State) : Result :=
  .next (match s.mem.retired.get? k with
    | none => s
    | some _ =>
      let hit := s.hub.parts.filter (fun e => partValid e.2 && s.mapsStack k 3 (partRoot e.2))
      hit.foldl (fun s e => s.faultPart e.1 e.2 0) (({ s with mem := { s.mem with failed := insertNat k s.mem.failed } } : State).report 0 k))

end Sys2Proof.Machine
end

