-- ==== Sys2Proof/Machine/Bundle.lean ====
section
/-!
DEFINITION. The dispatch of a bundle (R108, R111 to R118, R137 to R142, R154, R162, R170 to R174, R188, R190, R192,
R265, R425) and the landing points `yield`, `ckpt` and `killpt` (R190).
-/
namespace Sys2Proof.Machine

/-! ### The checks of a bundle as it stands (R154, R417) -/

/-- Where a bundle stands: who runs it, whether it is the last bundle of an active loop body, and whether it is bundle
`codebound` − 1 (R142, R152). -/
structure Place where
  grove : Bool
  loopEnd : Bool
  lastBundle : Bool
  deriving DecidableEq, Repr

/-- The word in the same slot of the next bundle may follow an `ext`: one that takes the payload, or one that fails a
decode check of its own (R142). -/
def prefixable (grove : Bool) (sl : Slot) (w : BitVec 32) : Bool :=
  match decodeSlot grove sl w with
  | .ok i => takesExt i
  | .error _ => w ≠ 0 && opOf w ≠ 0x7f

/-- An `ext` stands where R142 allows it. -/
def extOk (pl : Place) (cur next : Slot → BitVec 32) (sl : Slot) : Bool :=
  let b := opOf (cur .b)
  let l := opOf (cur .l)
  (cur sl).getLsbD 31 = false && !(decide (0x40 ≤ b) && decide (b ≤ 0x46)) && l ≠ 4 && l ≠ 5 && !pl.loopEnd && !pl.lastBundle
    && prefixable pl.grove sl (next sl)

/-- The 16-bit limit on a lengthened count of `bar.init` (R142, R151). -/
def tooLong (i : Instr) (e : Option (BitVec 24)) : Bool :=
  match i, e with
  | .barInit _ _ k, some _ => decide (0xffff < immUnsigned e k)
  | _, _ => false

/-- The cause of one slot's word in the second step of R154. -/
def slotFault (pl : Place) (cur next : Slot → BitVec 32) (pay : Slot → Option (BitVec 24)) (sl : Slot) : Option (BitVec 8) :=
  let w := cur sl
  let refused : Bool := pl.grove && groveRefuses sl w
  if w ≠ 0 && !refused && opOf w = 0x7f then (if extOk pl cur next sl then none else some 0x04) else
  match decodeSlot pl.grove sl w with
  | .error .voidWord => some 0x01
  | .error .illegalOpcode => some 0x02
  | .error .privilege => some 0x0c
  | .ok i => if tooLong i (pay sl) then some 0x02 else none

/-- The instruction of a slot's word. -/
def instrAt (pl : Place) (cur : Slot → BitVec 32) (sl : Slot) : Instr :=
  match decodeSlot pl.grove sl (cur sl) with
  | .ok i => i
  | .error _ => .nop

/-- The destination of a word, for the rule of R153. -/
def duplicateDest (i : Instr) : Option Dest :=
  match destination i with
  | some (.s 0) | some (.q 0) => none
  | d => d

/-- The first failure of a bundle in the order of R154, steps 2 and 3: its cause and its slot; of equal destinations the lowest slot that
repeats an earlier one's (log entry 44). -/
def bundleFault (pl : Place) (cur next : Slot → BitVec 32) (pay : Slot → Option (BitVec 24)) : Option (BitVec 8 × Slot) :=
  match Slot.all.findSome? (fun sl => (slotFault pl cur next pay sl).map (fun c => (c, sl))) with
  | some f => some f
  | none =>
    let barred := [Slot.c, Slot.d, Slot.m].find? (fun sl => pl.grove && opOf (cur sl) ≠ 0x01)
    let twice := Slot.all.find? (fun sl => match duplicateDest (instrAt pl cur sl) with
      | none => false
      | some d => Slot.all.any (fun k => decide (k.index < sl.index) && decide (duplicateDest (instrAt pl cur k) = some d)))
    match barred with
    | some sl => some (0x03, sl)
    | none => twice.map (fun sl => (0x03, sl))

/-! ### The words of a bundle -/

/-- A word whose predicate holds, with its payload (R139, R141). -/
structure Active where
  slot : Slot
  word : BitVec 32
  instr : Instr
  ext : Option (BitVec 24)
  deriving DecidableEq, Repr

/-- The words of slot V that wait in their queue and hold dispatch: `fence`, `uiret`, `tret`, `halt` and `tsk.end`
(R114, R185, R188, R189, R193). -/
def holdsDispatch (w : BitVec 32) : Bool := [0x07, 0x0b, 0x0c, 0x0d, 0x13].contains (opOf w)

/-- The words that make their bundle a realignment point without a Y bit (R185, R188, R189, R192). -/
def realigns (i : Instr) : Bool :=
  match i with
  | .uiret _ | .tret _ | .halt _ | .cfgRun _ _ _ _ | .fence _ _ => true
  | _ => false

/-- The words of slot V that act at the dispatch of their bundle (R190, R192). -/
def actsAtOnce (i : Instr) : Bool :=
  match i with
  | .cfgRun _ _ _ _ | .ckpt _ _ | .yield _ | .killpt _ => true
  | _ => false

/-- The entry of a word at its bundle's dispatch, before it captures its operands. -/
def Active.entry (a : Active) (q : Seq) : Entry :=
  { word := a.word, slot := a.slot, pc := q.pcNat, num := q.num, ext := a.ext }

/-- The entry of a queue word, with the operands read at dispatch (R111). -/
def Active.captured (a : Active) (q : Seq) (g : Nat → Vec) : Entry :=
  let (va, vb, g0, g1, g2) := Sys2Proof.Machine.captured a.instr q g
  { a.entry q with va := va, vb := vb, g0 := g0, g1 := g1, g2 := g2 }

/-- The meaning of a scalar word, of slots A, B and L (R111). -/
def scalarMeaning (i : Instr) (s : State) : Result :=
  match i with
  | .add h x1 x2 x3 => execAdd h x1 x2 x3 s
  | .sub h x1 x2 x3 => execSub h x1 x2 x3 s
  | .addi h x1 x2 x3 => execAddi h x1 x2 x3 s
  | .mul h x1 x2 x3 => execMul h x1 x2 x3 s
  | .mulh h x1 x2 x3 => execMulh h x1 x2 x3 s
  | .mulhn h x1 x2 x3 => execMulhn h x1 x2 x3 s
  | .and h x1 x2 x3 => execAnd h x1 x2 x3 s
  | .or h x1 x2 x3 => execOr h x1 x2 x3 s
  | .xor h x1 x2 x3 => execXor h x1 x2 x3 s
  | .andn h x1 x2 x3 => execAndn h x1 x2 x3 s
  | .shl h x1 x2 x3 => execShl h x1 x2 x3 s
  | .shr h x1 x2 x3 => execShr h x1 x2 x3 s
  | .sra h x1 x2 x3 => execSra h x1 x2 x3 s
  | .shli h x1 x2 x3 => execShli h x1 x2 x3 s
  | .shri h x1 x2 x3 => execShri h x1 x2 x3 s
  | .srai h x1 x2 x3 => execSrai h x1 x2 x3 s
  | .min h x1 x2 x3 => execMin h x1 x2 x3 s
  | .max h x1 x2 x3 => execMax h x1 x2 x3 s
  | .minn h x1 x2 x3 => execMinn h x1 x2 x3 s
  | .maxn h x1 x2 x3 => execMaxn h x1 x2 x3 s
  | .clz h x1 x2 => execClz h x1 x2 s
  | .popc h x1 x2 => execPopc h x1 x2 s
  | .sext h x1 x2 x3 => execSext h x1 x2 x3 s
  | .zext h x1 x2 x3 => execZext h x1 x2 x3 s
  | .li h x1 x2 => execLi h x1 x2 s
  | .mov h x1 x2 => execMov h x1 x2 s
  | .cmp h x1 x2 x3 x4 => execCmp h x1 x2 x3 x4 s
  | .cmpi h x1 x2 x3 x4 => execCmpi h x1 x2 x3 x4 s
  | .sel h x1 x2 x3 x4 => execSel h x1 x2 x3 x4 s
  | .qop h x1 x2 x3 x4 => execQop h x1 x2 x3 x4 s
  | .ld h x1 x2 x3 x4 => execLd h x1 x2 x3 x4 s
  | .ldn h x1 x2 x3 x4 => execLdn h x1 x2 x3 x4 s
  | .st h x1 x2 x3 x4 => execSt h x1 x2 x3 x4 s
  | .ldg h x1 x2 x3 x4 => execLdg h x1 x2 x3 x4 s
  | .ldgn h x1 x2 x3 x4 => execLdgn h x1 x2 x3 x4 s
  | .stg h x1 x2 x3 x4 => execStg h x1 x2 x3 x4 s
  | .amoAdd h x1 x2 x3 x4 => execAmoAdd h x1 x2 x3 x4 s
  | .amoMin h x1 x2 x3 x4 => execAmoMin h x1 x2 x3 x4 s
  | .amoMax h x1 x2 x3 x4 => execAmoMax h x1 x2 x3 x4 s
  | .amoAnd h x1 x2 x3 x4 => execAmoAnd h x1 x2 x3 x4 s
  | .amoOr h x1 x2 x3 x4 => execAmoOr h x1 x2 x3 x4 s
  | .amoXor h x1 x2 x3 x4 => execAmoXor h x1 x2 x3 x4 s
  | .amoSwap h x1 x2 x3 x4 => execAmoSwap h x1 x2 x3 x4 s
  | .amoCas h x1 x2 x3 x4 => execAmoCas h x1 x2 x3 x4 s
  | .br h x1 => execBr h x1 s
  | .jmp h x1 => execJmp h x1 s
  | .call h x1 => execCall h x1 s
  | .callr h x1 => execCallr h x1 s
  | .ret h x1 => execRet h x1 s
  | .trap h x1 => execTrap h x1 s
  | .brk h x1 => execBrk h x1 s
  | .loop h x1 x2 => execLoop h x1 x2 s
  | .loopi h x1 x2 => execLoopi h x1 x2 s
  | .lexit h => execLexit h s
  | .lnext h => execLnext h s
  | .aadd h x1 x2 x3 => execAadd h x1 x2 x3 s
  | .aaddi h x1 x2 x3 => execAaddi h x1 x2 x3 s
  | .amov h x1 x2 => execAmov h x1 x2 s
  | .aset h x1 x2 => execAset h x1 x2 s
  | .aget h x1 x2 => execAget h x1 x2 s
  | .ahi h x1 x2 x3 => execAhi h x1 x2 x3 s
  | .geoLd h x1 x2 x3 => execGeoLd h x1 x2 x3 s
  | .geoSt h x1 x2 x3 => execGeoSt h x1 x2 x3 s
  | .geoBase h x1 x2 => execGeoBase h x1 x2 s
  | .geoAdv h x1 x2 x3 => execGeoAdv h x1 x2 x3 s
  | _ => .next s

/-- A word of the scalar group, or `cfg.run`, takes effect as the context's word. -/
def State.actNow (s : State) (a : Active) : State :=
  let s := { s with ctx := a.captured (s.seqOf s.focus) (fun n => (s.tile s.tileNo).g.get 0 n) }
  match (match a.instr with
    | .cfgRun h l r g => execCfgRun h l r g s
    | i => scalarMeaning i s) with
  | .next s' => s'
  | _ => s

/-- The first fault that the bundle's words meet at dispatch, in slot order (R162). -/
def State.firstFault (s : State) (acts : List Active) : Option DFault :=
  acts.findSome? (fun a => dispatchFault { s with ctx := a.entry (s.seqOf s.focus) } a.instr)

/-- The queue words enter the tails of their queues (R111). -/
def Seq.enqueue (q : Seq) (es : List Entry) : Seq :=
  es.foldl (fun q e => { q with queues := q.queues.set [] e.slot.index (q.queues.get [] e.slot.index ++ [e]) }) q

/-- The innermost level that the running handler has not frozen ends here (R173, R262). -/
def Seq.bodyEnds (q : Seq) (pc : Nat) : Bool :=
  q.liveLevels ≠ 0 && (match q.loops with
    | k :: _ => decide (k.last = pc)
    | [] => false)

/-- The loop-stack depth as `tret` and `uiret` find it, against that at entry (R131, R188). -/
def State.returnFault (s : State) (acts : List Active) : Option (BitVec 8 × Active) :=
  let q := s.seqOf s.focus
  match acts.find? (fun a => match a.instr with
    | .tret _ | .uiret _ => true
    | _ => false), q.handlers with
  | some a, h :: _ =>
    if h.depth < q.loops.length then some (0x07, a)
    else if q.loops.length < h.depth then some (0x08, a)
    else none
  | _, _ => none

/-- The bundle at a place is the first of the innermost loop's body. -/
def Seq.atStart (q : Seq) (pc : Int) : Bool := match q.loops with
  | k :: _ => decide ((k.start : Int) = pc)
  | [] => false

/-- The end of a dispatch: the end of a loop body, the next bundle, the bundle time, and what the point before the next
bundle allows (R108, R115, R142, R170 to R174, R425). A level pushed in the end bundle of an outer one goes first, and the outer one
is not advanced there (log entry 44). -/
def State.advance (s : State) (pc : Nat) (pays : KMap (BitVec 24)) : State :=
  let u := s.focus
  let q := s.seqOf u
  let q := if q.branch.isNone && !q.loopDone && q.bodyEnds pc then q.endIteration else q
  let next : Int := match q.branch, q.next with
    | some b, _ => b
    | none, some n => n
    | none, none => (pc : Int) + 1
  let extra : Bool := q.inserted.contains pc
  let s := s.setSeq u { q with
    pc := next, boundary := q.began && q.atStart next, began := false, prefixes := if next = (pc : Int) + 1 then pays else []
    uiGap := true, evGap := true, noTrap := extra, branch := none, next := none, loopDone := false }
  ((s.tick u (if extra then some q.num else none)).mapSeq u (fun q => { q with num := q.num + 1 })).markMoved u

/-- The bundle's words take effect: `cfg.run` first, then the scalar group in slot order; queue words enter their queues
with the operands read before (R111, R192). -/
def State.effect (s : State) (acts : List Active) (pays : KMap (BitVec 24)) : State :=
  let u := s.focus
  let q := s.seqOf u
  let pc := q.pcNat
  let queued := (acts.filter (fun a => decide (3 ≤ a.slot.index) && !actsAtOnce a.instr)).map
    (fun a => a.captured q (fun n => (s.tile s.tileNo).g.get 0 n))
  let runs := acts.filter (fun a => a.slot = .v && realigns a.instr && actsAtOnce a.instr)
  let scalars := acts.filter (fun a => decide (a.slot.index < 3))
  let t := (runs ++ scalars).foldl State.actNow (s.mapSeq u (fun q => { q with prefixes := [] }))
  (t.mapSeq u (·.enqueue queued)).advance pc pays

/-- The points at which dispatch of a bundle waits (R112 to R114, R116, R117, R192). -/
def State.stalls (s : State) (acts : List Active) (realign : Bool) : Bool :=
  let q := s.seqOf s.focus
  let entries := q.queues.flatMap (·.2)
  (realign && !entries.isEmpty) || entries.any (fun e => decide (e.num + 16 ≤ q.num))
    || acts.any (fun a => (sources a.instr).any (fun c => c ≠ 0 && q.reqs.any (fun r => r.dest = some (destOf c) && decide (c.toNat < 48))))
    || acts.any (fun a => match a.instr with
      | .cfgRun _ l _ _ => q.reqs.any (fun r => r.dest.isSome) || ((s.tile s.tileNo).fab.loads.get? ((s.tile s.tileNo).runSlot l)).isSome
      | _ => false)

/-- A landing that `ckpt`, `yield` or `killpt` takes before any word of its bundle has effect; that of `killpt` passes over
its bundle, those of the others dispatch it again (R190, R267, R272). -/
def State.landingWord (s : State) (acts : List Active) : Option State :=
  match s.focus with
  | .seq _ => none
  | .tile t =>
    let x := s.tile t
    let due := x.preemptDue && x.landingOpen false
    acts.findSome? (fun a => match a.instr with
      | .ckpt _ n => if due then some (s.land t (some n.toNat) false) else none
      | .yield _ => if due then some (s.land t none true) else none
      | .killpt _ =>
        if x.killDue && !x.inGang && x.seq.handlers.isEmpty && x.seq.prefixes.isEmpty && !x.seq.noTrap then
          some ((s.landKill t).advance x.seq.pcNat [])
        else none
      | _ => none)

/-- A checked bundle is dispatched, waits, or traps (R111 to R117, R154, R162, R192). A trap found at a point that R142 closes
is taken after the bundle. -/
def State.dispatchWords (s : State) (acts : List Active) (realign : Bool) (pays : KMap (BitVec 24)) : State :=
  let u := s.focus
  let pc := (s.seqOf u).pcNat
  match s.landingWord acts with
  | some s' => s'
  | none =>
    if s.stalls acts realign then s else
    let s := if acts.any (fun a => realigns a.instr && actsAtOnce a.instr) then s.drainLands u else s
    if (s.seqOf u).open? && (s.seqOf u).traps ≠ [] then s else
    let landed := if realign then s.landLates u else s
    if (landed.seqOf u).open? && (landed.seqOf u).traps ≠ [] then landed else
    match landed.firstFault acts with
    | some (c, info) => s.takeTrap u c pc info
    | none =>
      let t := landed.effect acts pays
      match t.returnFault acts with
      | some (c, a) => s.takeTrap u c pc (trapInfo a.word 0 a.slot.index)
      | none => t

/-- The words of the bundle at the pc, or the trap that its fetch or its checks meet (R154, R265). -/
def State.fetched (s : State) (u : Agent) : Except (BitVec 8 × Word) (List Active) :=
  let q := s.seqOf u
  if q.pc < (q.ctl.codebase.toNat : Int) ∨ (q.ctl.codebound.toNat : Int) ≤ q.pc then .error (0x05, 0) else
  let pc := q.pcNat
  let at0 := codeAddr u.codeUnit (32 * pc)
  if s.mem.poisoned at0 32 then .error (0x13, 0) else
  let cur (sl : Slot) : BitVec 32 := .ofNat 32 (s.readNat (at0 + 4 * sl.index) 4)
  let next (sl : Slot) : BitVec 32 := .ofNat 32 (s.readNat (at0 + 32 + 4 * sl.index) 4)
  let pay (sl : Slot) : Option (BitVec 24) := q.prefixes.get? sl.index
  let pl : Place := ⟨u.isGrove, (q.loops.take q.liveLevels).any (fun k => decide (k.last = pc)), decide (pc + 1 = q.ctl.codebound.toNat)⟩
  match bundleFault pl cur next pay with
  | some (c, sl) => .error (c, trapInfo (cur sl) 0 sl.index)
  | none => .ok (Slot.all.map (fun sl => Active.mk sl (cur sl) (instrAt pl cur sl) (pay sl)))

/-- The words of a bundle that act: their predicates hold, and they are neither `nop` nor `ext` (R139, R141). -/
def Seq.acting (q : Seq) (words : List Active) : List Active :=
  words.filter (fun a => opOf a.word ≠ 0x01 && opOf a.word ≠ 0x7f && q.holds (hdrOf a.word))

/-- The bundle at the pc is fetched, checked and dispatched (R154, R265). -/
def State.dispatchBundle (s : State) (u : Agent) : State :=
  let q := s.seqOf u
  match s.fetched u with
  | .error (c, info) => s.takeTrap u c q.pcNat info
  | .ok words =>
    let acts := q.acting words
    let pays := (words.filter (fun a => opOf a.word = 0x7f)).map (fun a => (a.slot.index, a.word.setWidth 24))
    let realign := words.any (fun a => a.word.getLsbD 31) || acts.any (fun a => realigns a.instr)
    s.dispatchWords acts realign pays

/-- The `ckpt` that the bundle at the pc holds (R282). -/
def State.ckptAt (s : State) (u : Agent) : Option Nat :=
  match s.fetched u with
  | .error _ => none
  | .ok words => ((s.seqOf u).acting words).findSome? (fun a => match a.instr with
    | .ckpt _ n => some n.toNat
    | _ => none)

/-- A pre-emption lands at the point where dispatch stands: at an iteration boundary, as the `ckpt` that the first bundle
holds or with a full save (R267, R282), or on a frozen region, whose dispatch is stopped already (R272). -/
def State.landHere (s : State) (t : Nat) : State :=
  let x := s.tile t
  if x.preemptDue && x.landingOpen false && (x.seq.boundary || x.freeze.isSome) then
    match if x.seq.boundary then s.ckptAt (.tile t) else none with
    | some n => s.land t (some n) false
    | none => s.land t none true
  else s

/-- PREEMPT_LANDING of the focus (R267, R401). -/
def execPreemptLanding (s : State) : Result :=
  .next (match s.focus with
    | .tile t => s.landHere t
    | .seq g => s.landSeq g)

/-- What comes before the next dispatch: a trap found since the last one, a word of slot V that holds dispatch, a
landing, a handler (R114, R130, R162, R267, R268, R298, R341); otherwise the bundle. -/
def State.dispatch (s : State) (u : Agent) : State :=
  if !s.runs u then s else
  match s.takePending u with
  | some s' => s'
  | none =>
    if ((s.seqOf u).queues.get [] 7).any (fun e => holdsDispatch e.word) then s else
    match u with
    | .tile t =>
      let x := s.tile t
      if s.forceDue t && x.landingOpen true then s.forceHere t
      else if x.preemptDue && x.landingOpen false && x.seq.boundary then s.landHere t
      else if s.killOpen t then s.killHere t
      else if x.seq.userDue then s.setSeq u x.seq.enterUser
      else s.dispatchBundle u
    | .seq g =>
      let x := s.grove g
      if x.eventDue then s.setSeq u x.seq.enterEvent
      else match x.preempt with
        | some (.requested _) => if x.seq.handlers.isEmpty && x.seq.open? then s.landSeq g else s.dispatchBundle u
        | _ => s.dispatchBundle u

/-- BUNDLE_DISPATCH of the focus unit (R111). -/
def execBundleDispatch (s : State) : Result := .next (s.dispatch s.focus)

/-- `yield` acts at its bundle's dispatch and does nothing with no pre-emption pending (R190). -/
def execYield (h : Hdr) (s : State) : Result :=
  if (s.seqOf s.focus).holds h then .next (match s.landingWord [⟨.v, s.ctx.word, .yield h, none⟩] with
    | some s' => s'
    | none => s)
  else .next s

/-- `ckpt` (R190). -/
def execCkpt (h : Hdr) (c : BitVec 8) (s : State) : Result :=
  if (s.seqOf s.focus).holds h then .next (match s.landingWord [⟨.v, s.ctx.word, .ckpt h c, none⟩] with
    | some s' => s'
    | none => s)
  else .next s

/-- `killpt` (R190). -/
def execKillpt (h : Hdr) (s : State) : Result :=
  if (s.seqOf s.focus).holds h then .next (match s.landingWord [⟨.v, s.ctx.word, .killpt h, none⟩] with
    | some s' => s'
    | none => s)
  else .next s

end Sys2Proof.Machine
end

