-- ==== Sys2Proof/Machine/Hub.lean ====
section
/-!
DEFINITION. The host window (R389, R410): launch queue registers (R392, R395), semaphores (R390 to R392), partitions (R393,
R394), event rings (R398), power (R405), store ports (R406), requests of `fwctl` as they are accepted (R391, R411), and the
registers that management firmware writes (R297, R300, R368).
-/
namespace Sys2Proof.Machine

/-! ### Access to the window -/

/-- A port's link is up. -/
def State.linkUp (s : State) (p : Nat) : Bool := decide (p < 2) && (s.hub.linkDown.get? p).isNone

/-- A port reaches the registers of the window, which is open (R410). -/
def State.hostOpen (s : State) (p : Nat) : Bool := s.window.isOpen && s.linkUp p

/-- A write that its rule refuses changes nothing and posts kind 3 with its offset (R389). -/
def State.refuse (s : State) (p off : Nat) : State := s.host p 3 0 off

def State.mapHub (s : State) (f : Hub → Hub) : State := { s with hub := f s.hub }

/-- A port holds a semaphore (R390, R391). -/
def State.holds (s : State) (p i : Nat) : Bool := decide (s.hub.sems.get? i = some (.ofNat 1 p))

/-! ### Launch queues (R389, R392, R395) -/

def LaunchQueue.enabled (q : LaunchQueue) : Bool := q.cfg.getLsbD 63
def LaunchQueue.owner (q : LaunchQueue) : Nat := (q.cfg.extractLsb' 8 1).toNat
/-- The records a ring holds: 2^k (R389). -/
def LaunchQueue.room (q : LaunchQueue) : Nat := 2 ^ (q.cfg.extractLsb' 0 5).toNat
/-- The records appended and not yet dispatched. -/
def LaunchQueue.pending (q : LaunchQueue) : Nat := (q.tail - q.head).toNat

def State.queue (s : State) (q : Nat) : LaunchQueue := s.hub.queues.get {} q
def State.setQueue (s : State) (q : Nat) (x : LaunchQueue) : State := s.mapHub (fun h => { h with queues := h.queues.put q x })

/-- QTAIL_WRITE: by the owner only; a tail that leaves more records than the ring holds disables the queue and posts
kind 3 (R392, R395). -/
def execQtailWrite (p q : Nat) (v : BitVec 64) (s : State) : Result :=
  .next (
    if !s.hostOpen p || decide (64 ≤ q) then s else
    let x := s.queue q
    if x.owner ≠ p then s.refuse p (32 * q + 0x10) else
    let y := { x with tail := v.setWidth 32, since := if x.pending = 0 then s.cycle else x.since }
    if y.room < y.pending then
      (s.setQueue q { y with cfg := y.cfg &&& ~~~ (1#64 <<< 63) }).refuse p (32 * q + 0x10)
    else s.setQueue q y)

/-- The fields of `qcfg` (R389). -/
def qcfgMask : Word := 0x800000000000011f

/-- QCFG_WRITE: either port may write it; a queue is not enabled with k outside 4 to 16 (R389, R392). -/
def execQcfgWrite (p q : Nat) (v : BitVec 64) (s : State) : Result :=
  .next (
    if !s.hostOpen p || decide (64 ≤ q) then s else
    let k := (v.extractLsb' 0 5).toNat
    if v.getLsbD 63 && (decide (k < 4) || decide (16 < k)) then s.refuse p (32 * q + 8)
    else s.setQueue q { s.queue q with cfg := v &&& qcfgMask })

/-- QBASE_WRITE: by the owner only (R392). -/
def execQbaseWrite (p q : Nat) (v : BitVec 64) (s : State) : Result :=
  .next (
    if !s.hostOpen p || decide (64 ≤ q) then s else
    let x := s.queue q
    if x.owner ≠ p then s.refuse p (32 * q)
    else s.setQueue q { x with base := (v.setWidth 46) &&& ~~~ (0xfff : BitVec 46) })

/-! ### Semaphores (R390) -/

/-- What the last semaphore read of a port returned. -/
def State.answer (s : State) (p : Nat) (v : Word) : State :=
  { s with window := { s.window with reads := s.window.reads.put p v } }

/-- One access of a port to a semaphore: a read takes it where it is free; a write of 0 by the holder frees it, and any other write is
ignored (R390). -/
def State.semAct (s : State) (p i : Nat) (w : Option Word) : State :=
  match w with
  | none => (match s.hub.sems.get? i with
    | none => (s.mapHub (fun h => { h with sems := h.sems.put i (.ofNat 1 p) })).answer p 0
    | some o => s.answer p (BitVec.ofNat 64 (1 + 2 * o.toNat)))
  | some v => if v = 0 ∧ s.holds p i = true then s.mapHub (fun h => { h with sems := h.sems.erase i }) else s

/-- What port 1 has done to semaphores in this cycle. -/
def State.semTurn (s : State) : SemTurn :=
  match s.hub.semTurn with
  | some k => if k.cycle = s.cycle then k else ⟨s.cycle, s.hub.sems, []⟩
  | none => ⟨s.cycle, s.hub.sems, []⟩

/-- An access of port 0 takes its place before those that port 1 has made in the same cycle, which are made again after it; one of port 1
is kept for that (R390). -/
def State.semAccess (s : State) (p i : Nat) (w : Option Word) : State :=
  let k := s.semTurn
  if p ≠ 0 then (s.mapHub (fun h => { h with semTurn := some { k with acts := k.acts ++ [(i, w)] } })).semAct p i w
  else
    let s := (s.mapHub (fun h => { h with sems := k.before })).semAct 0 i w
    k.acts.foldl (fun s a => s.semAct 1 a.1 a.2) (s.mapHub (fun h => { h with semTurn := some { k with before := h.sems } }))

/-- SEM_READ (R390). -/
def execSemRead (p i : Nat) (s : State) : Result :=
  .next (
    if !s.linkUp p || decide (64 ≤ i) then s
    else if !s.window.isOpen then s.answer p 0
    else s.semAccess p i none)

/-- SEM_WRITE (R390). -/
def execSemWrite (p i : Nat) (v : BitVec 64) (s : State) : Result :=
  .next (if s.hostOpen p && decide (i < 64) then s.semAccess p i (some v) else s)

/-! ### Partitions (R394) -/

def partReserved (e : BitVec 256) : Bool := e.extractLsb' 201 52 ≠ 0 || e.extractLsb' 110 18 ≠ 0 || e.extractLsb' 0 64 ≠ 0
def partPre (e : BitVec 256) : Bool := e.getLsbD 254
def partMbox (e : BitVec 256) : Nat := (e.extractLsb' 168 24).toNat

/-- A launch of the partition runs, is saved or waits in the mailbox. -/
def PartRun.busy (r : PartRun) : Bool := r.running.isSome || r.saved.isSome || r.waiting.isSome

/-- The cases in which a partition entry is refused, but for the semaphore (R394). -/
def State.partRefused (s : State) (i : Nat) (e : BitVec 256) : Bool :=
  let others := s.hub.parts.filter (fun x => decide (x.1 ≠ i) && partValid x.2)
  partReserved e || decide (partAsid e = 0) || others.any (fun x => partAsid x.2 = partAsid e)
    || decide (hbmEnd ≤ partRoot e) || others.any (fun x => partGroves x.2 &&& partGroves e ≠ 0)
    || (partValid (s.hub.parts.get 0 i) && (s.hub.partRuns.get {} i).busy)

/-- The groves of a mask, in rising order. -/
def groveList (m : BitVec 40) : List Nat := (List.range 40).filter (fun g => m.getLsbD g)

/-- The units of a grove take an ASID (R121, R394). -/
def State.bindGrove (s : State) (asid : BitVec 9) (g : Nat) : State :=
  (groveUnits g).foldl (fun s u => s.mapSeq u (fun q => { q with ctl := { q.ctl with asid := asid } })) s

/-- PART_WRITE of word w of entry i, refused without semaphore 0: the entry is taken whole with its fourth word, or refused (R391,
R394). A valid entry written anew keeps the digests of what has been loaded since it became valid (R410). -/
def execPartWrite (p i w : Nat) (v : BitVec 64) (s : State) : Result :=
  .next (
    if !s.hostOpen p || decide (64 ≤ i) || decide (4 ≤ w) then s else
    if !s.holds p 0 then s.refuse p (0x2000 + 32 * i + 8 * w) else
    let s := s.mapHub (fun h => { h with partStage := h.partStage.put (4 * i + w) v })
    if w ≠ 3 then s else
    let word (k : Nat) : Word := s.hub.partStage.get 0 (4 * i + k)
    let e : BitVec 256 := word 3 ++ word 2 ++ word 1 ++ word 0
    if s.partRefused i e then s.refuse p (0x2000 + 32 * i + 24) else
    let kept : PartRun := if partValid (s.hub.parts.get 0 i) && partValid e then s.hub.partRuns.get {} i else {}
    let s := s.mapHub (fun h => { h with parts := h.parts.put i e, partRuns := h.partRuns.put i kept })
    if partValid e then (groveList (partGroves e)).foldl (fun s g => s.bindGrove (partAsid e) g) s else s)

/-! ### Event rings (R398) -/

/-- Events that wait at the hub enter the ring while it has room (R398). -/
def EventRing.flush : Nat → EventRing → EventRing
  | 0, r => r
  | n + 1, r => match r.waiting with
    | [] => r
    | e :: rest =>
      if r.room then EventRing.flush n { r with
        waiting := rest, tail := r.tail + 1, written := r.written ++ [(r.tail.toNat % 2 ^ (r.size.toNat % 32), e)] }
      else r

/-- A write of `evq`n (R398). -/
def EventRing.writeWord (r : EventRing) (w : Nat) (v : Word) : EventRing :=
  let r := match w with
    | 0 => { r with base := v &&& ~~~ (0xfff : Word) }
    | 1 => { r with size := v &&& 0x1f }
    | 2 => { r with head := v }
    | _ => r
  r.flush r.waiting.length

/-! ### Power (R405) -/

/-- PWRCAP_WRITE: a value outside 600 to 2,400 stores 2,400 (R389). -/
def execPwrcapWrite (p : Nat) (v : BitVec 64) (s : State) : Result :=
  let w : BitVec 16 := v.setWidth 16
  .next (if !s.hostOpen p then s else
    s.mapHub (fun h => { h with pwrcap := if 600 ≤ w.toNat ∧ w.toNat ≤ 2400 then w else 2400 }))

/-- The cap in force: 600 W while a coolant fault stands (R405). -/
def Hub.cap (h : Hub) : Nat := if h.coolant then 600 else h.pwrcap.toNat

/-- The limit that firmware set for a rate. -/
def Grove.rateLimit (x : Grove) : Nat := if x.bkLimit.getLsbD 16 then 0xffff else x.bkLimit.toNat % 2 ^ 16

/-- The refill rate after a control interval that measured w watts under a cap (R405). -/
def Grove.scaled (x : Grove) (cap w : Nat) : Grove :=
  let r := x.bkrate.toNat % 2 ^ 16
  let new := if cap < w then max 0x10 (r * cap / w) else if 10 * w < 9 * cap then min x.rateLimit (r + r / 8) else r
  { x with bkrate := .ofNat 17 ((if x.bkrate.getLsbD 16 then 2 ^ 16 else 0) + new) }

/-- POWER_CONTROL_INTERVAL with a measurement of w watts, at the end of each 2^16 cycles (R405). -/
def execPowerControlInterval (w : Nat) (s : State) : Result :=
  .next (
    let n := s.cycle / 2 ^ 16
    if n ≤ s.hub.interval then s else
    let s := s.mapHub (fun h => { h with pwrnow := .ofNat 16 w, interval := n })
    (List.range 40).foldl (fun s g => s.mapGrove g (·.scaled s.hub.cap (w % 2 ^ 16))) s)

/-- COOLANT_FAULT (R405). -/
def execCoolantFault (s : State) : Result := .next (s.mapHub (fun h => { h with coolant := true }))

/-- COOLANT_FAULT_CLEAR, by firmware (R405). -/
def execCoolantFaultClear (s : State) : Result := .next (s.mapHub (fun h => { h with coolant := false }))

/-! ### Link failover (R392) -/

/-- 100 ms at 1.1 GHz, in cycles (R392, R405). -/
def failoverCycles : Nat := 110000000

/-- HOST_LINK_DOWN: kind 4 to the other port (R392). -/
def execHostLinkDown (p : Nat) (s : State) : Result :=
  .next (if s.linkUp p then
    (s.mapHub (fun h => { h with linkDown := h.linkDown.put p s.cycle, lost := h.lost ++ [(p, s.cycle)] })).host (1 - p) 4 0 0
  else s)

/-- SEMAPHORE_FAILOVER: 100 ms after the link went down, whether it has returned or not, the port's semaphores are freed, and kind 5
goes to the other port (R392). -/
def execSemaphoreFailover (p : Nat) (s : State) : Result :=
  .next (match s.hub.lost.find? (fun e => e.1 = p) with
    | some e =>
      if e.2 + failoverCycles ≤ s.cycle then
        (s.mapHub (fun h => { h with
          sems := h.sems.filter (fun e => decide (e.2.toNat ≠ p)), lost := h.lost.erase e, semTurn := none })).host (1 - p) 5 0 0
      else s
    | none => s)

/-- HOST_LINK_RETURN: the port owns the queues that still name it (R392). -/
def execHostLinkReturn (p : Nat) (s : State) : Result :=
  .next (s.mapHub (fun h => { h with linkDown := h.linkDown.erase p }))

/-! ### Requests of `fwctl` (R391, R411) -/

/-- The semaphore that a request needs; code load and attestation need none (R411). -/
def requestSem (code : Nat) : Option (Option Nat) :=
  match code with
  | 1 => some (some 1)
  | 2 => some (some 2)
  | 3 | 4 => some none
  | 5 => some (some 3)
  | 6 => some (some 4)
  | _ => none

/-- A write of `fwctl` is accepted, or refused (R411). It is reachable before the window opens (R410). -/
def State.acceptRequest (s : State) (p : Nat) (v : Word) : State :=
  if !s.linkUp p then s else
  let code := (v.extractLsb' 56 8).toNat
  let ok : Bool := s.hub.request.isNone && (v.extractLsb' 46 10) = 0 && (v.extractLsb' 0 6) = 0 && (match requestSem code with
    | none => false
    | some none => true
    | some (some i) => s.holds p i)
  if ok then s.mapHub (fun h => { h with request := some ⟨p, .ofNat 8 code, v.toNat % 2 ^ 46⟩ })
  else s.refuse p 0x7000

/-- The request under way is the one that this write made. -/
def State.requested (s : State) (p code : Nat) (v : Word) : Bool :=
  decide (s.hub.request = some ⟨p, .ofNat 8 code, v.toNat % 2 ^ 46⟩)

/-- The request ends with a cause: in bytes 0 and 1 of its block, and in `lcause` and `lcode` (R411). -/
def State.endRequest (s : State) (cause : BitVec 8) : State :=
  match s.hub.request with
  | none => s
  | some r => ((s.write r.blk [cause]).write (r.blk + 1) [1]).mapHub (fun h => { h with request := none, lcause := cause, lcode := r.code })

/-- A request of a code: the write is accepted or refused; the request that it made then runs, unless its block lies where
no memory is (R363) or is poisoned, which ends it with 0x13 in the way of its kind. -/
def State.runRequest (s : State) (p code size : Nat) (v : Word) (act : State → Nat → List Byte → Result)
    (ends : State → Nat → BitVec 8 → State := fun s _ c => s.endRequest c) : Result :=
  if (v.extractLsb' 56 8).toNat ≠ code then .next (s.acceptRequest p v) else
  if !s.requested p code v then .next (s.acceptRequest p v) else
  let blk := v.toNat % 2 ^ 46
  if hbmEnd < blk + size then .fault .noSuchAddress
  else if s.mem.poisoned blk size then .next (ends s blk 0x13)
  else act s blk (s.mem.bytes.readList blk size)

/-! ### Store ports (R406) -/

/-- A namespace entry of a partition. -/
def State.space (s : State) (i n : Nat) : Option Namespace := s.hub.spaces.get? (256 * i + n)

/-- A command that a host request issues at a store port. -/
def State.issueNvme (s : State) (c : NvmeCommand) : State := { s with window := { s.window with nvme := s.window.nvme ++ [c] } }

/-- STORE_FLUSH of namespace n of partition i (R406). -/
def execStoreFlush (i n : Nat) (s : State) : Result :=
  .next (match s.space i n with
    | none => s
    | some x => s.issueNvme ⟨0x00, x.port, x.nsid, 0, 0⟩)

/-- STORE_DEALLOCATE of l blocks from block a on of namespace n of partition i; what the blocks then read as is left open
(R406, log entry 15). -/
def execStoreDeallocate (i n a l : Nat) (s : State) : Result :=
  .next (match s.space i n with
    | none => s
    | some x =>
      let len := l * x.block
      let bs := (List.range len).map (fun k => (Config.freeWord (s.fresh + k)).setWidth 8)
      { (s.writeFlash x.port x.nsid (a * x.block) bs).issueNvme ⟨0x09, x.port, x.nsid, a, l⟩ with fresh := s.fresh + len })

/-- NAMESPACE_ENTRY_WRITE by management firmware: bit 63 bound, bit 33 blocks of 4,096 bytes, bit 32 the port, bits 31–0
the NSID, in the model's own layout (R406). -/
def execNamespaceEntryWrite (i n : Nat) (v : BitVec 64) (s : State) : Result :=
  let e : Namespace := ⟨(v.extractLsb' 32 1).toNat, (v.extractLsb' 0 32).toNat, if v.getLsbD 33 then 4096 else 512⟩
  .next (if 64 ≤ i ∨ 256 ≤ n then s else
    s.mapHub (fun h => { h with spaces := if v.getLsbD 63 then h.spaces.put (256 * i + n) e else h.spaces.erase (256 * i + n) }))

/-! ### Staging slots (R408) -/

/-- Registration of slot i starts; a write that meets a running one waits until it ends (R408). -/
def Staging.start (x : Staging) (p : Nat) (v : Word) : Staging :=
  if x.running then { x with again := x.again ++ [(p, v)] }
  else { x with offset := v, running := true, ready := false, outcome := 0, port := p, tags := [] }

/-- A write of word 0, which takes a ready slot's registration from it (R408). -/
def Staging.rename (x : Staging) (v : Word) : Staging := { x with w0 := v &&& 0xfff, ready := false }

/-- IMG_REGISTER: a write of word 1 of slot i (R408). -/
def execImgRegister (p i : Nat) (v : BitVec 64) (s : State) : Result :=
  .next (if !s.hostOpen p || decide (128 ≤ i) then s else
    s.mapHub (fun h => { h with imgs := h.imgs.put i ((h.imgs.get {} i).start p v) }))

/-- The partition whose namespaces a registration uses: the lowest valid one that binds the number. -/
def State.imageSpace (s : State) (x : Staging) : Option Namespace :=
  (s.hub.parts.filter (fun e => partValid e.2)).findSome? (fun e => s.space e.1 (x.w0.toNat % 256))

/-- Bytes of a namespace as they are read through its store port. -/
def State.readImage (s : State) (ns : Namespace) (off n : Nat) : List Byte := s.flash ns (BitVec.ofNat 72 off).toNat n

/-- The ready slot, or the cause that refuses it, by the three checks of R408. -/
def State.checkImage (s : State) (x : Staging) : Staging :=
  let failed (c : BitVec 8) : Staging := { x with running := false, outcome := c }
  match s.imageSpace x with
  | none => failed 0x1e
  | some ns =>
    let off := x.offset.toNat
    let hdr := s.readImage ns off 256
    let at0 (o n : Nat) : Nat := leNat ((hdr.drop o).take n)
    let layout := decide (at0 0 4 = 0x4943444c) && decide (at0 4 2 = 1) && decide (at0 24 1 = 16) && decide (128 ≤ at0 40 2)
      && decide (at0 64 8 % 65536 = 0) && decide (off % 65536 = 0)
    if !layout then failed 0x1e else
    let manifest := s.readImage ns (off + at0 32 8) (at0 28 4 * at0 40 2)
    let key := s.hub.keys.get [] (x.w0.toNat / 256 % 16)
    if key = [] || !Config.mldsaVerify key (Config.sha3 (hdr ++ manifest)) (s.readImage ns (off + at0 48 8) 2420) then failed 0x1e else
    let table := s.readImage ns (off + at0 56 8) (32 * at0 72 8)
    if Config.sha3 table ≠ BitVec.ofNat 256 (at0 80 32) then failed 0x1d else
    { x with
      running := false, outcome := 0, ready := true, data := at0 64 8, imageid := (hdr.drop 8).take 16
      tags := (List.range (at0 72 8)).map (fun i => BitVec.ofNat 256 (leNat ((table.drop (32 * i)).take 32))) }

/-- IMAGE_REGISTRATION_DONE of slot i: its outcome and kind 7; a write of word 1 that waited starts the next one
(R408). -/
def execImageRegistrationDone (i : Nat) (s : State) : Result :=
  let x := s.hub.imgs.get {} i
  .next (if !x.running then s else
    let y := s.checkImage x
    let z := match y.again with
      | [] => y
      | (p, v) :: rest => ({ y with again := rest } : Staging).start p v
    (s.mapHub (fun h => { h with imgs := h.imgs.put i z })).host x.port 7 y.outcome.toNat i)

/-! ### Other registers (R297, R300, R368, R389) -/

/-- A write of a register of the host window by its offset; those without a row of their own are `evq`n and word 0 of
`img`i (R389). -/
def State.windowWrite (s : State) (p o : Nat) (v : Word) : Result :=
  let q := o / 32
  if o % 8 ≠ 0 then .next s
  else if o = 0x7000 then .next (s.acceptRequest p v)
  else if !s.hostOpen p then .next s
  else if o < 0x800 then
    (if o % 32 = 0 then execQbaseWrite p q v s else if o % 32 = 8 then execQcfgWrite p q v s
      else if o % 32 = 0x10 then execQtailWrite p q v s else .next s)
  else if 0x1000 ≤ o ∧ o < 0x1200 then execSemWrite p ((o - 0x1000) / 8) v s
  else if 0x2000 ≤ o ∧ o < 0x2800 then execPartWrite p ((o - 0x2000) / 32) (o % 32 / 8) v s
  else if 0x3000 ≤ o ∧ o < 0x3040 then
    .next (s.mapHub (fun h =>
      let n := (o - 0x3000) / 32
      { h with rings := h.rings.put n ((h.rings.get {} n).writeWord (o % 32 / 8) v) }))
  else if 0x4000 ≤ o ∧ o < 0x4800 then
    let i := (o - 0x4000) / 16
    (if o % 16 = 8 then execImgRegister p i v s
      else .next (s.mapHub (fun h => { h with imgs := h.imgs.put i ((h.imgs.get {} i).rename v) })))
  else if o = 0x5000 then execPwrcapWrite p v s
  else .next s

/-- Bits of a count that a write of 1 clears. -/
def clearOnes (old : BitVec 32) (v : Word) (lo : Nat) : BitVec 32 := old &&& ~~~ (v.extractLsb' lo 32)

/-- A write of a register of die d by its offset, by management firmware (R368). -/
def State.dieWrite (s : State) (d o : Nat) (v : Word) : Result :=
  match o with
  | 0x00 => execDlogbaseWrite d v s
  | 0x08 => execDsavebaseWrite d v s
  | 0x10 => execDscrubWrite d v s
  | 0x18 => .next (s.mapDie d (fun x => { x with dshva := v.setWidth 56 }))
  | 0x20 => execDshootWrite d v s
  | 0x28 => .next (s.mapDie d (fun x => { x with
      dcerr := (x.dcerr.set 0 0 (clearOnes (x.dcerr.get 0 0) v 0)).set 0 1 (clearOnes (x.dcerr.get 0 1) v 32) }))
  | _ => .next s

/-- What a read of a register of die d returns; any other offset reads 0 (R368). -/
def State.dieRead (s : State) (d o : Nat) : Word :=
  let x := s.die d
  match o with
  | 0x00 => x.dlogbase
  | 0x08 => x.dsavebase
  | 0x10 => x.dscrub.setWidth 64
  | 0x18 => x.dshva.setWidth 64
  | 0x20 => BitVec.ofNat 64 ((if x.dshoot.isSome then 2 ^ 63 else 0) + x.dshootLast.toNat)
  | 0x28 => x.dcerr.get 0 1 ++ x.dcerr.get 0 0
  | _ => 0

/-- A write of a register of grove g by its index, by management firmware: those of access G and F (R297, R300). A rate
that firmware writes is also the limit of R405. -/
def State.groveWrite (s : State) (g i : Nat) (v : Word) : Result :=
  match i with
  | 0x103 => .next (s.mapGrove g (fun x => { x with bkrate := v.setWidth 17, bkLimit := v.setWidth 17 }))
  | 0x104 => execBkdepthWrite g v s
  | 0x102 => execPlaceWrite g v s
  | 0x115 => execEvpopWrite g s
  | i => .next (if i < 0x100 then s else match s.ctlWriteGrove g i v with
    | .ok s' => s'
    | .error _ => s)

/-- REGISTER_WRITE at an offset: the host window below 0x10000; above it the model's own numbers of the registers that
management firmware writes, 0x10000 + 0x100 d + offset for die d and 0x20000 + 0x1000 g + index for grove g. -/
def execRegisterWrite (p o : Nat) (v : BitVec 64) (s : State) : Result :=
  if o < 0x10000 then s.windowWrite p o v
  else if o < 0x10400 then s.dieWrite ((o - 0x10000) / 0x100) (o % 0x100) v
  else if 0x20000 ≤ o ∧ o < 0x48000 then s.groveWrite ((o - 0x20000) / 0x1000) (o % 0x1000) v
  else .next s

/-- What a read of the host window returns, semaphores apart, which `semRead` takes (R389, R408, R410, R411). -/
def State.hostRead (s : State) (o : Nat) : Word :=
  let q := s.queue (o / 32)
  let img := s.hub.imgs.get {} ((o - 0x4000) / 16)
  let ring := s.hub.rings.get {} ((o - 0x3000) / 32)
  if o = 0x7000 then
    BitVec.ofNat 64 ((if s.hub.request.isSome then 2 ^ 63 else 0) + s.hub.lcause.toNat * 256 + s.hub.lcode.toNat)
  else if !s.window.isOpen || decide (o % 8 ≠ 0) then 0
  else if o < 0x800 then
    (match o % 32 with
      | 0 => q.base.setWidth 64
      | 8 => q.cfg
      | 0x10 => q.tail.setWidth 64
      | _ => q.done ++ q.head)
  else if 0x2000 ≤ o ∧ o < 0x2800 then (s.hub.parts.get 0 ((o - 0x2000) / 32)).extractLsb' (64 * (o % 32 / 8)) 64
  else if 0x3000 ≤ o ∧ o < 0x3040 then
    (match o % 32 with
      | 0 => ring.base
      | 8 => ring.size
      | 0x10 => ring.head
      | _ => ring.tail)
  else if 0x4000 ≤ o ∧ o < 0x4800 then
    (if o % 16 = 8 then img.offset
      else img.w0 ||| BitVec.ofNat 64 (img.outcome.toNat * 2 ^ 56 + (if img.running then 2 ^ 55 else 0)))
  else if o = 0x5000 then s.hub.pwrcap.setWidth 64
  else if o = 0x5008 then s.hub.pwrnow.setWidth 64
  else if 0x6000 ≤ o ∧ o ≤ 0x6018 then s.hub.graftver.extractLsb' (8 * (o - 0x6000)) 64
  else if o = 0x6020 then s.hub.fusever.setWidth 64
  else 0

end Sys2Proof.Machine
end

