-- ==== Sys2Proof/Machine/Launch.lean ====
section
/-!
DEFINITION. Launches: records and their refusal (R395, R396), the dispatcher (R397, R399, R401), retirement (R400, R404), the
swap of contexts (R270, R402) and the resumption of a saved launch (R403).
-/
namespace Sys2Proof.Machine

/-! ### Records (R395, R396) -/

/-- The HBM address of the head record of a queue. -/
def LaunchQueue.headAt (q : LaunchQueue) : Nat := q.base.toNat + 128 * (q.head.toNat % q.room)

/-- The launch identifier of record n of queue q. -/
def launchId (q n : Nat) : BitVec 32 := .ofNat 32 (q * 2 ^ 26 + n % 2 ^ 26)

/-- Counter a has passed record m, both counted modulo 2^26. -/
def passed (a m : Nat) : Bool := decide ((a % 2 ^ 26 + 2 ^ 26 - m - 1) % 2 ^ 26 < 2 ^ 25)

/-- The dependences of a record. -/
def recordDeps (b : List Byte) : List Nat := (List.range 4).map (fun i => bytesAt b (4 + 4 * i) 4)

/-- A dependence names a record not yet appended, or a later one of its own queue (R396). -/
def State.depBad (s : State) (q n d : Nat) : Bool :=
  let q' := d / 2 ^ 26
  let m := d % 2 ^ 26
  d ≠ 0xffffffff && (!passed (s.queue q').tail.toNat m || (decide (q' = q) && !passed (n + 1) m))

/-- The byte offset of the first bad field of record n of queue q (R396, R398). -/
def State.recordBad (s : State) (q n : Nat) (b : List Byte) : Option Nat :=
  let part := bytesAt b 0 1
  let checks : List (Nat × Bool) := [
    (0, decide (64 ≤ part) || !partValid (s.hub.parts.get 0 part)), (1, decide (8 ≤ bytesAt b 1 1)), (2, !zeroAt b 2 2),
    (4, s.depBad q n (bytesAt b 4 4)), (8, s.depBad q n (bytesAt b 8 4)), (12, s.depBad q n (bytesAt b 12 4)),
    (16, s.depBad q n (bytesAt b 16 4)), (20, decide (2 ^ 11 ≤ bytesAt b 20 2)), (22, !zeroAt b 22 2), (33, !zeroAt b 33 7),
    (49, !zeroAt b 49 7), (62, !zeroAt b 62 66)]
  (checks.find? (·.2)).map (·.1)

/-- Every dependence of a record is met (R396). -/
def State.depsMet (s : State) (b : List Byte) : Bool :=
  (recordDeps b).all (fun d => d = 0xffffffff || passed (s.queue (d / 2 ^ 26)).done.toNat (d % 2 ^ 26))

/-- `done` advances over every leading retired record (R400). -/
def LaunchQueue.advanceDone : Nat → LaunchQueue → LaunchQueue
  | 0, q => q
  | n + 1, q =>
    if q.retired.contains q.done.toNat then
      LaunchQueue.advanceDone n { q with done := q.done + 1, retired := q.retired.filter (· ≠ q.done.toNat) }
    else q

/-- A record of a queue counts as retired (R396, R400). -/
def LaunchQueue.retire (q : LaunchQueue) (n : Nat) : LaunchQueue :=
  let q := { q with retired := insertNat n q.retired }
  q.advanceDone q.retired.length

/-- The head record of a queue is consumed; the next one stands at the head from now on. -/
def LaunchQueue.consume (q : LaunchQueue) (now : Nat) : LaunchQueue := { q with head := q.head + 1, since := now }

/-- A refused record is consumed without running, counts as retired and posts kind 2 to the owner (R396, R398). -/
def State.refuseRecord (s : State) (q : Nat) (cause : BitVec 8) (off : Nat) : State :=
  let x := s.queue q
  (s.setQueue q ((x.consume s.cycle).retire x.head.toNat)).hostEvent x.owner
    ⟨2, cause, launchId q x.head.toNat, .ofNat 192 off⟩

/-! ### Choosing a head (R397, R401) -/

/-- The effective priority of a head: one more for each full 2^20 cycles it has stood there, up to 7 (R397). -/
def effective (prio since now : Nat) : Nat := min 7 (prio + (now - since) / 2 ^ 20)

/-- A partition can take a launch of an effective priority that stands at its queue's head since a cycle: none of its launches runs,
is saved or waits, or the running one may be pre-empted for it (R399, R401, R403); one that has come while a launch was saved waits
until that launch has resumed and retired (R404). -/
def State.takes (s : State) (p prio since : Nat) : Bool :=
  let r := s.hub.partRuns.get {} p
  r.saved.isNone && r.waiting.isNone && (match r.running with
    | none => true
    | some l => partPre (s.hub.parts.get 0 p) && decide (l.prio < prio) && (match r.resumed with
      | none => true
      | some c => decide (c < since)))

/-- The head record of a queue. -/
def State.headRecord (s : State) (q : Nat) : List Byte := s.mem.bytes.readList (s.queue q).headAt 128

/-- The head of a queue as a launch, with its effective priority now. -/
def State.headLaunch (s : State) (q : Nat) : Launch :=
  let x := s.queue q
  let b := s.headRecord q
  ⟨q, x.head.toNat, effective (bytesAt b 1 1 % 8) x.since s.cycle, bytesAt b 0 1⟩

/-- The head of a queue waits already for a pre-empted launch to be saved. -/
def State.headWaits (s : State) (q : Nat) : Bool :=
  s.hub.partRuns.any (fun r => match r.2.waiting with
    | some l => decide (l.queue = q)
    | none => false)

/-- An eligible head (R397). -/
def State.eligibleHead (s : State) (q : Nat) : Bool :=
  let l := s.headLaunch q
  s.depsMet (s.headRecord q) && !s.headWaits q && s.takes l.partn l.prio (s.queue q).since

/-- The queues that the dispatcher reads: enabled, with records pending (R396). -/
def State.heads (s : State) : List Nat :=
  (List.range 64).filter (fun q => (s.queue q).enabled && decide ((s.queue q).pending ≠ 0))

/-- How far a queue stands behind the one served last (R397). -/
def State.turnOf (s : State) (q : Nat) : Nat :=
  match s.hub.lastServed with
  | some l => (q + 63 - l) % 64
  | none => q

/-- Of two heads, the one with the higher effective priority, then the first in round-robin order (R397). -/
def State.better (s : State) (a b : Nat) : Nat :=
  let pa := (s.headLaunch a).prio
  let pb := (s.headLaunch b).prio
  if pa < pb ∨ (pa = pb ∧ s.turnOf b < s.turnOf a) then b else a

/-- The head of a queue is refused, with its cause and the byte it is refused for: at its first poisoned unit, which delivers nothing
(R382; log entry 17), or at its first bad field (R396). -/
def State.headBad (s : State) (q : Nat) : Option (BitVec 8 × Nat) :=
  let a := (s.queue q).headAt
  match (List.range 4).find? (fun k => s.mem.poisoned (a + 32 * k) 32) with
  | some k => some (0x13, 32 * k)
  | none => (s.recordBad q (s.queue q).head.toNat (s.headRecord q)).map (fun off => (0x14, off))

/-- The head chosen (R397). -/
def State.chosen (s : State) : Option Nat :=
  match s.heads.filter (fun q => (s.headBad q).isNone && s.eligibleHead q) with
  | [] => none
  | q :: rest => some (rest.foldl s.better q)

/-- Some ring reaches past the end of HBM at its head. -/
def State.headOutside (s : State) : Bool := s.heads.any (fun q => decide (hbmEnd < (s.queue q).headAt + 128))

/-! ### Dispatch (R399) -/

/-- The groves of a partition. -/
def State.partGroveList (s : State) (p : Nat) : List Nat := groveList (partGroves (s.hub.parts.get 0 p))

/-- A grove sequencer starts a launch (R297, R399). -/
def Seq.launched (q : Seq) (b : List Byte) (id : BitVec 32) : Seq :=
  let x := q.fresh
  let x : Seq := { x with
    pc := (bytesAt b 20 2 % 2048 : Nat)
    ctl := { x.ctl with codebase := 0, codebound := 2048, preq := 0 } }
  ((((x.writeS 1 (.ofNat 64 (bytesAt b 24 8))).writeS 2 (.ofNat 64 (bytesAt b 56 6))).writeS 3 (id.setWidth 64)).writeA 1
    (.ofNat 72 (bytesAt b 24 9))).writeA 2 (.ofNat 72 (bytesAt b 40 9))

/-- The record is in the mailbox of every grove, the head advances, every sequencer starts and takes kind 10, in this order
(R399). -/
def State.launch (s : State) (l : Launch) (b : List Byte) : State :=
  let gs := s.partGroveList l.partn
  let id := launchId l.queue l.num
  let mbox := partMbox (s.hub.parts.get 0 l.partn) / 128 * 128
  let s := gs.foldl (fun s g => s.write (gspAddr g mbox) b) s
  let s := s.setQueue l.queue ((s.queue l.queue).consume s.cycle)
  let s := gs.foldl (fun s g => s.mapGrove g (fun x => { x with seq := x.seq.launched b id, preempt := none, stopped := false })) s
  let s := gs.foldl (fun s g => s.postEvent g (evRecord 10 0 0xff l.queue 0 (id.setWidth 64))) s
  s.mapHub (fun h => { h with
    lastServed := some l.queue
    partRuns := h.partRuns.put l.partn { h.partRuns.get {} l.partn with running := some l, waiting := none, faulted := none } })

/-- A pre-emption is requested of a grove sequencer: `preq` bit 0 is set (R401). -/
def Grove.askPreempt (x : Grove) (now : Nat) : Grove :=
  if x.preempt.isSome then x else
  { x with preempt := some (.requested now), seq := { x.seq with ctl := { x.seq.ctl with preq := x.seq.ctl.preq ||| 1 } } }

/-- Pre-emption is requested of every tile and every grove sequencer of a partition (R401). -/
def State.preemptPart (s : State) (l : Launch) : State :=
  let gs := s.partGroveList l.partn
  let s := gs.foldl (fun s g => ((List.range 16).foldl (fun s p =>
    s.mapTile (s.physOf g p) (·.askPreempt s.cycle)) s).mapGrove g (·.askPreempt s.cycle)) s
  s.mapHub (fun h => { h with partRuns := h.partRuns.put l.partn { h.partRuns.get {} l.partn with waiting := some l } })

/-- LAUNCH_DISPATCH, once per cycle: bad heads are refused, then the chosen head is dispatched or asks for pre-emption
(R396, R397, R399, R401). A ring that reaches past the end of HBM has no memory there (R363). -/
def execLaunchDispatch (s : State) : Result :=
  if s.headOutside then .fault .noSuchAddress else
  let s := s.heads.foldl (fun s q => match s.headBad q with
    | some (cause, off) => s.refuseRecord q cause off
    | none => s) s
  if s.headOutside then .next s else
  .next (match s.chosen with
    | none => s
    | some c =>
      let l := s.headLaunch c
      if (s.hub.partRuns.get {} l.partn).running.isNone then s.launch l (s.headRecord c) else s.preemptPart l)

/-! ### Retirement (R400, R404) -/

/-- The tiles of a partition. -/
def State.partTiles (s : State) (p : Nat) : List Nat :=
  (s.partGroveList p).flatMap (fun g => (List.range 17).map (fun k => tileAt g k))

/-- A tile is idle, halted or escalated, with no task open and no handle busy (R400). -/
def Tile.finished (x : Tile) : Bool := x.seq.run ≠ .running && x.task.isNone && x.str.cmds.isEmpty

/-- The launch of a partition is done: every sequencer has halted, every tile has finished (R400). -/
def State.launchDone (s : State) (p : Nat) : Bool :=
  (s.partGroveList p).all (fun g => (s.grove g).seq.run = .halted) && (s.partTiles p).all (fun t => (s.tile t).finished)

/-- Both `preq` bits of a sequencer are cleared (R269, R403). -/
def Seq.unasked (q : Seq) : Seq := { q with ctl := { q.ctl with preq := 0 } }

/-- A pre-emption request that has not landed is withdrawn (R404). -/
def State.withdraw (s : State) (p : Nat) : State :=
  let s := (s.partTiles p).foldl (fun s t => s.mapTile t (fun x => x.withdrawn.recount s.cycle)) s
  (s.partGroveList p).foldl (fun s g => s.mapGrove g (fun x => { x with preempt := none, seq := x.seq.unasked })) s

/-- LAUNCH_RETIRE of partition i: kind 1, and `done` over the leading retired records (R400). A head that waited for the
launch to be saved is dispatched later as any other (R404). -/
def execLaunchRetire (i : Nat) (s : State) : Result :=
  .next (
    let r := s.hub.partRuns.get {} i
    match r.running with
    | none => s
    | some l =>
      if r.faulted.isNone && !s.launchDone i then s else
      let s := if r.waiting.isSome then s.withdraw i else s
      let n := ((s.partTiles i).filter (fun t => (s.tile t).seq.run = .escalated)).length
      let s := s.mapHub (fun h => { h with partRuns := h.partRuns.put i { r with running := none, waiting := none, resumed := none, faulted := none } })
      let s := s.setQueue l.queue ((s.queue l.queue).retire l.num)
      s.hostEvent (partPort (s.hub.parts.get 0 i)) ⟨1, r.faulted.getD 0, launchId l.queue l.num, .ofNat 192 n⟩)

/-! ### The swap of contexts (R270, R402, R403) -/

/-- A saved context comes back to a physical tile (R270, R403). -/
def Tile.swapIn (cur saved : Tile) : Tile :=
  { saved with
    own := cur.own, live := cur.live, landing := cur.landing, tlb := cur.tlb
    mx := ({ saved.mx with store := cur.mx.store, table := cur.mx.table, epi := cur.mx.epi } : Matrix).withCounts cur.mx
    str := { saved.str with issued := cur.str.issued }
    seq := { saved.seq with inserted := cur.seq.inserted, ctl := saved.seq.ctl.superOf cur.seq.ctl } }

/-- A tile no longer holds up the save of its partition: it is saved, or it runs no kernel and its engines are at rest
(R269, R402). -/
def Tile.swappable (x : Tile) : Bool := x.preempt = some .saved || (x.seq.run ≠ .running && !x.engaged)

/-- A grove has saved: its sequencer's state and its tiles' contexts (R402). -/
def State.groveSaved (s : State) (g : Nat) : Bool :=
  let x := s.grove g
  x.migration.isNone && (x.preempt = some .saved || x.seq.run ≠ .running)
    && (List.range 17).all (fun p => (s.tile (tileAt g p)).swappable)

/-- The contexts of a grove move to its shadow storage. -/
def State.swapGroveOut (s : State) (g : Nat) : State :=
  let saved := (List.range 16).map (fun l => (l, s.tile (s.physOf g l)))
  let s := (List.range 16).foldl (fun s l => s.mapTile (s.physOf g l) Tile.swapOut) s
  s.mapGrove g (fun x => { x with savedTiles := saved, savedSeq := some x.seq, preempt := none })

/-- The contexts of a grove come back from its shadow storage, to the tiles that serve their positions now, and go on
(R269, R403). -/
def State.swapGroveIn (s : State) (g : Nat) : State :=
  let x := s.grove g
  let s := x.savedTiles.foldl (fun s e =>
    let t := s.physOf g e.1
    (s.mapTile t (fun cur => cur.swapIn e.2)).restoreTile t) s
  s.mapGrove g (fun y => { y with
    savedTiles := [], savedSeq := none, preempt := none
    seq := match x.savedSeq with
      | some q => { q.unasked with inserted := y.seq.inserted }
      | none => y.seq })

/-- PARTITION_SAVE_DONE of partition i: once every grove has saved, the launch that waits is dispatched (R402). -/
def execPartitionSaveDone (i : Nat) (s : State) : Result :=
  .next (
    let r := s.hub.partRuns.get {} i
    let gs := s.partGroveList i
    match r.waiting, r.running with
    | some l, some old =>
      if !gs.all s.groveSaved then s else
      let b := s.headRecord l.queue
      let s := gs.foldl (fun s g => s.swapGroveOut g) s
      let s := s.mapHub (fun h => { h with partRuns := h.partRuns.put i { r with saved := some old, running := none, waiting := none } })
      s.launch l b
    | _, _ => s)

/-- LAUNCH_RESUME of partition i: the saved launch goes on before any other dispatch (R403). -/
def execLaunchResume (i : Nat) (s : State) : Result :=
  .next (
    let r := s.hub.partRuns.get {} i
    match r.saved, r.running with
    | some l, none =>
      let s := (s.partGroveList i).foldl (fun s g => s.swapGroveIn g) s
      s.mapHub (fun h => { h with partRuns := h.partRuns.put i { r with running := some l, saved := none, resumed := some s.cycle } })
    | _, _ => s)

end Sys2Proof.Machine
end

