-- ==== Sys2Proof/Machine/Firmware.lean ====
section
/-!
DEFINITION. Management firmware: firmware banks, fuses and attestation (R409, R410), producer keys (R412), the graft table's
load (R424), and reset (R410).
-/
namespace Sys2Proof.Machine

/-! ### Banks, fuses and keys -/

/-- The bytes of a signature (R407, R409). -/
def sigBytes : Nat := 2420

/-- A firmware image passes: its signature with the vendor key, and its security version (R409). The signature is taken to
be the image's last bytes. -/
def imageOk (fusever : BitVec 8) (im : List Byte) : Bool :=
  let n := im.length - sigBytes
  decide (sigBytes ≤ im.length) && Config.mldsaVerify Config.vendorKey (Config.sha3 (im.take n)) (im.drop n)
    && decide (fusever.toNat ≤ (Config.bankVersion im).toNat)

/-- A run of HBM that a request names lies in memory (R363). -/
def inHbm (a n : Nat) : Bool := decide (a + n ≤ hbmEnd)

/-- FIRMWARE_UPDATE: the inactive bank is written and verified; a bank that fails stays inactive (R409). -/
def execFirmwareUpdate (p : Nat) (v : BitVec 64) (s : State) : Result :=
  s.runRequest p 1 24 v (fun s _ b =>
    let a := bytesAt b 8 8
    let n := bytesAt b 16 8
    if !inHbm a n then .fault .noSuchAddress
    else if s.mem.poisoned a n then .next (s.endRequest 0x13)
    else
      let im := s.mem.bytes.readList a n
      let ok := imageOk s.hub.fusever im
      .next ((s.mapHub (fun h => { h with banks := h.banks.put (1 - h.bank) im, bankReady := ok })).endRequest (if ok then 0 else 0x1e)))

/-- FIRMWARE_BANK_SWITCH: the management cores go over to the bank that an update wrote; nothing else stops (R409). -/
def execFirmwareBankSwitch (s : State) : Result :=
  .next (if s.hub.bankReady then s.mapHub (fun h => { h with bank := 1 - h.bank, bankReady := false }) else s)

/-- FUSE_RAISE: `fusever` rises by one up to 255, and stale translations leave the seedbank first; a bank written for a switch whose
version now lies below it is refused (R409, R422). -/
def execFuseRaise (p : Nat) (v : BitVec 64) (s : State) : Result :=
  s.runRequest p 2 2 v (fun s _ _ =>
    .next ((s.mapHub (fun h =>
      let f : BitVec 8 := if h.fusever = 255 then 255 else h.fusever + 1
      { h with
        fusever := f
        bankReady := h.bankReady && decide (f.toNat ≤ (Config.bankVersion (h.banks.get [] (1 - h.bank))).toNat)
        seeds := h.seeds.filter (fun e => decide (f.toNat ≤ e.secver.toNat)) })).endRequest 0))

/-- PRODUCER_KEY_WRITE (R412). -/
def execProducerKeyWrite (p : Nat) (v : BitVec 64) (s : State) : Result :=
  s.runRequest p 6 1328 v (fun s _ b =>
    let slot := bytesAt b 8 1
    let key := (b.drop 16).take 1312
    .next (if 15 < slot || !zeroAt b 9 7 then s.endRequest 0x14
      else (s.mapHub (fun h => { h with
        keys := if key.all (· == 0) then h.keys.erase slot else h.keys.put slot key })).endRequest 0))

/-- The digest of a key slot; 32 zero bytes for an empty one (R410). -/
def keyDigest (keys : KMap (List Byte)) (n : Nat) : List Byte :=
  match keys.get? n with
  | some k => leBytes 32 (Config.sha3 k).toNat
  | none => leBytes 32 0

/-- The items of a report, in the order of R410. -/
def State.reportItems (s : State) (nonce : List Byte) (p : Nat) : List (List Byte) :=
  let h := s.hub
  let e := h.parts.get 0 p
  [nonce, Config.deviceId, leBytes 32 (Config.sha3 (h.banks.get [] 0)).toNat, leBytes 32 (Config.sha3 (h.banks.get [] 1)).toNat,
    [.ofNat 8 h.bank], [h.fusever], leBytes 32 h.graftver.toNat]
    ++ (List.range 16).map (keyDigest h.keys)
    ++ [leBytes 2 (partAsid e).toNat, leBytes 5 (partGroves e).toNat]
    ++ (h.partRuns.get {} p).digests.map (fun d => leBytes 32 d.toNat)

/-- ATTESTATION: a signed report in the buffer that the block names; 0x14 for a partition that does not exist, 0x0B where the
buffer is too small (R410, R411). -/
def execAttestation (p : Nat) (v : BitVec 64) (s : State) : Result :=
  s.runRequest p 3 64 v (fun s _ b =>
    let part := bytesAt b 40 1
    let buf := bytesAt b 48 8
    let items := s.reportItems ((b.drop 8).take 32) part
    let report := Config.reportBytes items (Config.mldsaSign (Config.sha3 items.flatten))
    if 64 ≤ part || !partValid (s.hub.parts.get 0 part) then .next (s.endRequest 0x14)
    else if bytesAt b 56 8 < report.length then .next (s.endRequest 0x0b)
    else if !inHbm buf report.length then .fault .noSuchAddress
    else .next ((s.write buf report).endRequest 0))

/-! ### The graft table (R424) -/

/-- An entry of the graft table. -/
structure Graft where
  cls : Nat
  count : Nat
  mask : BitVec 128
  value : BitVec 128
  sub : List Byte
  deriving DecidableEq, Repr

/-- Substitute word i of an entry of classes 1 to 8. -/
def Graft.subWord (e : Graft) (i : Nat) : BitVec 32 := .ofNat 32 (bytesAt e.sub (4 * i) 4)

/-- The entries of a table. -/
def grafts (im : List Byte) : List Graft :=
  (List.range (bytesAt im 8 2)).map (fun i =>
    let b := (im.drop (64 + 64 * i)).take 64
    ⟨bytesAt b 0 1, bytesAt b 1 1, .ofNat 128 (bytesAt b 16 16), .ofNat 128 (bytesAt b 32 16), b.drop 48⟩)

/-- A word that no preamble may hold: void, an `ext`, a late writer, or one of slot V that R424 names. -/
def barredPreamble (cls : Nat) (w : BitVec 32) : Bool :=
  let op := opOf w
  w = 0 || op = 0x7f
    || (cls = 5 && op = 0x09) || (cls = 6 && op = 0x09)
    || ((cls = 7 || cls = 8) && (op = 0x09 || (decide (0x0b ≤ op) && decide (op ≤ 0x13)) || op = 0x23 || op = 0x25 || op = 0x29))

/-- The fields of an entry lie in the table's bounds (R424). -/
def Graft.ok (e : Graft) (reserved : Bool) : Bool :=
  let low := decide (e.cls ≤ 8)
  reserved && decide (1 ≤ e.cls) && decide (e.cls ≤ 9) && decide (1 ≤ e.count)
    && decide (e.count ≤ (if 4 ≤ e.cls ∧ e.cls ≤ 8 then 4 else 1))
    && (!low || decide (e.mask.toNat < 2 ^ 32)) && decide (e.value &&& ~~~ e.mask = 0)
    && (!low || (List.range (e.count - 1)).all (fun i => !barredPreamble e.cls (e.subWord i)))

/-- The table's fields, signature apart (R424). -/
def graftFieldsOk (im : List Byte) : Bool :=
  let n := bytesAt im 8 2
  decide (bytesAt im 0 4 = 0x5447444c) && decide (bytesAt im 4 2 = 1) && zeroAt im 7 1 && zeroAt im 10 54 && decide (n ≤ 256)
    && decide (im.length = 64 + 64 * n + sigBytes)
    && ((grafts im).zipIdx).all (fun e => e.1.ok (zeroAt im (64 + 64 * e.2 + 2) 14))

/-- GRAFT_TABLE_LOAD: 0x1E for the signature or the security version, then 0x14 for the fields; a table that passes replaces
the old one (R424). -/
def execGraftTableLoad (p : Nat) (v : BitVec 64) (s : State) : Result :=
  s.runRequest p 5 24 v (fun s _ b =>
    let a := bytesAt b 8 8
    let n := bytesAt b 16 8
    if !inHbm a n then .fault .noSuchAddress
    else if s.mem.poisoned a n then .next (s.endRequest 0x13)
    else
      let im := s.mem.bytes.readList a n
      let body := im.take (n - sigBytes)
      if n < 64 + sigBytes || !Config.mldsaVerify Config.vendorKey (Config.sha3 body) (im.drop (n - sigBytes))
          || decide (bytesAt im 6 1 < s.hub.fusever.toNat) then .next (s.endRequest 0x1e)
      else if !graftFieldsOk im then .next (s.endRequest 0x14)
      else .next ((s.mapHub (fun h => { h with graft := im, graftver := Config.sha3 im })).endRequest 0))

/-! ### Reset (R409, R410) -/

/-- The bases that firmware gives a die's task logs and save area before the window opens; their places are free (R368,
R410). -/
def State.placeAreas (s : State) (d : Nat) : State :=
  let log := 2 ^ 28 * ((Config.freeWord s.fresh).toNat % 2039)
  let save := 2 ^ 22 * ((Config.freeWord (s.fresh + 1)).toNat % 131068)
  { s.mapDie d (fun x => { x with dlogbase := .ofNat 64 log, dsavebase := .ofNat 64 save }) with fresh := s.fresh + 2 }

/-- The bank that the ROM starts: the active one, else the other, else none (R409). -/
def Hub.bootBank (h : Hub) : Option Nat :=
  if imageOk h.fusever (h.banks.get [] h.bank) then some h.bank
  else if imageOk h.fusever (h.banks.get [] (1 - h.bank)) then some (1 - h.bank)
  else none

/-- DEVICE_RESET: everything returns to its reset value but what the hub keeps in fuses and non-volatile stores and what the
drives hold; the ROM check, the bases of the dies, and the window opens with every partition invalid, or the device stays in
recovery with only `fwctl` reachable (R409, R410, R412). -/
def execDeviceReset (s : State) : Result :=
  let h := s.hub
  let t : State := { State.reset with
    mem := { flash := s.mem.flash }
    hub := { banks := h.banks, bank := h.bank, keys := h.keys, fusever := h.fusever, graft := h.graft, graftver := h.graftver }
    agenda := s.agenda, turn := s.turn, fresh := s.fresh }
  .next (match t.hub.bootBank with
    | some b =>
      let t := [0, 1, 2, 3].foldl State.placeAreas (t.mapHub (fun h => { h with bank := b }))
      { t with window := { t.window with isOpen := true } }
    | none => t.mapHub (fun h => { h with recovery := true }))

end Sys2Proof.Machine
end

