-- ==== Sys2Proof/Machine/Gpf.lean ====
section
/-!
DEFINITION. The Gherik Pattern Form (R419): the records of a pattern section, the values its factors can take, and the order that the
translation of each kind of pattern keeps.
-/
namespace Sys2Proof.Machine

/-! ### The order that translation keeps -/

/-- Elements combined one after another, in the order of a list. -/
def chainFold : List Fold → Option Fold
  | [] => none
  | t :: ts => some (ts.foldl .node t)

/-- The indices of part p of an axis of n elements that is split into f contiguous parts. -/
def partIndices (n f p : Nat) : List Nat := (List.range ((p + 1) * n / f - p * n / f)).map (p * n / f + ·)

/-- A part's elements combined in index order. -/
def partFold (is : List Nat) : Option Fold := chainFold (is.map .leaf)

/-- A reduction: each part in index order, then the parts' results in part order (R419, kind 2). -/
def reduceFold (n f : Nat) : Option Fold := chainFold ((List.range f).filterMap (fun p => partFold (partIndices n f p)))

/-- A scan: each part in index order, behind the totals of the parts before it, carried in part order (R419, kind 3). -/
def scanFolds (n f : Nat) : List (Option Fold) :=
  (List.range f).flatMap (fun p =>
    let is := partIndices n f p
    let carry := chainFold ((List.range p).filterMap (fun q => partFold (partIndices n f q)))
    (List.range is.length).map (fun i => match carry, partFold (is.take (i + 1)) with
      | some c, some t => some (.node c t)
      | none, t => t
      | c, none => c))

/-- What translation keeps of a pattern of a kind over n elements, with the factor's value f and its child records (R419). -/
def keptOf (kind n f : Nat) (children : List Nat) : Kept :=
  match kind with
  | 2 => .folds [reduceFold n f]
  | 3 => .folds (scanFolds n f)
  | 4 => .order (List.range n)
  | 5 => .children children
  | _ => .none

/-! ### The records of a section -/

/-- A factor: its bounds and the size that it must divide (R419). -/
structure Factor where
  id : Nat
  low : Nat
  high : Nat
  size : Nat
  deriving DecidableEq, Repr

/-- The values of a factor: inside its bounds, dividing its size (R419). -/
def Factor.values (x : Factor) : List Nat :=
  (List.range (x.high + 1)).filter (fun v => decide (x.low ≤ v) && decide (v ≠ 0) && decide (x.size % v = 0))

/-- The 32-byte records of a section (R419). -/
def gpfRecords (b : List Byte) : List (List Byte) := (List.range (b.length / 32)).map (fun i => (b.drop (32 * i)).take 32)

/-- The fields of the records of one class, in their order. -/
def recordsOf (b : List Byte) (cls : Nat) : List (List Nat) :=
  ((gpfRecords b).map Config.gpfRecord).filterMap (fun r => if r.1 = cls then some r.2 else none)

def Factor.ofFields (r : List Nat) : Factor := ⟨r.getD 0 0, r.getD 1 0, r.getD 2 0, r.getD 3 0⟩

/-- The factors of a section. -/
def factorsOf (b : List Byte) : List Factor := (recordsOf b 2).map Factor.ofFields

/-- The size of a tensor along an axis; a tensor's id is its place among the tensor records (log entry 20). -/
def tensorSize (b : List Byte) (id axis : Nat) : Nat := (((recordsOf b 1)[id]?).getD []).getD (2 + axis) 0

/-- A section has whole records, each of a class that R419 names, patterns of kinds 1 to 5 with zeros beyond their fields, and a value for
every factor (R419). -/
def gpfOk (b : List Byte) : Bool :=
  decide (b.length % 32 = 0) && (gpfRecords b).all (fun r =>
    let c := Config.gpfRecord r
    decide (c.1 ≤ 3) && (c.1 ≠ 0 || (decide (1 ≤ bytesAt r 0 1) && decide (bytesAt r 0 1 ≤ 5) && zeroAt r 18 14))
      && (c.1 ≠ 2 || !(Factor.ofFields c.2).values.isEmpty))

/-- A pattern record, with the factor values chosen (R419). -/
def patternOf (b : List Byte) (chosen : List (Nat × Nat)) (r : List Byte) : Pattern :=
  let axis := bytesAt r 2 1
  let inputs := (List.range 4).map (fun i => bytesAt r (8 + 2 * i) 2)
  let f := ((chosen.find? (fun e => e.1 = bytesAt r 3 1)).map (·.2)).getD 1
  { kind := bytesAt r 0 1, op := bytesAt r 1 1, axis := axis, inputs := inputs, output := bytesAt r 16 2
    kept := keptOf (bytesAt r 0 1) (tensorSize b (inputs.headD 0) axis) f
      ((List.range (bytesAt r 6 2)).map (bytesAt r 4 2 + ·)) }

/-- The patterns of a section. -/
def patternsOf (b : List Byte) (chosen : List (Nat × Nat)) : List Pattern :=
  ((gpfRecords b).filter (fun r => (Config.gpfRecord r).1 = 0)).map (patternOf b chosen)

/-- The relocations of a section: grove or tile code, target, bundle and slot (R419). -/
def gpfRelocations (b : List Byte) : List (Bool × Nat × Nat × Nat) :=
  (recordsOf b 3).map (fun r => (decide (r.getD 0 0 = 1), r.getD 1 0, r.getD 2 0, r.getD 3 0))

end Sys2Proof.Machine
end

