-- ==== Sys2Proof/Machine/CodeLoad.lean ====
section
/-!
DEFINITION. Loading a code object (R413 to R423) and applying the graft table to it (R425, R426).
-/
namespace Sys2Proof.Machine

/-! ### Bundles of a code section -/

/-- Word k of a bundle in a list of words. -/
abbrev BundleWords := List (BitVec 32)

def BundleWords.at (b : BundleWords) (sl : Slot) : BitVec 32 := (b[sl.index]?).getD 0

/-- The bundles of a code section (R107, R137). -/
def bundlesOf (bs : List Byte) : List BundleWords :=
  (List.range (bs.length / 32)).map (fun i => (List.range 8).map (fun k => .ofNat 32 (bytesAt bs (32 * i + 4 * k) 4)))

/-- The bytes of bundles. -/
def bytesOf (code : List BundleWords) : List Byte := code.flatMap (fun b => b.flatMap (fun w => leBytes 4 w.toNat))

/-- A bundle holds an `ext`. -/
def hasExt (b : BundleWords) : Bool := b.any (fun w => opOf w = 0x7f)

/-! ### Applying the graft table (R425, R426) -/

/-- The class of a slot's words (R424). -/
def graftClass (grove : Bool) : Slot → Nat
  | .a => 1 | .b => 2 | .l => 3 | .c => 4 | .d => 4 | .m => 5 | .n => 6
  | .v => if grove then 8 else 7

/-- The first entry of a class that matches a word (R425). -/
def graftOf (gs : List Graft) (cls : Nat) (w : BitVec 128) : Option Graft :=
  gs.find? (fun e => decide (e.cls = cls) && decide (w &&& e.mask = e.value))

/-- The preamble words and the final word that replace a slot word (R425). -/
def graftWord (gs : List Graft) (cls : Nat) (w : BitVec 32) : List (BitVec 32) × BitVec 32 :=
  if [0x00, 0x01, 0x7f].contains (opOf w) then ([], w) else
  match graftOf gs cls (w.setWidth 128) with
  | none => ([], w)
  | some e =>
    let m : BitVec 32 := e.mask.setWidth 32
    let pre (i : Nat) : BitVec 32 := (e.subWord i &&& 0x7f0fffff) ||| (w &&& 0x00f00000)
    ((List.range (e.count - 1)).map pre, (e.subWord (e.count - 1) &&& m) ||| (w &&& ~~~ m))

/-- A bundle after the graft: the bundles inserted before it, and itself (R426). -/
structure Grafted where
  before : List BundleWords
  bundle : BundleWords
  deriving DecidableEq, Repr

/-- The graft of one bundle. -/
def graftBundle (gs : List Graft) (grove : Bool) (b : BundleWords) : Grafted :=
  let rs := Slot.all.map (fun sl => graftWord gs (graftClass grove sl) (b.at sl))
  let n := (rs.map (fun r => r.1.length)).foldl max 0
  ⟨(List.range n).map (fun i => rs.map (fun r => (r.1[i]?).getD 0x01000000)), rs.map (·.2)⟩

/-- Where the bundles inserted before bundle i go: before the `ext` bundles that prefix it (R426). -/
def insertAt (code : List BundleWords) : Nat → Nat
  | 0 => 0
  | i + 1 => if hasExt ((code[i]?).getD []) then insertAt code i else i + 1

/-- A code section re-laid: its bundles, the new index of each original bundle, the index that references to it take, and the
inserted bundles (R426). -/
structure Relaid where
  code : List BundleWords
  index : List Nat
  target : List Nat
  inserted : List Nat
  deriving DecidableEq, Repr

/-- The bundles that stand before original bundle j: those inserted for bundles whose place is at or before it. -/
def placedBefore (places : List (Nat × Nat)) (j : Nat) : Nat := ((places.filter (fun p => p.1 ≤ j)).map (·.2)).foldl (· + ·) 0

/-- Code with its grafts applied and its indices moved (R426). -/
def relay (gs : List Graft) (grove : Bool) (code : List BundleWords) : Relaid :=
  let rs := code.map (graftBundle gs grove)
  let places := (rs.zipIdx).map (fun e => (insertAt code e.2, e.1.before.length))
  let js := List.range code.length
  let index := js.map (fun j => j + placedBefore places j)
  let first (j : Nat) : Nat :=
    let c := insertAt code j
    c + ((places.zipIdx.filter (fun p => decide (p.1.1 < c) || (decide (p.1.1 = c) && decide (p.2 < j)))).map (·.1.2)).foldl (· + ·) 0
  let target := js.map (fun j => match places[j]? with
    | some (_, n) => if n = 0 then (index[j]?).getD j else first j
    | none => j)
  let out := js.flatMap (fun j =>
    ((rs.zipIdx.filter (fun e => insertAt code e.2 = j)).flatMap (fun e => e.1.before)) ++ [(rs.map (·.bundle))[j]?.getD []])
  let inserted := js.flatMap (fun j => match places[j]? with
    | some (_, n) => (List.range n).map (fun i => first j + i)
    | none => [])
  ⟨out, index, target, inserted⟩

/-- The index that a reference to bundle j takes; beyond the code it moves with the code's end. -/
def Relaid.ref (r : Relaid) (j : Int) : Int :=
  if j < 0 then j else match r.target[j.toNat]? with
    | some k => k
    | none => j + (r.code.length : Int) - r.index.length

/-- A word with its low bits replaced. -/
def withLow (w : BitVec 32) (n : Nat) (v : Nat) : BitVec 32 := .ofNat 32 (w.toNat / 2 ^ n * 2 ^ n + v % 2 ^ n)

/-- The `ext` payload that stands before a slot of bundle k. -/
def extBefore (code : List BundleWords) (k : Nat) (sl : Slot) : Option (BitVec 24) :=
  if k = 0 then none else
  let w := ((code[k - 1]?).getD []).at sl
  if opOf w = 0x7f then some (w.setWidth 24) else none

/-- Code with a word of a slot replaced. -/
def putWord (code : List BundleWords) (k : Nat) (sl : Slot) (w : BitVec 32) : List BundleWords :=
  code.set k (((code[k]?).getD []).set sl.index w)

/-- A slot's immediate of n low bits, with its payload if it has one, becomes v; none where it does not fit (R419, R426). -/
def putImm (code : List BundleWords) (k : Nat) (sl : Slot) (n : Nat) (signed : Bool) (v : Int) : Option (List BundleWords) :=
  let w := ((code[k]?).getD []).at sl
  let bits := if (extBefore code k sl).isSome then n + 24 else n
  let lo : Int := if signed then -(2 ^ (bits - 1) : Nat) else 0
  let hi : Int := if signed then (2 ^ (bits - 1) : Nat) else (2 ^ bits : Nat)
  if v < lo ∨ hi ≤ v then none else
  let pat := (v % (2 ^ bits : Nat)).toNat
  let code := putWord code k sl (withLow w n pat)
  some (if (extBefore code k sl).isSome then
    putWord code (k - 1) sl (withLow (((code[k - 1]?).getD []).at sl) 24 (pat / 2 ^ n)) else code)

/-- The branch offset and the loop end of original bundle j are rewritten (R426). -/
def fixBundle (r : Relaid) (code : List BundleWords) (j : Nat) : Option (List BundleWords) :=
  let k := (r.index[j]?).getD j
  let b := (code[k]?).getD []
  let wb := b.at .b
  let wl := b.at .l
  let step1 : Option (List BundleWords) :=
    if opOf wb = 0x40 ∨ opOf wb = 0x42 then
      putImm code k .b 20 true (r.ref (j + immOffset (extBefore code k .b) (fld wb 19 0)) - k)
    else some code
  step1.bind (fun code =>
    if opOf wl = 2 ∨ opOf wl = 3 then
      let last := r.ref ((j + (fld wl 18 8 : BitVec 11).toNat + 1 : Nat) : Int) - k - 1
      if last < 0 ∨ 2048 ≤ last then none
      else some (putWord code k .l (.ofNat 32 (wl.toNat - (fld wl 18 8 : BitVec 11).toNat * 256 + last.toNat * 256)))
    else some code)

/-- Whether the 8-bit immediate of a word is read as signed; none where the word has no immediate that is a number of its own (R144,
R146, R147, R149 to R151). -/
def immSign (sl : Slot) (op : Nat) : Option Bool :=
  match sl with
  | .a => if [0x04, 0x1a, 0x1d, 0x30, 0x31, 0x32, 0x33, 0x34, 0x35].contains op then some true
    else if [0x0f, 0x10, 0x11].contains op then some false else none
  | .b => if [0x04, 0x1a, 0x1d].contains op then some true
    else if [0x0f, 0x10, 0x11, 0x45, 0x46].contains op then some false else none
  | .l => if [0x07, 0x0c, 0x0d].contains op then some true else if [0x03, 0x0b].contains op then some false else none
  | .m => if op = 0x03 then some false else none
  | .n => if [0x07, 0x08].contains op then some false else none
  | .v => if op = 0x02 then some false else none
  | _ => none

/-- The immediate that a relocation names holds a bundle index and is rewritten, with its `ext` payload, as the word reads it (R419,
R426). A relocation of a word that has no such immediate is refused, as one whose new index does not fit is (log entry 20). -/
def fixReloc (r : Relaid) (code : List BundleWords) (j slot : Nat) : Option (List BundleWords) :=
  match Slot.all[slot]? with
  | none => none
  | some sl =>
    let k := (r.index[j]?).getD j
    let w := ((code[k]?).getD []).at sl
    let e := extBefore code k sl
    if sl = .b ∧ (opOf w = 0x40 ∨ opOf w = 0x42) then some code
    else match immSign sl (opOf w) with
      | none => none
      | some true => putImm code k sl 8 true (r.ref (immSigned e (fld w 7 0)))
      | some false => putImm code k sl 8 false (r.ref (immUnsigned e (fld w 7 0)))

/-- Code re-laid, with every reference to a bundle rewritten (R426). -/
def relayAll (gs : List Graft) (grove : Bool) (relocs : List (Nat × Nat)) (code : List BundleWords) : Option Relaid :=
  let r := relay gs grove code
  let c1 := (List.range code.length).foldl (fun c j => c.bind (fun c => fixBundle r c j)) (some r.code)
  let c2 := relocs.foldl (fun c e => c.bind (fun c => fixReloc r c e.1 e.2)) c1
  c2.map (fun c => { r with code := c })

/-- Every bundle passes the decode checks as a static word, and the code ends at or before bundle 2,047 (R417). -/
def codeOk (grove : Bool) (code : List BundleWords) : Bool :=
  decide (code.length ≤ 2048) && (List.range code.length).all (fun k =>
    (bundleFault ⟨grove, false, false⟩ ((code[k]?).getD []).at ((code[k + 1]?).getD []).at (extBefore code k)).isNone)

/-- A configuration image with its element words grafted (R424, R425). -/
def graftImage (gs : List Graft) (im : List Byte) : List Byte :=
  let word (n : Nat) : BitVec 128 := .ofNat 128 (bytesAt im (64 + 16 * n) 16)
  let new (n : Nat) : BitVec 128 :=
    let w := word n
    if [0x00, 0x01, 0x7f].contains (cOp w) then w else
    match graftOf gs 9 w with
    | none => w
    | some e => (.ofNat 128 (bytesAt e.sub 0 16) &&& e.mask) ||| (w &&& ~~~ e.mask)
  im.take 64 ++ (List.range 64).flatMap (fun n => leBytes 16 (new n).toNat) ++ im.drop 1088

/-! ### The object (R413, R414) -/

/-- A section as kind, place, bytes and its index in the object. -/
structure Section where
  kind : Nat
  place : Nat
  data : List Byte
  number : Nat
  deriving DecidableEq, Repr

/-- An entry of the section table is valid in an object of L bytes. -/
def sectionOk (b : List Byte) (total nsec i : Nat) : Bool :=
  let o := 64 + 32 * i
  let off := bytesAt b (o + 8) 8
  decide (1 ≤ bytesAt b o 1) && decide (bytesAt b o 1 ≤ 9) && zeroAt b (o + 1) 1 && zeroAt b (o + 4) 4 && zeroAt b (o + 24) 8
    && decide (64 + 32 * nsec ≤ off) && decide (off + bytesAt b (o + 16) 8 + sigBytes ≤ total)

/-- The header of an object (R413). -/
def objectOk (b : List Byte) (len : Nat) : Bool :=
  let nsec := bytesAt b 24 4
  decide (bytesAt b 0 4 = 0x4f47444c) && decide (bytesAt b 4 2 = 1) && decide (bytesAt b 7 1 < 16) && decide (1 ≤ nsec)
    && decide (nsec ≤ 1024) && decide (bytesAt b 28 4 = len) && zeroAt b 32 32 && decide (64 + 32 * nsec + sigBytes ≤ len)

/-- The first section whose entry is not valid (R413, R414). -/
def badSection (b : List Byte) (len : Nat) : Option Nat :=
  (List.range (bytesAt b 24 4)).find? (fun i => !sectionOk b len (bytesAt b 24 4) i)

/-- The sections of a valid object. -/
def sectionsOf (b : List Byte) : List Section :=
  (List.range (bytesAt b 24 4)).map (fun i =>
    let o := 64 + 32 * i
    ⟨bytesAt b o 1, bytesAt b (o + 2) 2, (b.drop (bytesAt b (o + 8) 8)).take (bytesAt b (o + 16) 8), i⟩)

/-- The request's groves by rank. -/
def groveAt (mask : BitVec 40) (rank : Nat) : Option Nat := (groveList mask)[rank]?

/-- The target of a section exists (R413). -/
def placeOk (mask : BitVec 40) (x : Section) : Bool :=
  let p := x.place % 2 ^ 14
  if x.kind = 3 then (groveAt mask p).isSome
  else if x.kind = 2 ∨ (4 ≤ x.kind ∧ x.kind ≤ 7) then (groveAt mask (p / 16)).isSome
  else true

/-- The physical tile a section names (R413). -/
def State.placeTile (s : State) (mask : BitVec 40) (place : Nat) : Nat :=
  s.physOf ((groveAt mask (place % 2 ^ 14 / 16)).getD 0) (place % 16)

/-- The placement mask (R415). -/
def State.placement (s : State) (mask : BitVec 40) : List Byte :=
  let bits := (groveList mask).flatMap (fun g => ((List.range 16).map (fun l => s.physOf g l)))
  leBytes 85 ((bits.map (fun t => 2 ^ t)).foldl (· + ·) 0)

/-! ### Translation (R415, R417, R419) -/

/-- Why a translation is refused: cause and section. -/
abbrev LoadRefusal := BitVec 8 × Nat

/-- The relocations of one program, from the tables of an object and from its pattern sections: bundle and slot (R413, R419). -/
def relocsOf (xs : List Section) (grove : Bool) (place : Nat) : List (Nat × Nat) :=
  (xs.flatMap (fun x => if x.kind = 9 then (Config.relocationSection x.data).getD [] else if x.kind = 1 then gpfRelocations x.data
    else [])).filterMap (fun e => if e.1 = grove ∧ e.2.1 = place then some e.2.2 else none)

/-- The re-laid code of every code section, by kind and place. -/
abbrev RelaidMap := List ((Nat × Nat) × Relaid)

/-- Code sections re-laid and checked (R417, R426). -/
def relaySections (gs : List Graft) (xs : List Section) : List Section → Except LoadRefusal RelaidMap
  | [] => .ok []
  | x :: rest =>
    if x.kind = 2 ∨ x.kind = 3 then
      let grove : Bool := x.kind = 3
      match relayAll gs grove (relocsOf xs grove x.place) (bundlesOf x.data) with
      | none => .error (0x14, x.number)
      | some r =>
        if x.data.length % 32 ≠ 0 || !codeOk grove r.code then .error (0x14, x.number)
        else match relaySections gs xs rest with
          | .ok m => .ok (((x.kind, x.place), r) :: m)
          | e => e
    else relaySections gs xs rest

/-- The re-laid code of a kernel. -/
def RelaidMap.find (m : RelaidMap) (kind place : Nat) : Option Relaid := (List.find? (fun e => e.1 = (kind, place)) m).map (·.2)

/-- A reference to a bundle of a program. -/
def RelaidMap.refOf (m : RelaidMap) (kind place j : Nat) : Nat := match m.find kind place with
  | some r => (r.ref j).toNat
  | none => j

/-- The entries of a live-range table, with their bundles rewritten (R271, R426). -/
def liveEntries (m : RelaidMap) (place : Nat) (b : List Byte) : List (BitVec 128) :=
  (List.range (b.length / 16)).map (fun i =>
    let e : BitVec 128 := .ofNat 128 (bytesAt b (16 * i) 16)
    let old := (e.extractLsb' 116 11).toNat
    e + .ofNat 128 (m.refOf 2 place old % 2048 * 2 ^ 116) - .ofNat 128 (old * 2 ^ 116))

/-- A live-range table whose reserved bits are zero (R271). -/
def liveOk (b : List Byte) : Bool :=
  decide (b.length ≤ 4096) && decide (b.length % 16 = 0) && (List.range (b.length / 16)).all (fun i =>
    let e : BitVec 128 := .ofNat 128 (bytesAt b (16 * i) 16)
    e.extractLsb' 112 4 = 0 && e.extractLsb' 0 32 = 0)

/-- A section other than code after the graft, or the cause that refuses it. -/
def finishSection (gs : List Graft) (m : RelaidMap) (x : Section) : Except LoadRefusal (List (Nat × Nat × List Byte)) :=
  let refused : Except LoadRefusal (List (Nat × Nat × List Byte)) := .error (0x14, x.number)
  match x.kind with
  | 2 | 3 => .ok ((m.find x.kind x.place).toList.map (fun r => (x.kind, x.place, bytesOf r.code)))
  | 4 | 10 =>
    let im := graftImage gs x.data
    if (imageChecks (leNat im) im.length).isSome then refused else .ok [(x.kind, x.place, im)]
  | 0 => .ok [(0, x.place, x.data)]
  | 5 => if liveOk x.data then .ok [(5, x.place, (liveEntries m x.place x.data).flatMap (fun e => leBytes 16 e.toNat))] else refused
  | 6 => if (Config.dataSection x.data).isSome then .ok [(6, x.place, x.data)] else refused
  | 7 => if (Config.barrierSection x.data).isSome then .ok [(7, x.place, x.data)] else refused
  | 8 => if (Config.symbolSection x.data).isSome then .ok [] else refused
  | 9 => if (Config.relocationSection x.data).isSome then .ok [] else refused
  | _ => .ok []

def finishSections (gs : List Graft) (m : RelaidMap) : List Section → Except LoadRefusal (List (Nat × Nat × List Byte))
  | [] => .ok []
  | x :: rest => match finishSection gs m x, finishSections gs m rest with
    | .ok a, .ok b => .ok (a ++ b)
    | .error e, _ => .error e
    | _, .error e => .error e

/-- The symbols of a load, with bundle indices of their own program after re-laying (R416). -/
def symbolsOf (m : RelaidMap) (xs : List Section) : List Symbol :=
  (xs.filter (fun x => x.kind = 8)).flatMap (fun x => ((Config.symbolSection x.data).getD []).map (fun e =>
    let (name, grove, place, kind, value) := e
    ⟨(leBytes 32 (Config.sha3 name).toNat).take 8, place, kind, if kind = 1 then m.refOf (if grove then 3 else 2) place value else value⟩))

/-- The value that a load chooses for each factor of a pattern section, one of those that it can take (R419, R420). -/
def chosenFactors (object placement : List Byte) (graftver : BitVec 256) (x : Section) : List (Nat × Nat) :=
  (factorsOf x.data).map (fun f =>
    let vs := f.values
    (f.id, (vs[Config.factorChoice object placement graftver x.number f.id % vs.length]?).getD 1))

/-- The sections that the translation of a pattern section makes; they carry its number (R415, R420). -/
def madeOf (object placement : List Byte) (graftver : BitVec 256) (x : Section) : List Section :=
  (Config.translate object placement graftver x.number (patternsOf x.data (chosenFactors object placement graftver x))).map (fun e =>
    Section.mk e.1 e.2.1 e.2.2 x.number)

/-- The translation of an object under a placement, a graft table and its version; a refusal names the section that fails (R414, R415,
R417, R420). -/
def translateObject (object placement : List Byte) (gs : List Graft) (graftver : BitVec 256) (mask : BitVec 40) :
    Except LoadRefusal Translation :=
  let xs := sectionsOf object
  let gpf := xs.filter (fun x => x.kind = 1)
  match gpf.find? (fun x => !gpfOk x.data) with
  | some x => .error (0x14, x.number)
  | none =>
    let all := xs ++ gpf.flatMap (madeOf object placement graftver)
    match all.find? (fun x => !placeOk mask x) with
    | some x => .error (0x14, x.number)
    | none => match relaySections gs all all with
      | .error e => .error e
      | .ok m => match finishSections gs m all with
        | .error e => .error e
        | .ok secs =>
          let inHbm (e : Nat × Nat × List Byte) : Bool := e.1 = 0 || e.1 = 10
          .ok {
            sections := secs.filter (fun e => !inHbm e)
            inserted := m.flatMap (fun e => e.2.inserted.map (fun k => (e.1.1, e.1.2, k)))
            symbols := symbolsOf m all
            factors := gpf.flatMap (fun x => (chosenFactors object placement graftver x).map (fun f =>
              (BitVec.ofNat 32 f.1, BitVec.ofNat 32 f.2)))
            placed := (secs.filter inHbm).map (fun e => e.2.2) }

/-! ### The seedbank (R421, R422) -/

/-- The digest of a seedbank entry's items. -/
def seedDigest (key : BitVec 256) (secver : BitVec 8) (x : Translation) : BitVec 256 :=
  Config.sha3 (leBytes 32 key.toNat ++ [secver]
    ++ x.sections.flatMap (fun e => leBytes 8 e.1 ++ leBytes 8 e.2.1 ++ leBytes 8 e.2.2.length ++ e.2.2)
    ++ x.inserted.flatMap (fun e => leBytes 8 e.1 ++ leBytes 8 e.2.1 ++ leBytes 8 e.2.2)
    ++ x.symbols.flatMap (fun e => e.name ++ leBytes 8 e.place ++ leBytes 8 e.kind ++ leBytes 8 e.value)
    ++ x.factors.flatMap (fun e => leBytes 4 e.1.toNat ++ leBytes 4 e.2.toNat) ++ x.placed.flatMap (fun b => leBytes 8 b.length ++ b))

/-- What a lookup finds (R422). -/
inductive Lookup where
  | hit (e : Seed)
  | miss
  | stale
  deriving DecidableEq, Repr

/-- A lookup by key: an entry whose signature fails is deleted; so is a stale one, which ends the load (R422). -/
def Hub.lookup (h : Hub) (key : BitVec 256) : Hub × Lookup :=
  let dropped : Hub := { h with seeds := h.seeds.filter (fun e => e.key ≠ key) }
  match h.seeds.find? (fun e => e.key = key) with
  | none => (h, .miss)
  | some e =>
    if !Config.mldsaVerify Config.deviceKey (seedDigest e.key e.secver e.what) e.sig then (dropped, .miss)
    else if e.secver.toNat < h.fusever.toNat then (dropped, .stale)
    else ({ dropped with seeds := e :: dropped.seeds }, .hit e)

/-- A translation is stored; beyond 4,096 entries the least recently used goes (R421). -/
def Hub.store (h : Hub) (key : BitVec 256) (secver : BitVec 8) (x : Translation) : Hub :=
  { h with seeds := (⟨key, secver, x, Config.mldsaSign (seedDigest key secver x)⟩ :: h.seeds.filter (fun e => e.key ≠ key)).take 4096 }

/-! ### Installation (R416) -/

/-- A code store is written from bundle 0 and filled with void words (R265, R416). -/
def State.installCode (s : State) (u : Agent) (code : List Byte) (inserted : List Nat) : State :=
  let a := codeAddr u.codeUnit 0
  let outside (k : Nat) : Bool := !(decide (a ≤ k) && decide (k < a + 0x10000))
  let m : Mem := { s.mem with bytes := s.mem.bytes.filter (fun c => outside c.1), poison := s.mem.poison.filter outside }
  ({ s with mem := m.write a code } : State).mapSeq u (fun q => { q with inserted := inserted })

/-- One section is installed (R416). -/
def State.installSection (s : State) (mask : BitVec 40) (x : Translation) (e : Nat × Nat × List Byte) : State :=
  let t := s.placeTile mask e.2.1
  let inserted := x.inserted.filterMap (fun k => if k.1 = e.1 ∧ k.2.1 = e.2.1 then some k.2.2 else none)
  match e.1 with
  | 2 => s.installCode (.tile t) e.2.2 inserted
  | 3 => s.installCode (.seq ((groveAt mask (e.2.1 % 2 ^ 14)).getD 0)) e.2.2 inserted
  | 4 => s.mapTile t (fun y => { y with fab := { y.fab with slots := y.fab.slots.put (e.2.1 / 2 ^ 14 % 4) (installed (leNat e.2.2)) } })
  | 5 => s.mapTile t (fun y => { y with
      live := (List.range (e.2.2.length / 16)).foldl (fun m i => KMap.set 0 m i (BitVec.ofNat 128 (bytesAt e.2.2 (16 * i) 16))) [] })
  | 6 => match Config.dataSection e.2.2 with
    | none => s
    | some (panes, data) =>
      let s := data.foldl (fun s d => s.write (tspAddr t (d.1 % 0x100000)) d.2) s
      s.mapTile t (fun y => { y with own := panes.foldl (fun m p =>
        ((List.range p.2.1).map (· + p.1)).foldl (fun m k => KMap.set 0 m (k % 256) (if p.2.2 then 1 else 0)) m) y.own })
  | 7 => match Config.barrierSection e.2.2 with
    | none => s
    | some bs => bs.foldl (fun s b => s.mapSeq (.tile t) (fun q => if b.1 = 0 then q else { q with
        bars := q.bars.set {} b.1 { q.bars.get {} b.1 with
          init := true, expected := .ofNat 16 b.2, arrived := 0, status := 0, info := 0, report := none } })) s
  | _ => s

/-- The bytes of the data region: the load map and the data placed in HBM (R416). -/
def loadMap (key : BitVec 256) (x : Translation) : List Byte :=
  leBytes 32 key.toNat ++ leBytes 4 x.symbols.length ++ leBytes 4 x.factors.length ++ leBytes 24 0
    ++ x.symbols.flatMap (fun e => e.name ++ leBytes 2 e.place ++ leBytes 2 e.kind ++ leBytes 4 e.value)
    ++ x.factors.flatMap (fun e => leBytes 4 e.1.toNat ++ leBytes 4 e.2.toNat) ++ x.placed.flatten

/-- Bytes are written to a range held page by page, each page's run whole (R382, R416). -/
def State.writePages (s : State) (pages : List (Nat × Nat)) (bs : List Byte) : State :=
  (pages.zipIdx).foldl (fun s e =>
    let fin := ((pages[e.2 + 1]?).map (·.1)).getD bs.length
    s.write e.1.2 ((bs.drop e.1.1).take (fin - e.1.1))) s

/-! ### The request (R414, R415) -/

/-- The check of the block (R415, step 1). -/
def State.loadBlockOk (s : State) (b : List Byte) : Bool :=
  let p := bytesAt b 4 1
  let e := s.hub.parts.get 0 p
  let r := s.hub.partRuns.get {} p
  let mask : BitVec 40 := .ofNat 40 (bytesAt b 40 5)
  decide (p < 64) && partValid e && r.running.isNone && r.saved.isNone && decide (mask ≠ 0) && decide (mask &&& ~~~ partGroves e = 0)
    && zeroAt b 5 3 && zeroAt b 45 83 && decide (bytesAt b 24 8 % 64 = 0)

/-- The request ends; `where` names the failing section or is 0xFFFF (R414). -/
def State.endLoadRequest (s : State) (blk : Nat) (cause : BitVec 8) (place : Nat) : State :=
  (s.writeNat (blk + 2) 2 place).endRequest cause

/-- A tile's code comes with its live-range table: without one, none of the kernel before it stays (R271). -/
def State.clearLive (s : State) (mask : BitVec 40) (x : Translation) : State :=
  (x.sections.filter (fun e => e.1 = 2)).foldl (fun s e => s.mapTile (s.placeTile mask e.2.1) (fun y => { y with live := [] })) s

/-- A translation is installed and its load map written, unless its data region is too small or not mapped (R416). -/
def State.install (s : State) (blk : Nat) (b : List Byte) (object : List Byte) (key : BitVec 256) (x : Translation) : State :=
  let mask : BitVec 40 := .ofNat 40 (bytesAt b 40 5)
  let map := loadMap key x
  if bytesAt b 32 8 < map.length then s.endLoadRequest blk 0x0b 0xffff else
  match s.pagesOf ((groveAt mask 0).getD 0) (.ofNat 72 (bytesAt b 24 8)) map.length false true with
  | (s, .error c) => s.endLoadRequest blk c 0xffff
  | (s, .ok pages) =>
    let s := x.sections.foldl (fun s e => s.installSection mask x e) (s.clearLive mask x)
    let s := s.writePages pages map
    let p := bytesAt b 4 1
    (s.mapHub (fun h => { h with partRuns := h.partRuns.put p { h.partRuns.get {} p with
      digests := (h.partRuns.get {} p).digests ++ [Config.sha3 object] } })).endLoadRequest blk 0 0xffff

/-- A code object that passed its checks is looked up, or translated and stored, and installed (R415, steps 3 to 6). -/
def State.loadObject (s : State) (blk : Nat) (b : List Byte) (object : List Byte) : State :=
  let mask : BitVec 40 := .ofNat 40 (bytesAt b 40 5)
  let placement := s.placement mask
  let key := Config.sha3 (object ++ placement ++ leBytes 32 s.hub.graftver.toNat)
  let (hub, found) := s.hub.lookup key
  let s : State := { s with hub := hub }
  match found with
  | .hit e => s.install blk b object key e.what
  | .stale => s.endLoadRequest blk 0x1e 0xffff
  | .miss => match translateObject object placement (grafts s.hub.graft) s.hub.graftver mask with
    | .error (c, k) => s.endLoadRequest blk c k
    | .ok x => (s.mapHub (fun h => h.store key (.ofNat 8 (bytesAt object 6 1)) x)).install blk b object key x

/-- CODE_LOAD (R414, R415). An object that reaches beyond HBM cannot be read and ends the load with 0x1E, the cause of that step
(log entry 17). -/
def execCodeLoad (p : Nat) (v : BitVec 64) (s : State) : Result :=
  s.runRequest p 4 128 v (fun s blk b =>
    if !s.loadBlockOk b then .next (s.endLoadRequest blk 0x14 0xffff) else
    let a := bytesAt b 8 8
    let n := bytesAt b 16 8
    if !inHbm a n then .next (s.endLoadRequest blk 0x1e 0xffff)
    else if s.mem.poisoned a n then .next (s.endLoadRequest blk 0x13 0xffff)
    else
      let object := s.mem.bytes.readList a n
      let body := n - sigBytes
      let key := s.hub.keys.get [] (bytesAt object 7 1 % 16)
      if !objectOk object n then .next (s.endLoadRequest blk 0x1e 0xffff)
      else match badSection object n with
      | some i => .next (s.endLoadRequest blk 0x1e i)
      | none =>
      if decide (key = []) || !Config.mldsaVerify key (Config.sha3 (object.take body)) (object.drop body)
          || decide (bytesAt object 6 1 < s.hub.fusever.toNat) then .next (s.endLoadRequest blk 0x1e 0xffff)
      else .next (s.loadObject blk b object)) (fun s blk c => s.endLoadRequest blk c 0xffff)

end Sys2Proof.Machine
end

