-- ==== Sys2Proof/Machine/Cycle.lean ====
section
/-!
DEFINITION. The end of a cycle and the start of the next (R306): the grove buckets, the still counters (R376), the multicast
leads (R215), and the time a gang takes from a pre-emption (R336).
-/
namespace Sys2Proof.Machine

/-- A request of a tile is outstanding: its reply has not arrived, or a `cnt.wait` waits (R376). A read that waits on an
absent channel word is none; a store or an atomic to one is (R325). -/
def State.outstanding (s : State) (t : Nat) : Bool :=
  let x := s.tile t
  let g := groveOf t
  let waits (r : Req) : Bool := match r.kind with
    | .load _ => !(((s.grove g).channelOf r.ea).isSome && !s.presentFor t r.inTask (gspAddr g r.ea))
    | _ => true
  x.seq.allReqs.any (fun r => r.val.isNone && waits r) || x.str.cmds.any (fun (c : Nat × Cmd) => c.2.awaitsReply || !c.2.unacked.isEmpty || (s.storeWaits t c.2).isSome)
    || x.mx.tokens.any (fun k => !k.cmd.unacked.isEmpty) || x.waiting.isSome

/-- The still counter of a region at the end of a cycle (R376). -/
def State.stillNext (s : State) (ts : List Nat) (n : Nat) : Nat :=
  if !s.watched ts then 0
  else if ts.any (fun t => (s.tile t).moved) then 0
  else if ts.any s.outstanding then n
  else n + 1

/-- The still counters of a package's regions. -/
def State.countStill (s : State) : State :=
  let rs := (s.tiles.map (fun (e : Nat × Tile) => (dieOf (groveOf e.1), s.regionOf e.1))).eraseDups
  rs.foldl (fun r (p : Nat × Nat) => r.mapDie p.1 (fun x =>
    { x with still := x.still.set 0 p.2 (s.stillNext (s.regionTiles p.1 p.2) (x.still.get 0 p.2)) })) s

/-- The cycles since which members hold their multicast at the limit (R215). -/
def Cmd.countLag (c : Cmd) (lag cycle : Nat) : Cmd :=
  if c.kind ≠ .mcPort && c.kind ≠ .mcGeo && c.kind ≠ .drain && c.kind ≠ .scatter then c else
  { c with lagSince := c.live.foldl (fun m i =>
      if decide (lag ≤ c.far - c.accepted.get 0 i) then (match c.lagSince.get? i with
        | some k => KMap.put m i k
        | none => KMap.put m i cycle) else m) [] }

/-- A tile at the end of a cycle: a pre-emption whose limit has passed in the next one is forced, and `preq` bit 1 says so
(R268). -/
def Tile.endCycle (x : Tile) (cycle : Nat) : Tile :=
  let x := { x with
    cntAdds := []
    str := { x.str with cmds := x.str.cmds.map (fun (e : Nat × Cmd) => (e.1, e.2.countLag x.seq.ctl.mclag.toNat cycle)) }
    preempt := match x.preempt with
      | some (.requested k) => some (.requested (if x.inGang then k + 1 else k))
      | p => p
    moved := false }
  match x.preempt with
  | some (.requested k) =>
    if k + x.seq.ctl.pmax.toNat ≤ cycle + 1 then
      { x with seq := { x.seq with ctl := { x.seq.ctl with preq := x.seq.ctl.preq ||| 2 } } }
    else x
  | _ => x

/-- The tile whose event entered the queue last, from the sources of one cycle's events in their order (R298). -/
def Grove.lastTile (g : Grove) : Nat := ((g.evCycle.filter (fun k => decide (k < 16))).getLast?).getD g.evLast

/-- A grove at the start of the next cycle: the level after a refill (R306), and the round robin of its events (R298). -/
def Grove.refill (g : Grove) : Grove :=
  { g with
    evLast := g.lastTile
    evCycle := []
    bklevel := min (g.bkdepth.toNat * 256) (g.bklevel + (g.bkrate.extractLsb' 0 16).toNat) }

/-- BUCKET_REFILL: a cycle ends, what the pipeline stages hold moves on (R10, R15), and the next one starts with the refill
of every grove's bucket (R306, R376). A result that fails its parity check as it leaves is a soft error (R37). -/
def execBucketRefill (s : State) : Result :=
  let s := s.tiles.foldl (fun (r : State) e => if (r.tile e.1).flowBad then r.softError e.1 else r) s
  let s := { s with tiles := s.tiles.map (fun (e : Nat × Tile) => (e.1, e.2.flow)) }
  let s := (s.tiles.filter (fun e => e.2.parityDue)).foldl (fun s e => s.chargeParity e.1) s
  let s := s.countStill
  .next { s with
    tiles := s.tiles.map (fun (e : Nat × Tile) => (e.1, e.2.endCycle s.cycle))
    groves := s.groves.map (fun (e : Nat × Grove) => (e.1, e.2.refill))
    cycle := s.cycle + 1 }

end Sys2Proof.Machine
end

