-- ==== Sys2Proof/Machine/Fabric.lean ====
section
/-!
DEFINITION. The fabric: edge tables (R430), routing entries (R436 to R440), collective contexts (R379 to R381, R438), write
responses and peer reads (R432 to R434), and the ports' links (R427, R429, R444).
-/
namespace Sys2Proof.Machine

/-! ### Routing entries (R436) -/

def rValid (e : BitVec 256) : Bool := e.getLsbD 255
def rSets (e : BitVec 256) : Nat := (e.extractLsb' 253 2).toNat + 1
def rCur (e : BitVec 256) : Nat := (e.extractLsb' 251 2).toNat
def rAsid (e : BitVec 256) : BitVec 9 := e.extractLsb' 240 9
def rSet (e : BitVec 256) (k : Nat) : BitVec 60 := e.extractLsb' (60 * k) 60

/-- The entry with another current set. -/
def rWithCur (e : BitVec 256) (k : Nat) : BitVec 256 :=
  (e &&& ~~~(BitVec.ofNat 256 (3 * 2 ^ 251))) ||| BitVec.ofNat 256 (k % 4 * 2 ^ 251)

def setAct (r : BitVec 60) : Nat := (r.extractLsb' 57 3).toNat
def setIn (r : BitVec 60) : BitVec 13 := r.extractLsb' 44 13
def setOut (r : BitVec 60) : BitVec 13 := r.extractLsb' 31 13
def setCc (r : BitVec 60) : Nat := (r.extractLsb' 25 6).toNat
def setCnt (r : BitVec 60) : Nat := (r.extractLsb' 23 2).toNat
def setAc (r : BitVec 60) : Nat := (r.extractLsb' 7 6).toNat
def rGrove (r : BitVec 60) : Nat := 10 * (r.extractLsb' 21 2).toNat + (r.extractLsb' 17 4).toNat
/-- The grove of a counter's tile is one of its die. -/
def rGroveOk (r : BitVec 60) : Bool := decide ((r.extractLsb' 17 4).toNat < 10)
def rTile (r : BitVec 60) : Nat := (r.extractLsb' 13 4).toNat

/-- The sources or destinations of a set. -/
def bits13 (m : BitVec 13) : List Nat := (List.range 13).filter (fun j => m.getLsbD j)

def State.route (s : State) (i vsn : Nat) : BitVec 256 := (s.port i).routes.get 0 vsn

/-- An entry that is valid and whose ASID has a valid partition (R444). -/
def State.routeLive (s : State) (e : BitVec 256) : Bool :=
  rValid e && s.hub.parts.any (fun p => partValid p.2 && decide (partAsid p.2 = rAsid e))

/-- The current set of an entry. -/
def curSet (e : BitVec 256) : BitVec 60 := rSet e (rCur e)

/-- Words pass to a destination: a link must be up (R444). -/
def State.routeOpen (s : State) (i : Nat) (r : BitVec 60) : Bool := !((setOut r).getLsbD i && (s.port i).down)

/-- The fields of a context entry (R379). -/
def ccValid (c : Word) : Bool := c.getLsbD 63
def ccOp (c : Word) : Nat := (c.extractLsb' 61 2).toNat
def ccFmt (c : Word) : Nat := (c.extractLsb' 57 4).toNat
def ccCount (c : Word) : Nat := (c.extractLsb' 49 8).toNat

/-! ### Write responses (R432, R434) -/

/-- The stream header of a request (R428): the address, the virtual stream number, the kind and the sending package. -/
def FabricWord.header (w : FabricWord) (vsn : Nat) : BitVec 128 :=
  BitVec.ofNat 128 (w.addr.toNat * 2 ^ 56 + vsn % 4096 * 2 ^ 44 + w.kind.toNat * 2 ^ 42 + w.src.toNat * 2 ^ 32)

/-- The virtual stream number of a stream header (R428). -/
def headerVsn (h : BitVec 128) : Nat := (h.extractLsb' 44 12).toNat

/-- The word of a request from another package (R428). -/
def FabricWord.ofHeader (h : BitVec 128) (data : Vec) (poison : Bool) (port : Nat) : FabricWord :=
  { kind := h.extractLsb' 42 2, addr := h.extractLsb' 56 72, data := data, poison := poison, src := h.extractLsb' 32 10, back := some port }

/-- A response leaves on the link that its request came by (R432, R433). -/
def State.answerFar (s : State) (w : FabricWord) (vsn : Nat) (cause : BitVec 8) (data : Vec) : State :=
  match w.back with
  | none => s
  | some p => s.setPort p { s.port p with answers := (s.port p).answers ++ [⟨w.header vsn, cause, data⟩] }

/-- A word is answered to each of its senders, and to the package that it came from. -/
def State.respond (s : State) (w : FabricWord) (cause : BitVec 8) (vsn : Nat) : State :=
  (w.senders.foldl (fun s e => s.mapTile e.1 (fun x => { x with str := { x.str with responses := x.str.responses ++
    [⟨e.2.1, e.2.2, cause, if cause = 0x10 then some { w with senders := [e] } else none⟩] } })) s).answerFar w vsn cause 0

/-- The command or `macc` token of a key changes. -/
def State.mapSender (s : State) (t key : Nat) (f : Cmd → Cmd) : State :=
  s.mapTile t (fun x => { x with
    str := { x.str with cmds := x.str.cmds.map (fun e => (e.1, if e.2.num + 1 = key then f e.2 else e.2)) }
    mx := { x.mx with tokens := x.mx.tokens.map (fun k => if k.cmd.num + 1 = key then { k with cmd := f k.cmd } else k) } })

/-- A word that goes to n more destinations is answered n times more. -/
def State.expect (s : State) (w : FabricWord) (n : Nat) : State :=
  w.senders.foldl (fun s e =>
    if e.2.1 = 0 then match (s.die (dieOf (groveOf e.1))).writeback.find? (fun o => o.tile = e.1) with
      | some o => s.setOutgoing e.1 { o with awaited := o.awaited + n }
      | none => s
    else s.mapSender e.1 e.2.1 (fun c => { c with unacked := c.unacked ++ List.replicate n (e.2.2, s.cycle) })) s

/-- The cause in the next answer of another package: one that R155 lists, or 0 where the request performed there (log entry
21). -/
def State.farAnswer (s : State) : BitVec 8 :=
  let c := Config.farCause s.fresh
  if c = 0x0f ∨ 0x20 ≤ c then 0 else c

/-- A word leaves on the port's link: the answers of its other end come with a free cause (log entry 21). -/
def State.transmit (s : State) (i vsn : Nat) (w : FabricWord) : State :=
  let x := s.port i
  let s := s.setPort i { x with sent := x.sent ++ [(vsn, w)] }
  if w.senders.isEmpty && w.back.isNone then s else (s.respond w s.farAnswer vsn).draw

/-! ### Delivery (R434, R439) -/

/-- A translation by the tables of this package, through the slices of a die. -/
def State.translateAt (s : State) (d : Nat) (asid : BitVec 9) (va : Addr) (read write : Bool) : State × Trans :=
  let t := tileAt (10 * d) 0
  let x := s.tile t
  let (s', r) := (s.setTile t { x with tlb := [] }).translate t asid va read write
  (s'.mapTile t (fun y => { y with tlb := x.tlb }), r)

/-- The pieces of a word of 64 bytes by page: physical address and length. -/
def State.wordPages (s : State) (d : Nat) (asid : BitVec 9) (a : Addr) (read write : Bool) :
    State × Except (BitVec 8) (List (Nat × Nat)) :=
  let n := min 64 (65536 - a.toNat % 65536)
  match s.translateAt d asid a read write with
  | (s, .fault c) => (s, .error c)
  | (s, .ok pa) =>
    if n = 64 then (s, .ok [(pa, 64)]) else
    match s.translateAt d asid (a + BitVec.ofNat 72 n) read write with
    | (s, .fault c) => (s, .error c)
    | (s, .ok pb) => (s, .ok [(pa, n), (pb, 64 - n)])

/-- A word is written, with its poison (R429). -/
def State.writeWordPages (s : State) (ps : List (Nat × Nat)) (bs : List Byte) (poison : Bool) : State :=
  (ps.foldl (fun (r : State × List Byte) p =>
    let s := r.1.write p.1 (r.2.take p.2)
    (if poison then { s with mem := (List.range p.2).foldl (fun m k => m.setPoison (p.1 + k)) s.mem } else s, r.2.drop p.2)) (s, bs)).1

/-- The counter that a set names advances by one (R439, R442). -/
def State.countSet (s : State) (r : BitVec 60) : State := s.deliverCount (s.physOf (rGrove r) (rTile r)) (setAc r) 1

/-- A data word at local delivery: written at its address, or the fault that meets it; the output of a context gives 0x11 to every
contributor on a fault of translation or protection (R434). -/
def State.writeWord (s : State) (i : Nat) (asid : BitVec 9) (w : FabricWord) : State × BitVec 8 :=
  match s.wordPages (i / 3) asid w.addr false true with
  | (s, .ok ps) => (s.writeWordPages ps (leBytes 64 w.data.toNat) w.poison, 0)
  | (s, .error c) => (s, if w.reduced && (c = 0x10 || c = 0x11) then 0x11 else c)

/-- A packet's header arrives from a source. -/
def Arriving.header (a : Arriving) (len : Nat) : Arriving := ⟨a.num + 1, a.left.put (a.num + 1) len⟩

/-- A word of a packet performs: the packet ends with its last. -/
def Arriving.word (a : Arriving) (k : Nat) : Arriving × Bool :=
  match a.left.get? k with
  | none => (a, false)
  | some n => if n ≤ 1 then ({ a with left := a.left.erase k }, true) else ({ a with left := a.left.put k (n - 1) }, false)

/-- The steps that an entry has made. -/
def Port.epoch (x : Port) (vsn : Nat) : Nat := x.steps.get 0 vsn

/-- Delivered markers advance their counters once every delivery that their entry took before them has performed (R439). -/
def State.countMarkers (s : State) (i : Nat) : State :=
  let x := s.port i
  let open_ (c : Nat × Nat × BitVec 60) : Bool :=
    !(x.landing ++ x.refused).any (fun l => decide (l.vsn = c.1) && decide (l.epoch ≤ c.2.1))
  (x.counts.filter open_).foldl (fun s c => s.countSet c.2.2) (s.setPort i { x with counts := x.counts.filter (fun c => !open_ c) })

/-- A word that was refused before at the same place, and is sent again: by this package as the word of its packet, by another one at
the same address. -/
def Landing.again (w : FabricWord) (l m : Landing) : Bool :=
  decide (m.vsn = l.vsn) && decide (m.src = l.src) && decide (m.word.addr = w.addr)
    && (decide (w.packet = some m.packet) || w.back.isSome)

/-- A word at local delivery performs at its home node, or is refused (R434, R439): it is answered, under `cnt` 1 its packet counts with
its last word, and markers that waited for it count. A refused word keeps its packet until it is sent again. -/
def State.landWord (s : State) (i : Nat) (l : Landing) : State :=
  let w := l.word
  let k := 16 * l.vsn + l.src
  match s.writeWord i (rAsid (s.route i l.vsn)) w with
  | (s, 0) =>
    let x := s.port i
    let (a, last) := (x.arriving.get {} k).word l.packet
    let s := (s.setPort i { x with arriving := x.arriving.set {} k a }).respond { w with packet := none } 0 l.vsn
    (if last && setCnt l.set = 1 then s.countSet l.set else s).countMarkers i
  | (s, c) => (s.setPort i { s.port i with refused := (s.port i).refused ++ [l] }).respond { w with packet := some l.packet } c l.vsn

/-- The n-th word at local delivery performs; none before it goes to a byte of it (R315, R439). -/
def State.landNth (s : State) (i n : Nat) : State :=
  let x := s.port i
  match x.landing[n]? with
  | none => s
  | some l =>
    let runs (m : Landing) : List (Nat × Nat) := match (s.wordPages (i / 3) (rAsid (s.route i m.vsn)) m.word.addr false true).2 with
      | .ok ps => ps
      | .error _ => []
    if (x.landing.take n).any (fun m => runsMeet (runs m) (runs l)) then s
    else (s.setPort i { x with landing := x.landing.eraseIdx n }).landWord i l

/-- A word from source `src` at local delivery (R439): headers are consumed, and a data word is on its way to its home node: it
performs at once, or in a turn of its own (R449). -/
def State.deliverFrom (s : State) (i vsn src : Nat) (e : BitVec 256) (w : FabricWord) (hold : Bool) : State :=
  let k := 16 * vsn + src
  let x := s.port i
  let a := x.arriving.get {} k
  if w.kind = 1 then (s.setPort i { x with arriving := x.arriving.set {} k (a.header (hLen w.data)) }).respond w 0 vsn
  else
    let l : Landing := ⟨vsn, src, w.packet.getD a.num, x.epoch vsn, curSet e, w⟩
    let (l, refused) := match x.refused.findIdx? (Landing.again w l) with
      | some j => ({ (x.refused[j]?).getD l with word := w }, x.refused.eraseIdx j)
      | none => (l, x.refused)
    let s := s.setPort i { x with landing := x.landing ++ [l], refused := refused }
    if hold then s else s.landNth i x.landing.length

/-- A word passes to one destination of an entry: this port's link, another port's entry, or local delivery. -/
def State.passTo (s : State) (i vsn src : Nat) (e : BitVec 256) (w : FabricWord) (hold : Bool) (j : Nat) : State :=
  if j = 12 then s.deliverFrom i vsn src e w hold
  else if j = i then s.transmit i vsn w
  else s.hold j vsn i w

/-- A word passes to every destination in `out`, in order. -/
def State.passAll (s : State) (i vsn src : Nat) (e : BitVec 256) (w : FabricWord) (hold : Bool) : State :=
  let outs := bits13 (setOut (curSet e))
  outs.foldl (fun s j => s.passTo i vsn src e w hold j) (s.expect w (outs.length - 1))

/-! ### The words an entry takes -/

/-- The head of a source's words at an entry leaves. -/
def State.takeHeld (s : State) (i n : Nat) : State :=
  let x := s.port i
  s.setPort i { x with held := x.held.set [] n ((x.held.get [] n).drop 1) }

/-- The word that an entry takes next from a source, by 16 times the virtual stream number plus the source: the entry is
live, the source is in `in` and its marker has not been taken in this set (R439). -/
def State.nextWord (s : State) (i n : Nat) : Option (BitVec 256 × FabricWord) :=
  let e := s.route i (n / 16)
  let r := curSet e
  match (s.port i).held.get [] n with
  | [] => none
  | w :: _ =>
    if s.routeLive e && (setIn r).getLsbD (n % 16) && !((s.port i).marked.get 0 (n / 16)).getLsbD (n % 16)
        && (w.kind = 2 || s.routeOpen i r) then some (e, w) else none

/-- A source's marker is taken and answered (R432, R439). -/
def State.takeMarker (s : State) (i n : Nat) (w : FabricWord) : State :=
  let x := s.port i
  (s.setPort i { x with marked := x.marked.set 0 (n / 16) (x.marked.get 0 (n / 16) ||| BitVec.twoPow 13 (n % 16)) }).respond w 0 (n / 16)

/-- Words feed a context that reduces. -/
def State.reduces (s : State) (i : Nat) (r : BitVec 60) : Bool :=
  setAct r = 2 && decide (ccOp ((s.port i).contexts.get 0 (setCc r)) ≠ 3)

/-- ROUTE_FORWARD: the entry passes the next word of a source to every destination of its current set; a word for an entry
that is not valid, or whose ASID has no valid partition, is discarded and answered with 0x14 (R379, R439, R444). -/
def execRouteForward (i n : Nat) (s : State) : Result :=
  let e := s.route i (n / 16)
  .next (if !s.routeLive e then
      match (s.port i).held.get [] n with
      | [] => s
      | w :: _ => (s.takeHeld i n).respond w 0x14 (n / 16)
    else match s.nextWord i n with
      | none => s
      | some (e, w) =>
        let r := curSet e
        if setAct r = 1 || s.reduces i r then s
        else if w.kind = 2 then (s.takeHeld i n).takeMarker i n w
        else (s.takeHeld i n).passAll i (n / 16) (n % 16) e w false)

/-- ROUTE_DELIVER: the entry consumes a header, or delivers a data word at its address in the entry's ASID (R434, R439). Under `act` 3
the word passes to the other destinations as well. Of the number, the part below 65,536 is the virtual stream number and the source;
above it, 0 stands for the next word, performed at once, 1 for the next word alone, and k + 2 for the k-th word that is on its way to
its home node (R449; log entry 2). -/
def execRouteDeliver (i m : Nat) (s : State) : Result :=
  let n := m % 65536
  .next (if 2 ≤ m / 65536 then s.landNth i (m / 65536 - 2) else match s.nextWord i n with
    | none => s
    | some (e, w) =>
      let act := setAct (curSet e)
      let hold := decide (m / 65536 = 1)
      if act ≠ 1 ∧ act ≠ 3 then s
      else if w.kind = 2 then (s.takeHeld i n).takeMarker i n w
      else if act = 3 then (s.takeHeld i n).passAll i (n / 16) (n % 16) e w hold
      else (s.takeHeld i n).deliverFrom i (n / 16) (n % 16) e w hold)

/-! ### Reduction (R380, R381) -/

/-- A context stops with 0x15, and every stream that feeds it (R380). -/
def State.stopContext (s : State) (i vsn c : Nat) (w : FabricWord) : State :=
  let x := s.port i
  let from_ := ((x.packets.get [] c).flatMap (fun p => p.2.words.flatMap (fun q => q.2.senders))) ++ w.senders
  (s.setPort i { x with stopped := insertNat c x.stopped, packets := x.packets.erase c }).respond { w with senders := from_ } 0x15 vsn

/-- The lanes of a contribution, each taken exactly as x 2^scale (R49). -/
def contribution (h w : Vec) : List XVal :=
  let f := (hFmt h).toNat
  (List.range (laneCount f)).map (fun k => (decodeType f (lanePat f w k)).scale (hScale h).toInt)

/-- A value rounded to `f32` (R52). -/
def XVal.round32 (x : XVal) : XVal := decodeType 1 (rne32 x)

/-- One lane of a partial advances (R52, R90, R380). -/
def combineLane (op : Nat) (p x : XVal) : XVal :=
  match op with
  | 0 => (xsum .rne [p, x]).round32
  | 1 => p.fmax x
  | _ => p.fmin x

/-- The word sent after the n-th contribution; a lane that some contribution does not have is a free value (log entry
22). -/
def reducedWord (ofmt : Nat) (ls : List XVal) (fresh : Nat) : Vec :=
  packLanes ofmt (fun k => match ls[k]? with
    | some p => quant ofmt .rne p
    | none => (Config.freeWord (fresh + k)).toNat)

/-- The partials that the contexts of a port hold (R381). -/
def Port.partials (x : Port) : Nat := ((x.packets.flatMap (fun c => c.2.map (fun p => p.2.words.length)))).foldl (· + ·) 0

/-- The packet of a context that goes out now: the first to have been opened (R440). -/
def firstPacket (ps : KMap OpenPacket) : Option (Nat × OpenPacket) :=
  ps.foldl (fun b e => match b with
    | none => some e
    | some f => if e.2.num < f.2.num then some e else b) none

/-- What a context sends of its first packet: the output's header, then each word that has its n contributions, in the order of
positions; the packet ends with its last word, and the next one follows (R380, R439, R440). -/
def State.sendPackets (s : State) (i vsn : Nat) (e : BitVec 256) (c : Nat) (hold : Bool) : Nat → State
  | 0 => s
  | fuel + 1 =>
    let x := s.port i
    let ps : KMap OpenPacket := x.packets.get [] c
    let entry := x.contexts.get 0 c
    match firstPacket ps with
    | none => s
    | some (tag, p) =>
      let keep (s : State) (p : OpenPacket) : State :=
        let y := s.port i
        s.setPort i { y with packets := y.packets.set [] c (if hLen p.header ≤ p.sent then ps.erase tag else ps.put tag p) }
      if !p.begun then
        ((keep s { p with begun := true }).passAll i vsn 13 e p.out hold).sendPackets i vsn e c hold fuel
      else match p.words.get? p.sent with
      | none => s
      | some q =>
        if q.count < ccCount entry then s
        else
          let out := reducedWord (ccFmt entry) q.lanes s.fresh
          let s := keep { s with fresh := s.fresh + laneCount (ccFmt entry) } { p with words := p.words.erase p.sent, sent := p.sent + 1 }
          (s.passAll i vsn 13 e
            { kind := 0, addr := q.addr, data := out, poison := q.poison, senders := q.senders, reduced := true, src := Config.package } hold).sendPackets i vsn e c hold fuel

/-- What a context may have to send at once: for each open packet a header and its words. -/
def Port.pending (x : Port) (c : Nat) : Nat := ((x.packets.get [] c).map (fun (p : Nat × OpenPacket) => 2 + p.2.words.length)).foldl (· + ·) 0

/-- A header of a contribution (R380): the first of its tag opens the packet. -/
def State.reduceHeader (s : State) (i n : Nat) (e : BitVec 256) (w : FabricWord) (hold : Bool) : State :=
  let c := setCc (curSet e)
  let x := s.port i
  let ps : KMap OpenPacket := x.packets.get [] c
  let tag := (hTag w.data).toNat
  let agrees := match ps.get? tag with
    | none => true
    | some p => hLen p.header = hLen w.data && hAxpos p.header = hAxpos w.data && hAxis p.header = hAxis w.data
  if !(isFloat (hFmt w.data).toNat && agrees) then s.stopContext i (n / 16) c w
  else
    let x := { x with current := x.current.put n (w.data, 0) }
    let s := match ps.get? tag with
      | some _ => s.setPort i x
      | none =>
        let out := headerWord (ccFmt (x.contexts.get 0 c)) 0 (hLen w.data) tag (hAxpos w.data) (hAxis w.data)
        let num := (ps.map (fun (p : Nat × OpenPacket) => p.2.num + 1)).foldl max 0
        let y := { x with packets := x.packets.put c (ps.put tag
          { num := num, header := w.data, out := { kind := 1, addr := w.addr, data := out, reduced := true, src := Config.package } }) }
        (s.setPort i y).sendPackets i (n / 16) e c hold (y.pending c)
    s.respond w 0 (n / 16)

/-- A data word of a contribution: combined into the partial of its tag and position; contributions of unlike `addr`, or
outside an open packet, stop the context (R380, R381, R439). -/
def State.reduceData (s : State) (i n : Nat) (e : BitVec 256) (w : FabricWord) (hold : Bool) : Option State :=
  let c := setCc (curSet e)
  let x := s.port i
  let entry := x.contexts.get 0 c
  let (h, pos) := x.current.get (0, 256) n
  let tag := (hTag h).toNat
  let ps : KMap OpenPacket := x.packets.get [] c
  match ps.get? tag with
  | none => some ((s.takeHeld i n).stopContext i (n / 16) c w)
  | some p =>
    let ls := contribution h w.data
    let prior := p.words.get? pos
    let q : Partial := match prior with
      | none => ⟨w.addr, ls.map XVal.round32, 1, w.poison, w.senders⟩
      | some q => { q with lanes := List.zipWith (combineLane (ccOp entry)) q.lanes ls, count := q.count + 1,
                           poison := q.poison || w.poison, senders := q.senders ++ w.senders }
    if hLen p.header ≤ pos || decide (q.addr ≠ w.addr) then some ((s.takeHeld i n).stopContext i (n / 16) c w)
    else if prior.isNone && decide (4096 ≤ x.partials) then none
    else
      let s := s.takeHeld i n
      let y := { s.port i with
        current := (s.port i).current.put n (h, pos + 1)
        packets := (s.port i).packets.put c (ps.put tag { p with words := p.words.put pos q }) }
      some ((s.setPort i y).sendPackets i (n / 16) e c hold (y.pending c))

/-- ROUTE_REDUCE: the entry feeds the next word of a source to its context as a contribution (R380, R439). A word for a
stopped context is answered with 0x15, and one that needs a partial waits while the unit holds 4,096 (R381). 65,536 added to the
number leaves what is delivered here on its way, as for ROUTE_DELIVER. -/
def execRouteReduce (i m : Nat) (s : State) : Result :=
  let n := m % 65536
  let hold := decide (1 ≤ m / 65536)
  .next (match s.nextWord i n with
    | none => s
    | some (e, w) =>
      let r := curSet e
      let x := s.port i
      if !s.reduces i r then s
      else if w.kind = 2 then (s.takeHeld i n).takeMarker i n w
      else if x.stopped.contains (setCc r) then (s.takeHeld i n).respond w 0x15 (n / 16)
      else if !ccValid (x.contexts.get 0 (setCc r)) then (s.takeHeld i n).respond w 0x14 (n / 16)
      else if w.kind = 1 then (s.takeHeld i n).reduceHeader i n e w hold
      else (s.reduceData i n e w hold).getD s)

/-! ### Steps of an entry (R439) -/

/-- ROUTE_STEP: every source in `in` has given its marker and every word before them has been passed on. One marker goes to
each destination, counted at local delivery under `cnt` 2 once every earlier delivery of the entry has performed, and the next set
becomes current. -/
def execRouteStep (i n : Nat) (s : State) : Result :=
  let vsn := n / 16
  let e := s.route i vsn
  let r := curSet e
  let x := s.port i
  let passed : Bool := !s.reduces i r || x.stopped.contains (setCc r) || (x.packets.get [] (setCc r)).isEmpty
  .next (if s.routeLive e && decide (setIn r ≠ 0) && decide (x.marked.get 0 vsn &&& setIn r = setIn r) && passed && s.routeOpen i r then
      let s := s.setPort i { x with
        marked := x.marked.erase vsn
        steps := x.steps.put vsn (x.epoch vsn + 1)
        counts := if (setOut r).getLsbD 12 && setCnt r = 2 then x.counts ++ [(vsn, x.epoch vsn, r)] else x.counts
        routes := x.routes.put vsn (rWithCur e ((rCur e + 1) % rSets e)) }
      ((bits13 (setOut r)).filter (· ≠ 12)).foldl (fun s j =>
        s.passTo i vsn 13 e { kind := 2, addr := 0, data := 0, src := Config.package } false j) (s.countMarkers i)
    else s)

/-! ### Peer reads (R433) and write responses at their sender (R434) -/

/-- A read request enters the routing entry of its virtual stream number at a port, from a source; requests go by the words that
markers hold back (R433). -/
def State.holdRead (s : State) (p vsn src : Nat) (w : FabricWord) : State :=
  let x := s.port p
  let k := 16 * vsn + src
  s.setPort p { x with reads := x.reads.set [] k (x.reads.get [] k ++ [w]) }

/-- A command asks for the word of the element it reads next: its request enters the edge's entry as local injection (R433). -/
def State.askPeer (s : State) (t h : Nat) (c : Cmd) : State :=
  let g := c.readGeo
  let z := gBytes g
  let j := c.readAt
  let edge := (s.die (dieOf (groveOf t))).edges.get 0 (gId g % 4096)
  match s.rowOf t c j with
  | (s, .ok row) =>
    let a := if c.single then gBase g + BitVec.ofNat 72 (row * z / 64 * 64) else if c.indexed && g = c.geo then c.addr j row else gAddr g j
    (s.setCmd t h { c with asked := some j, waitSince := s.cycle }).holdRead (edgePort edge) (edgeVsn edge) 12
      { kind := 3, addr := a, data := 0, senders := [(t, c.num + 1, j)], src := Config.package }
  | (s, e) => s.failCmd t h c (match e with
    | .stop cause p => (.stop cause (some (p.getD j)) : Acc Nat)
    | .unmapped va => .unmapped va
    | _ => .wait)

/-- The reply to a read request returns over the reverse of its path: to its command, or on the link that it came by (R433). -/
def State.replyRead (s : State) (w : FabricWord) (vsn : Nat) (cause : BitVec 8) (bs : List Byte) : State :=
  (w.senders.foldl (fun s e => s.mapTile e.1 (fun x => { x with str := { x.str with
    replies := x.str.replies ++ [⟨e.2.1, e.2.2, cause, w.addr, bs⟩] } })) s).answerFar w vsn cause (BitVec.ofNat 512 (leNat bs))

/-- An entry takes the next read request of a source (R433): under `act` 1 or 3 it reads the word in its ASID, under `act` 0 it passes the
request to its lowest destination, and under `act` 2, or where it is not valid, it answers 0x14. A request that leaves the package
has a free answer (log entry 21). -/
def State.serveRead (s : State) (i n : Nat) : State :=
  let x := s.port i
  let vsn := n / 16
  match x.reads.get [] n with
  | [] => s
  | w :: rest =>
    let e := s.route i vsn
    let r := curSet e
    let took (s : State) : State := s.setPort i { s.port i with reads := (s.port i).reads.set [] n rest }
    if !s.routeLive e then (took s).replyRead w vsn 0x14 []
    else match setAct r with
      | 1 | 3 => (match s.wordPages (i / 3) (rAsid e) w.addr true false with
        | (s, .error cause) => (took s).replyRead w vsn cause []
        | (s, .ok ps) =>
          if ps.any (fun p => s.mem.poisoned p.1 p.2) then (took s).replyRead w vsn 0x13 []
          else (took s).replyRead w vsn 0 (ps.flatMap (fun p => s.mem.bytes.readList p.1 p.2)))
      | 0 => (match (bits13 (setOut r)).head? with
        | none => (took s).replyRead w vsn 0x14 []
        | some j =>
          if j ≠ i then (took s).holdRead j vsn i w
          else if x.down then s
          else
            let cause := s.farAnswer
            let s := (took s).setPort i { (took s).port i with sent := x.sent ++ [(vsn, w)] }
            s.draw.replyRead w vsn cause (if cause = 0 then leBytes 64 (Config.farWord s.fresh).toNat else []))
      | _ => (took s).replyRead w vsn 0x14 []

/-- The word that a reply brings: the one asked for, or, of single elements, the element in it (R210, R433). -/
def State.readReply (s : State) (t h : Nat) (c : Cmd) (j : Nat) (bs : List Byte) : State :=
  let c := { c with asked := none }
  if c.single then
    let z := gBytes c.geo
    match s.rowOf t c j with
    | (s, .ok row) => s.setCmd t h { c with ahead := c.ahead.put j ((bs.drop (row * z % 64)).take z), waitSince := s.cycle }
    | (s, e) => (s.setCmd t h c).failCmd t h c e
  else s.setCmd t h { c with reply := bs }

/-- A reply reaches its command, which takes it, stops, or pauses where its page is not mapped at the far end (R223, R433, R434). One of
a command that has ended, or that asks for something else by now, is dropped. -/
def State.takeReply (s : State) (t h : Nat) (c : Cmd) (r : PeerReply) : State :=
  if c.asked ≠ some r.elem || c.done then s
  else if r.cause = 0 then s.readReply t h c r.elem r.data
  else if r.cause = 0x10 then s.pageFault t h { c with asked := none } r.addr
  else s.stopCmd t h { c with pos := r.elem, asked := none } r.cause

/-- PEER_READ_SERVE of tile t for command h below 64: it takes the reply that has come for it, or asks for its next word; replies to a
stopped region are held (R370). From 64 on, of port t: the entry and the source of the number less 64 handle their next read
request (R433; log entry 2). -/
def execPeerReadServe (t h : Nat) (s : State) : Result :=
  .next (if 64 ≤ h then s.serveRead t (h - 64) else match s.cmd? t h with
    | none => s
    | some c =>
      if (s.tile t).still then s else
      let rs := (s.tile t).str.replies
      match rs.findIdx? (fun r => r.key = c.num + 1) with
      | some k => (match rs[k]? with
        | some r => (s.mapTile t (fun x => { x with str := { x.str with replies := rs.eraseIdx k } })).takeReply t h c r
        | none => s)
      | none => if c.active && c.awaitsReply && c.asked ≠ some c.readAt then s.askPeer t h c else s)

/-- A word or a read request from another package comes in on the link of a port: its header names the entry (R428). -/
def State.arriveFar (s : State) (i : Nat) (h : BitVec 128) (data : Vec) (poison : Bool) : State :=
  let w := FabricWord.ofHeader h data poison i
  if 12 ≤ i || (s.port i).down then s
  else if w.kind = 3 then s.holdRead i (headerVsn h) i w else s.hold i (headerVsn h) i w

/-- A list without its first entry for an element. -/
def dropElem (j : Nat) : List (Nat × Nat) → List (Nat × Nat)
  | [] => []
  | u :: t => if u.1 = j then t else u :: dropElem j t

/-- A response reaches its command or `macc` token (R434), unless that has ended. A translation fault freezes the region,
and the command keeps the word for when it resumes. -/
def State.senderAnswer (s : State) (t : Nat) (r : Response) : State :=
  let take (c : Cmd) : Cmd := { c with
    unacked := dropElem r.elem c.unacked
    resend := c.resend ++ r.word.toList
    frozen := c.frozen || r.word.isSome }
  let accept (h : Nat) : State :=
    let s := s.mapSender t r.key take
    match r.word with
    | none => s
    | some w => s.freezeRegion t 0x10 (some (h, w.addr))
  match (s.tile t).str.cmds.find? (fun (e : Nat × Cmd) => e.2.num + 1 = r.key) with
  | some (h, c) =>
    if c.cause ≠ 0 then s
    else if r.cause = 0 ∨ r.word.isSome then accept h
    else s.stopCmd t h { c with pos := r.elem, unacked := [], resend := [] } r.cause
  | none => match (s.mx t).tokens with
    | [] => s
    | k :: _ =>
      if k.cmd.num + 1 ≠ r.key then s
      else if r.cause = 0 ∨ r.word.isSome then accept 0xff
      else s.closeToken t k r.cause r.elem

/-- A word of a committed log is acknowledged; an error response acknowledges nothing (R318, R375). -/
def State.acknowledge (s : State) (t : Nat) (r : Response) : State :=
  match (s.die (dieOf (groveOf t))).writeback.find? (fun o => o.tile = t) with
  | some o => if r.cause = 0 then s.setOutgoing t { o with awaited := o.awaited - 1 } else s
  | none => s

/-- WRITE_RESPONSE: the first response of a key reaches tile t, 0 for the write-back of its log and otherwise 1 above the
issue number of a command or `macc` (R318, R432, R434). Replies to a stopped region are held (R370). -/
def execWriteResponse (t h : Nat) (s : State) : Result :=
  let rs := (s.tile t).str.responses
  .next (match rs.findIdx? (fun r => r.key = h) with
    | none => s
    | some i => match rs[i]? with
      | none => s
      | some r =>
        if h ≠ 0 && (s.tile t).freeze.isSome && r.word.isNone then s else
        let s := s.mapTile t (fun x => { x with str := { x.str with responses := rs.eraseIdx i } })
        if h = 0 then s.acknowledge t r else s.senderAnswer t r)

/-! ### Tables and links -/

/-- EDGE_TABLE_WRITE: ports 12 to 15 are refused, and the reserved bits read zero (R430). -/
def execEdgeTableWrite (d i : Nat) (v : BitVec 64) (s : State) : Result :=
  let w := v &&& ~~~(BitVec.ofNat 64 (2 ^ 35 - 1))
  .next (if 4 ≤ d ∨ 4096 ≤ i ∨ 12 ≤ edgePort v then s else s.mapDie d (fun x => { x with edges := x.edges.set 0 i w }))

/-- A used set is refused (R437). -/
def State.setBad (s : State) (i : Nat) (asid : BitVec 9) (r : BitVec 60) : Bool :=
  let c := (s.port i).contexts.get 0 (setCc r)
  decide (3 < setAct r) || decide (setCnt r = 3) || decide (r.extractLsb' 0 7 ≠ 0)
    || decide (setIn r = 0) || decide (setOut r = 0)
    || ((setAct r = 1 || setAct r = 3) && !(setOut r).getLsbD 12) || (setAct r = 0 && (setOut r).getLsbD 12)
    || (setAct r = 2 && !(ccValid c && decide (ccCount c = (bits13 (setIn r)).length)))
    || (setCnt r ≠ 0 && (!rGroveOk r || match s.partOf (rGrove r) with
      | some (_, p) => decide (partAsid p ≠ asid)
      | none => true))

/-- A routing entry is refused (R436, R437): bits that R436 makes zero count as reserved. -/
def State.routeBad (s : State) (i : Nat) (v : BitVec 256) : Bool :=
  decide (v.extractLsb' 249 2 ≠ 0)
    || (List.range 4).any (fun k => if rSets v ≤ k then decide (rSet v k ≠ 0) else s.setBad i (rAsid v) (rSet v k))

/-- ROUTING_ENTRY_WRITE: an accepted write keeps `cur` and the markers counted (R437). -/
def execRoutingEntryWrite (i n : Nat) (v : BitVec 256) (s : State) : Result :=
  .next (if 12 ≤ i ∨ 4096 ≤ n ∨ s.routeBad i v then s else
    let x := s.port i
    s.setPort i { x with routes := x.routes.set 0 n (rWithCur v (rCur (s.route i n))) })

/-- A context entry is refused by R379. -/
def ccBad (v : Word) : Bool :=
  decide (ccCount v = 0) || decide (v.extractLsb' 0 49 ≠ 0)
    || (if ccOp v = 3 then decide (ccFmt v ≠ 0) else decide (ccFmt v ≠ 1 ∧ ccFmt v ≠ 2))

/-- A valid routing entry of a port names a context (R438). -/
def Port.named (x : Port) (c : Nat) : Bool :=
  x.routes.any (fun (e : Nat × BitVec 256) => rValid e.2 && (List.range (rSets e.2)).any (fun k =>
    let r := rSet e.2 k
    setAct r = 2 && setCc r = c))

/-- CONTEXT_TABLE_WRITE: a refused write changes nothing and reports decode fault to management firmware (R379, R438). An
accepted one starts a stopped context again (log entry 22). -/
def execContextTableWrite (i c : Nat) (v : BitVec 64) (s : State) : Result :=
  let x := s.port i
  let old := x.contexts.get 0 c
  let changes : Bool := !ccValid v || decide (ccOp v ≠ ccOp old ∨ ccFmt v ≠ ccFmt old ∨ ccCount v ≠ ccCount old)
  .next (if 12 ≤ i ∨ 64 ≤ c then s
    else if ccBad v ∨ (x.named c && changes) then s.report 0x14 i
    else s.setPort i { x with
      contexts := x.contexts.set 0 c v, stopped := x.stopped.filter (· != c)
      packets := if changes then x.packets.erase c else x.packets })

/-- UNSUPPORTED_REQUEST at a port: the request is answered so, and counted (R427). -/
def execUnsupportedRequest (i : Nat) (s : State) : Result :=
  .next (if 12 ≤ i then s else s.setPort i { s.port i with unsupported := (s.port i).unsupported + 1 })

/-- LANE_SPARE: the port's spare lane takes the place of lane l; the link's retry loses and reorders no word (R427, R429). -/
def execLaneSpare (i l : Nat) (s : State) : Result :=
  .next (if 12 ≤ i ∨ 4 ≤ l ∨ (s.port i).spare.isSome then s else s.setPort i { s.port i with spare := some l })

/-- FABRIC_LINK_DOWN: words due on the link wait (R444). -/
def execFabricLinkDown (i : Nat) (s : State) : Result :=
  .next (if 12 ≤ i then s else s.setPort i { s.port i with down := true })

end Sys2Proof.Machine
end

