-- ==== Sys2Proof/Machine/Dispatch.lean ====
section
/-!
DEFINITION. The meaning of every instruction: one arm for each constructor of `Instr`.
-/
namespace Sys2Proof.Machine

def exec (i : Instr) (s : State) : Host.Outcome State Fault Refusal :=
  match i with
  | .bundleDispatch => Sys2Proof.Machine.execBundleDispatch s
  | .scoreboardReply x1 => Sys2Proof.Machine.execScoreboardReply x1 s
  | .trapEntry => Sys2Proof.Machine.execTrapEntry s
  | .uiEntry => Sys2Proof.Machine.execUiEntry s
  | .preemptLanding => Sys2Proof.Machine.execPreemptLanding s
  | .forcedSave => Sys2Proof.Machine.execForcedSave s
  | .firebreakForward x1 x2 => Sys2Proof.Machine.execFirebreakForward x1 x2 s
  | .contextSave x1 => Sys2Proof.Machine.execContextSave x1 s
  | .parityErrorAbort x1 => Sys2Proof.Machine.execParityErrorAbort x1 s
  | .headerFiring x1 x2 => Sys2Proof.Machine.execHeaderFiring x1 x2 s
  | .opSteer x1 x2 => Sys2Proof.Machine.execOpSteer x1 x2 s
  | .opMerge x1 x2 => Sys2Proof.Machine.execOpMerge x1 x2 s
  | .opCarry x1 x2 => Sys2Proof.Machine.execOpCarry x1 x2 s
  | .opRepeat x1 x2 => Sys2Proof.Machine.execOpRepeat x1 x2 s
  | .opSink x1 x2 => Sys2Proof.Machine.execOpSink x1 x2 s
  | .opGate x1 x2 => Sys2Proof.Machine.execOpGate x1 x2 s
  | .elPass x1 x2 => Sys2Proof.Machine.execElPass x1 x2 s
  | .iadd x1 x2 => Sys2Proof.Machine.execIadd x1 x2 s
  | .isub x1 x2 => Sys2Proof.Machine.execIsub x1 x2 s
  | .iadds x1 x2 => Sys2Proof.Machine.execIadds x1 x2 s
  | .isubs x1 x2 => Sys2Proof.Machine.execIsubs x1 x2 s
  | .imul x1 x2 => Sys2Proof.Machine.execImul x1 x2 s
  | .imulh x1 x2 => Sys2Proof.Machine.execImulh x1 x2 s
  | .imac x1 x2 => Sys2Proof.Machine.execImac x1 x2 s
  | .idot4 x1 x2 => Sys2Proof.Machine.execIdot4 x1 x2 s
  | .imin x1 x2 => Sys2Proof.Machine.execImin x1 x2 s
  | .imax x1 x2 => Sys2Proof.Machine.execImax x1 x2 s
  | .iabs x1 x2 => Sys2Proof.Machine.execIabs x1 x2 s
  | .ineg x1 x2 => Sys2Proof.Machine.execIneg x1 x2 s
  | .iclip x1 x2 => Sys2Proof.Machine.execIclip x1 x2 s
  | .ishl x1 x2 => Sys2Proof.Machine.execIshl x1 x2 s
  | .ishr x1 x2 => Sys2Proof.Machine.execIshr x1 x2 s
  | .isra x1 x2 => Sys2Proof.Machine.execIsra x1 x2 s
  | .iand x1 x2 => Sys2Proof.Machine.execIand x1 x2 s
  | .ior x1 x2 => Sys2Proof.Machine.execIor x1 x2 s
  | .ixor x1 x2 => Sys2Proof.Machine.execIxor x1 x2 s
  | .inot x1 x2 => Sys2Proof.Machine.execInot x1 x2 s
  | .icmp x1 x2 => Sys2Proof.Machine.execIcmp x1 x2 s
  | .iscale x1 x2 => Sys2Proof.Machine.execIscale x1 x2 s
  | .fadd x1 x2 => Sys2Proof.Machine.execFadd x1 x2 s
  | .fsub x1 x2 => Sys2Proof.Machine.execFsub x1 x2 s
  | .fmul x1 x2 => Sys2Proof.Machine.execFmul x1 x2 s
  | .fma x1 x2 => Sys2Proof.Machine.execFma x1 x2 s
  | .fnma x1 x2 => Sys2Proof.Machine.execFnma x1 x2 s
  | .fmin x1 x2 => Sys2Proof.Machine.execFmin x1 x2 s
  | .fmax x1 x2 => Sys2Proof.Machine.execFmax x1 x2 s
  | .fabs x1 x2 => Sys2Proof.Machine.execFabs x1 x2 s
  | .fneg x1 x2 => Sys2Proof.Machine.execFneg x1 x2 s
  | .fcmp x1 x2 => Sys2Proof.Machine.execFcmp x1 x2 s
  | .frcp x1 x2 => Sys2Proof.Machine.execFrcp x1 x2 s
  | .frsq x1 x2 => Sys2Proof.Machine.execFrsq x1 x2 s
  | .fexp2 x1 x2 => Sys2Proof.Machine.execFexp2 x1 x2 s
  | .flog2 x1 x2 => Sys2Proof.Machine.execFlog2 x1 x2 s
  | .ftanh x1 x2 => Sys2Proof.Machine.execFtanh x1 x2 s
  | .fsig x1 x2 => Sys2Proof.Machine.execFsig x1 x2 s
  | .fsilu x1 x2 => Sys2Proof.Machine.execFsilu x1 x2 s
  | .faddC2 x1 x2 => Sys2Proof.Machine.execFaddC2 x1 x2 s
  | .fmaC2 x1 x2 => Sys2Proof.Machine.execFmaC2 x1 x2 s
  | .cvt x1 x2 => Sys2Proof.Machine.execCvt x1 x2 s
  | .cvtSc x1 x2 => Sys2Proof.Machine.execCvtSc x1 x2 s
  | .qrnd x1 x2 => Sys2Proof.Machine.execQrnd x1 x2 s
  | .elementSel x1 x2 => Sys2Proof.Machine.execElementSel x1 x2 s
  | .lperm x1 x2 => Sys2Proof.Machine.execLperm x1 x2 s
  | .lbcast x1 x2 => Sys2Proof.Machine.execLbcast x1 x2 s
  | .lred x1 x2 => Sys2Proof.Machine.execLred x1 x2 s
  | .lscan x1 x2 => Sys2Proof.Machine.execLscan x1 x2 s
  | .racc x1 x2 => Sys2Proof.Machine.execRacc x1 x2 s
  | .elCnt x1 x2 => Sys2Proof.Machine.execElCnt x1 x2 s
  | .cmask x1 x2 => Sys2Proof.Machine.execCmask x1 x2 s
  | .tagck x1 x2 => Sys2Proof.Machine.execTagck x1 x2 s
  | .tagset x1 x2 => Sys2Proof.Machine.execTagset x1 x2 s
  | .nop => Sys2Proof.Machine.execNop s
  | .nopY => Sys2Proof.Machine.execNopY s
  | .ext x1 => Sys2Proof.Machine.execExt x1 s
  | .add h x1 x2 x3 => Sys2Proof.Machine.execAdd h x1 x2 x3 s
  | .sub h x1 x2 x3 => Sys2Proof.Machine.execSub h x1 x2 x3 s
  | .addi h x1 x2 x3 => Sys2Proof.Machine.execAddi h x1 x2 x3 s
  | .mul h x1 x2 x3 => Sys2Proof.Machine.execMul h x1 x2 x3 s
  | .mulh h x1 x2 x3 => Sys2Proof.Machine.execMulh h x1 x2 x3 s
  | .mulhn h x1 x2 x3 => Sys2Proof.Machine.execMulhn h x1 x2 x3 s
  | .and h x1 x2 x3 => Sys2Proof.Machine.execAnd h x1 x2 x3 s
  | .or h x1 x2 x3 => Sys2Proof.Machine.execOr h x1 x2 x3 s
  | .xor h x1 x2 x3 => Sys2Proof.Machine.execXor h x1 x2 x3 s
  | .andn h x1 x2 x3 => Sys2Proof.Machine.execAndn h x1 x2 x3 s
  | .shl h x1 x2 x3 => Sys2Proof.Machine.execShl h x1 x2 x3 s
  | .shr h x1 x2 x3 => Sys2Proof.Machine.execShr h x1 x2 x3 s
  | .sra h x1 x2 x3 => Sys2Proof.Machine.execSra h x1 x2 x3 s
  | .shli h x1 x2 x3 => Sys2Proof.Machine.execShli h x1 x2 x3 s
  | .shri h x1 x2 x3 => Sys2Proof.Machine.execShri h x1 x2 x3 s
  | .srai h x1 x2 x3 => Sys2Proof.Machine.execSrai h x1 x2 x3 s
  | .min h x1 x2 x3 => Sys2Proof.Machine.execMin h x1 x2 x3 s
  | .max h x1 x2 x3 => Sys2Proof.Machine.execMax h x1 x2 x3 s
  | .minn h x1 x2 x3 => Sys2Proof.Machine.execMinn h x1 x2 x3 s
  | .maxn h x1 x2 x3 => Sys2Proof.Machine.execMaxn h x1 x2 x3 s
  | .clz h x1 x2 => Sys2Proof.Machine.execClz h x1 x2 s
  | .popc h x1 x2 => Sys2Proof.Machine.execPopc h x1 x2 s
  | .sext h x1 x2 x3 => Sys2Proof.Machine.execSext h x1 x2 x3 s
  | .zext h x1 x2 x3 => Sys2Proof.Machine.execZext h x1 x2 x3 s
  | .li h x1 x2 => Sys2Proof.Machine.execLi h x1 x2 s
  | .mov h x1 x2 => Sys2Proof.Machine.execMov h x1 x2 s
  | .cmp h x1 x2 x3 x4 => Sys2Proof.Machine.execCmp h x1 x2 x3 x4 s
  | .cmpi h x1 x2 x3 x4 => Sys2Proof.Machine.execCmpi h x1 x2 x3 x4 s
  | .sel h x1 x2 x3 x4 => Sys2Proof.Machine.execSel h x1 x2 x3 x4 s
  | .qop h x1 x2 x3 x4 => Sys2Proof.Machine.execQop h x1 x2 x3 x4 s
  | .ld h x1 x2 x3 x4 => Sys2Proof.Machine.execLd h x1 x2 x3 x4 s
  | .ldn h x1 x2 x3 x4 => Sys2Proof.Machine.execLdn h x1 x2 x3 x4 s
  | .st h x1 x2 x3 x4 => Sys2Proof.Machine.execSt h x1 x2 x3 x4 s
  | .ldg h x1 x2 x3 x4 => Sys2Proof.Machine.execLdg h x1 x2 x3 x4 s
  | .ldgn h x1 x2 x3 x4 => Sys2Proof.Machine.execLdgn h x1 x2 x3 x4 s
  | .stg h x1 x2 x3 x4 => Sys2Proof.Machine.execStg h x1 x2 x3 x4 s
  | .amoAdd h x1 x2 x3 x4 => Sys2Proof.Machine.execAmoAdd h x1 x2 x3 x4 s
  | .amoMin h x1 x2 x3 x4 => Sys2Proof.Machine.execAmoMin h x1 x2 x3 x4 s
  | .amoMax h x1 x2 x3 x4 => Sys2Proof.Machine.execAmoMax h x1 x2 x3 x4 s
  | .amoAnd h x1 x2 x3 x4 => Sys2Proof.Machine.execAmoAnd h x1 x2 x3 x4 s
  | .amoOr h x1 x2 x3 x4 => Sys2Proof.Machine.execAmoOr h x1 x2 x3 x4 s
  | .amoXor h x1 x2 x3 x4 => Sys2Proof.Machine.execAmoXor h x1 x2 x3 x4 s
  | .amoSwap h x1 x2 x3 x4 => Sys2Proof.Machine.execAmoSwap h x1 x2 x3 x4 s
  | .amoCas h x1 x2 x3 x4 => Sys2Proof.Machine.execAmoCas h x1 x2 x3 x4 s
  | .br h x1 => Sys2Proof.Machine.execBr h x1 s
  | .jmp h x1 => Sys2Proof.Machine.execJmp h x1 s
  | .call h x1 => Sys2Proof.Machine.execCall h x1 s
  | .callr h x1 => Sys2Proof.Machine.execCallr h x1 s
  | .ret h x1 => Sys2Proof.Machine.execRet h x1 s
  | .trap h x1 => Sys2Proof.Machine.execTrap h x1 s
  | .brk h x1 => Sys2Proof.Machine.execBrk h x1 s
  | .loop h x1 x2 => Sys2Proof.Machine.execLoop h x1 x2 s
  | .loopi h x1 x2 => Sys2Proof.Machine.execLoopi h x1 x2 s
  | .lexit h => Sys2Proof.Machine.execLexit h s
  | .lnext h => Sys2Proof.Machine.execLnext h s
  | .aadd h x1 x2 x3 => Sys2Proof.Machine.execAadd h x1 x2 x3 s
  | .aaddi h x1 x2 x3 => Sys2Proof.Machine.execAaddi h x1 x2 x3 s
  | .amov h x1 x2 => Sys2Proof.Machine.execAmov h x1 x2 s
  | .aset h x1 x2 => Sys2Proof.Machine.execAset h x1 x2 s
  | .aget h x1 x2 => Sys2Proof.Machine.execAget h x1 x2 s
  | .ahi h x1 x2 x3 => Sys2Proof.Machine.execAhi h x1 x2 x3 s
  | .geoLd h x1 x2 x3 => Sys2Proof.Machine.execGeoLd h x1 x2 x3 s
  | .geoSt h x1 x2 x3 => Sys2Proof.Machine.execGeoSt h x1 x2 x3 s
  | .geoBase h x1 x2 => Sys2Proof.Machine.execGeoBase h x1 x2 s
  | .geoAdv h x1 x2 x3 => Sys2Proof.Machine.execGeoAdv h x1 x2 x3 s
  | .slAffPort h x1 x2 x3 => Sys2Proof.Machine.execSlAffPort h x1 x2 x3 s
  | .slAffCopy h x1 x2 x3 => Sys2Proof.Machine.execSlAffCopy h x1 x2 x3 s
  | .ssAffPort h x1 x2 x3 => Sys2Proof.Machine.execSsAffPort h x1 x2 x3 s
  | .ssAffCopy h x1 x2 x3 => Sys2Proof.Machine.execSsAffCopy h x1 x2 x3 s
  | .slIndPort h x1 x2 x3 x4 => Sys2Proof.Machine.execSlIndPort h x1 x2 x3 x4 s
  | .slIndCopy h x1 x2 x3 x4 => Sys2Proof.Machine.execSlIndCopy h x1 x2 x3 x4 s
  | .ssIndPort h x1 x2 x3 x4 => Sys2Proof.Machine.execSsIndPort h x1 x2 x3 x4 s
  | .ssIndCopy h x1 x2 x3 x4 => Sys2Proof.Machine.execSsIndCopy h x1 x2 x3 x4 s
  | .sRec h x1 x2 x3 => Sys2Proof.Machine.execSRec h x1 x2 x3 s
  | .sConst h x1 x2 x3 => Sys2Proof.Machine.execSConst h x1 x2 x3 s
  | .sDrop h x1 x2 x3 => Sys2Proof.Machine.execSDrop h x1 x2 x3 s
  | .sMcPort h x1 x2 x3 => Sys2Proof.Machine.execSMcPort h x1 x2 x3 s
  | .sMcGeo h x1 x2 x3 => Sys2Proof.Machine.execSMcGeo h x1 x2 x3 s
  | .sChw h x1 x2 x3 => Sys2Proof.Machine.execSChw h x1 x2 x3 s
  | .sChr h x1 x2 x3 => Sys2Proof.Machine.execSChr h x1 x2 x3 s
  | .sBar h x1 x2 => Sys2Proof.Machine.execSBar h x1 x2 s
  | .sWb h x1 x2 => Sys2Proof.Machine.execSWb h x1 x2 s
  | .sKill h x1 => Sys2Proof.Machine.execSKill h x1 s
  | .sKillAll h => Sys2Proof.Machine.execSKillAll h s
  | .sTok h x1 x2 => Sys2Proof.Machine.execSTok h x1 x2 s
  | .sResOut h x1 x2 x3 => Sys2Proof.Machine.execSResOut h x1 x2 x3 s
  | .sResIn h x1 x2 x3 => Sys2Proof.Machine.execSResIn h x1 x2 x3 s
  | .streamWordDeliver x1 x2 => Sys2Proof.Machine.execStreamWordDeliver x1 x2 s
  | .streamWordDrain x1 x2 => Sys2Proof.Machine.execStreamWordDrain x1 x2 s
  | .streamCompletion x1 x2 => Sys2Proof.Machine.execStreamCompletion x1 x2 s
  | .multicastDetach x1 x2 x3 => Sys2Proof.Machine.execMulticastDetach x1 x2 x3 s
  | .transferWordArrival x1 => Sys2Proof.Machine.execTransferWordArrival x1 s
  | .channelWordPresent x1 x2 => Sys2Proof.Machine.execChannelWordPresent x1 x2 s
  | .mset h x1 x2 => Sys2Proof.Machine.execMset h x1 x2 s
  | .mseti h x1 x2 => Sys2Proof.Machine.execMseti h x1 x2 s
  | .mcall h x1 x2 => Sys2Proof.Machine.execMcall h x1 x2 s
  | .mgang h x1 x2 => Sys2Proof.Machine.execMgang h x1 x2 s
  | .macc h x1 x2 x3 => Sys2Proof.Machine.execMacc h x1 x2 x3 s
  | .maccBankRead x1 => Sys2Proof.Machine.execMaccBankRead x1 s
  | .mup h x1 x2 => Sys2Proof.Machine.execMup h x1 x2 s
  | .mupCompletion x1 => Sys2Proof.Machine.execMupCompletion x1 s
  | .mtab h x1 x2 => Sys2Proof.Machine.execMtab h x1 x2 s
  | .mstat h x1 x2 => Sys2Proof.Machine.execMstat h x1 x2 s
  | .mabort h => Sys2Proof.Machine.execMabort h s
  | .mepi h x1 => Sys2Proof.Machine.execMepi h x1 s
  | .mepiCompletion x1 => Sys2Proof.Machine.execMepiCompletion x1 s
  | .muNop => Sys2Proof.Machine.execMuNop s
  | .muParam x1 => Sys2Proof.Machine.execMuParam x1 s
  | .muLda x1 x2 x3 x4 x5 => Sys2Proof.Machine.execMuLda x1 x2 x3 x4 x5 s
  | .muLdb x1 => Sys2Proof.Machine.execMuLdb x1 s
  | .muMac x1 => Sys2Proof.Machine.execMuMac x1 s
  | .muZero x1 => Sys2Proof.Machine.execMuZero x1 s
  | .muSwap => Sys2Proof.Machine.execMuSwap s
  | .muDrain x1 x2 x3 x4 x5 x6 x7 x8 => Sys2Proof.Machine.execMuDrain x1 x2 x3 x4 x5 x6 x7 x8 s
  | .muLoop x1 x2 x3 => Sys2Proof.Machine.execMuLoop x1 x2 x3 s
  | .muEndl => Sys2Proof.Machine.execMuEndl s
  | .muSig x1 => Sys2Proof.Machine.execMuSig x1 s
  | .muWait x1 => Sys2Proof.Machine.execMuWait x1 s
  | .muEnd => Sys2Proof.Machine.execMuEnd s
  | .gangComplete x1 x2 => Sys2Proof.Machine.execGangComplete x1 x2 s
  | .gangLate x1 x2 => Sys2Proof.Machine.execGangLate x1 x2 s
  | .send h x1 x2 x3 x4 => Sys2Proof.Machine.execSend h x1 x2 x3 x4 s
  | .recv h x1 x2 x3 x4 => Sys2Proof.Machine.execRecv h x1 x2 x3 x4 s
  | .recvadd h x1 x2 x3 x4 => Sys2Proof.Machine.execRecvadd h x1 x2 x3 x4 s
  | .sendg h x1 x2 x3 => Sys2Proof.Machine.execSendg h x1 x2 x3 s
  | .cntSet h x1 x2 => Sys2Proof.Machine.execCntSet h x1 x2 s
  | .cntAdd h x1 x2 => Sys2Proof.Machine.execCntAdd h x1 x2 s
  | .cntWait h x1 x2 => Sys2Proof.Machine.execCntWait h x1 x2 s
  | .cntRd h x1 x2 => Sys2Proof.Machine.execCntRd h x1 x2 s
  | .cntWaitTimeout x1 => Sys2Proof.Machine.execCntWaitTimeout x1 s
  | .barInit h x1 x2 => Sys2Proof.Machine.execBarInit h x1 x2 s
  | .barArr h x1 => Sys2Proof.Machine.execBarArr h x1 s
  | .barWait h x1 => Sys2Proof.Machine.execBarWait h x1 s
  | .barAw h x1 => Sys2Proof.Machine.execBarAw h x1 s
  | .own h x1 x2 x3 => Sys2Proof.Machine.execOwn h x1 x2 x3 s
  | .fence h x1 => Sys2Proof.Machine.execFence h x1 s
  | .swait h x1 => Sys2Proof.Machine.execSwait h x1 s
  | .ctlRd h x1 x2 => Sys2Proof.Machine.execCtlRd h x1 x2 s
  | .ctlWr h x1 x2 => Sys2Proof.Machine.execCtlWr h x1 x2 s
  | .uiret h => Sys2Proof.Machine.execUiret h s
  | .tret h => Sys2Proof.Machine.execTret h s
  | .halt h => Sys2Proof.Machine.execHalt h s
  | .yield h => Sys2Proof.Machine.execYield h s
  | .ckpt h x1 => Sys2Proof.Machine.execCkpt h x1 s
  | .killpt h => Sys2Proof.Machine.execKillpt h s
  | .cfgLoad h x1 x2 x3 => Sys2Proof.Machine.execCfgLoad h x1 x2 x3 s
  | .cfgLoadCompletion x1 x2 => Sys2Proof.Machine.execCfgLoadCompletion x1 x2 s
  | .cfgRun h x1 x2 x3 => Sys2Proof.Machine.execCfgRun h x1 x2 x3 s
  | .tskEnd h => Sys2Proof.Machine.execTskEnd h s
  | .cfgDec h x1 x2 x3 => Sys2Proof.Machine.execCfgDec h x1 x2 x3 s
  | .tskAbort h x1 => Sys2Proof.Machine.execTskAbort h x1 s
  | .qOpen h x1 x2 => Sys2Proof.Machine.execQOpen h x1 x2 s
  | .qWait h x1 x2 => Sys2Proof.Machine.execQWait h x1 x2 s
  | .qClose h x1 => Sys2Proof.Machine.execQClose h x1 s
  | .grpRd h x1 x2 => Sys2Proof.Machine.execGrpRd h x1 x2 s
  | .grpLd h x1 => Sys2Proof.Machine.execGrpLd h x1 s
  | .tkStart h x1 x2 => Sys2Proof.Machine.execTkStart h x1 x2 s
  | .tkStop h x1 => Sys2Proof.Machine.execTkStop h x1 s
  | .tkStat h x1 x2 => Sys2Proof.Machine.execTkStat h x1 x2 s
  | .rgResume h x1 => Sys2Proof.Machine.execRgResume h x1 s
  | .chAlloc h x1 x2 => Sys2Proof.Machine.execChAlloc h x1 x2 s
  | .chFree h x1 => Sys2Proof.Machine.execChFree h x1 s
  | .commitPoint x1 => Sys2Proof.Machine.execCommitPoint x1 s
  | .quorumFill x1 x2 => Sys2Proof.Machine.execQuorumFill x1 x2 s
  | .quorumTimeout x1 x2 => Sys2Proof.Machine.execQuorumTimeout x1 x2 s
  | .quorumKillLanding x1 => Sys2Proof.Machine.execQuorumKillLanding x1 s
  | .logWriteback x1 => Sys2Proof.Machine.execLogWriteback x1 s
  | .remoteWritebackTimeout x1 => Sys2Proof.Machine.execRemoteWritebackTimeout x1 s
  | .pageWalk x1 x2 => Sys2Proof.Machine.execPageWalk x1 x2 s
  | .scanOut x1 x2 => Sys2Proof.Machine.execScanOut x1 x2 s
  | .stillnessFault x1 x2 => Sys2Proof.Machine.execStillnessFault x1 x2 s
  | .replyTimeout x1 x2 => Sys2Proof.Machine.execReplyTimeout x1 x2 s
  | .dshootWrite x1 x2 => Sys2Proof.Machine.execDshootWrite x1 x2 s
  | .shootdownDone x1 => Sys2Proof.Machine.execShootdownDone x1 s
  | .dlogbaseWrite x1 x2 => Sys2Proof.Machine.execDlogbaseWrite x1 x2 s
  | .dsavebaseWrite x1 x2 => Sys2Proof.Machine.execDsavebaseWrite x1 x2 s
  | .dscrubWrite x1 x2 => Sys2Proof.Machine.execDscrubWrite x1 x2 s
  | .hbmPatrolScrub x1 x2 => Sys2Proof.Machine.execHbmPatrolScrub x1 x2 s
  | .gspPatrolScrub x1 x2 x3 => Sys2Proof.Machine.execGspPatrolScrub x1 x2 x3 s
  | .hbmRowRepair x1 x2 => Sys2Proof.Machine.execHbmRowRepair x1 x2 s
  | .hbmChannelRetire x1 x2 => Sys2Proof.Machine.execHbmChannelRetire x1 x2 s
  | .eventEntry => Sys2Proof.Machine.execEventEntry s
  | .evpopWrite x1 => Sys2Proof.Machine.execEvpopWrite x1 s
  | .placeWrite x1 x2 => Sys2Proof.Machine.execPlaceWrite x1 x2 s
  | .migrationComplete x1 => Sys2Proof.Machine.execMigrationComplete x1 s
  | .bkdepthWrite x1 x2 => Sys2Proof.Machine.execBkdepthWrite x1 x2 s
  | .powerControlInterval x1 => Sys2Proof.Machine.execPowerControlInterval x1 s
  | .coolantFault => Sys2Proof.Machine.execCoolantFault s
  | .qtailWrite x1 x2 x3 => Sys2Proof.Machine.execQtailWrite x1 x2 x3 s
  | .qcfgWrite x1 x2 x3 => Sys2Proof.Machine.execQcfgWrite x1 x2 x3 s
  | .qbaseWrite x1 x2 x3 => Sys2Proof.Machine.execQbaseWrite x1 x2 x3 s
  | .semRead x1 x2 => Sys2Proof.Machine.execSemRead x1 x2 s
  | .semWrite x1 x2 x3 => Sys2Proof.Machine.execSemWrite x1 x2 x3 s
  | .partWrite x1 x2 x3 x4 => Sys2Proof.Machine.execPartWrite x1 x2 x3 x4 s
  | .pwrcapWrite x1 x2 => Sys2Proof.Machine.execPwrcapWrite x1 x2 s
  | .imgRegister x1 x2 x3 => Sys2Proof.Machine.execImgRegister x1 x2 x3 s
  | .imageRegistrationDone x1 => Sys2Proof.Machine.execImageRegistrationDone x1 s
  | .registerWrite x1 x2 x3 => Sys2Proof.Machine.execRegisterWrite x1 x2 x3 s
  | .firmwareUpdate x1 x2 => Sys2Proof.Machine.execFirmwareUpdate x1 x2 s
  | .firmwareBankSwitch => Sys2Proof.Machine.execFirmwareBankSwitch s
  | .fuseRaise x1 x2 => Sys2Proof.Machine.execFuseRaise x1 x2 s
  | .attestation x1 x2 => Sys2Proof.Machine.execAttestation x1 x2 s
  | .codeLoad x1 x2 => Sys2Proof.Machine.execCodeLoad x1 x2 s
  | .graftTableLoad x1 x2 => Sys2Proof.Machine.execGraftTableLoad x1 x2 s
  | .producerKeyWrite x1 x2 => Sys2Proof.Machine.execProducerKeyWrite x1 x2 s
  | .storeFlush x1 x2 => Sys2Proof.Machine.execStoreFlush x1 x2 s
  | .storeDeallocate x1 x2 x3 x4 => Sys2Proof.Machine.execStoreDeallocate x1 x2 x3 x4 s
  | .namespaceEntryWrite x1 x2 x3 => Sys2Proof.Machine.execNamespaceEntryWrite x1 x2 x3 s
  | .launchDispatch => Sys2Proof.Machine.execLaunchDispatch s
  | .partitionSaveDone x1 => Sys2Proof.Machine.execPartitionSaveDone x1 s
  | .launchRetire x1 => Sys2Proof.Machine.execLaunchRetire x1 s
  | .launchResume x1 => Sys2Proof.Machine.execLaunchResume x1 s
  | .hostLinkDown x1 => Sys2Proof.Machine.execHostLinkDown x1 s
  | .semaphoreFailover x1 => Sys2Proof.Machine.execSemaphoreFailover x1 s
  | .deviceReset => Sys2Proof.Machine.execDeviceReset s
  | .unsupportedRequest x1 => Sys2Proof.Machine.execUnsupportedRequest x1 s
  | .laneSpare x1 x2 => Sys2Proof.Machine.execLaneSpare x1 x2 s
  | .edgeTableWrite x1 x2 x3 => Sys2Proof.Machine.execEdgeTableWrite x1 x2 x3 s
  | .routingEntryWrite x1 x2 x3 => Sys2Proof.Machine.execRoutingEntryWrite x1 x2 x3 s
  | .contextTableWrite x1 x2 x3 => Sys2Proof.Machine.execContextTableWrite x1 x2 x3 s
  | .routeForward x1 x2 => Sys2Proof.Machine.execRouteForward x1 x2 s
  | .routeDeliver x1 x2 => Sys2Proof.Machine.execRouteDeliver x1 x2 s
  | .routeReduce x1 x2 => Sys2Proof.Machine.execRouteReduce x1 x2 s
  | .routeStep x1 x2 => Sys2Proof.Machine.execRouteStep x1 x2 s
  | .peerReadServe x1 x2 => Sys2Proof.Machine.execPeerReadServe x1 x2 s
  | .bucketRefill => Sys2Proof.Machine.execBucketRefill s
  | .matrixFault x1 => Sys2Proof.Machine.execMatrixFault x1 s
  | .hostLinkReturn x1 => Sys2Proof.Machine.execHostLinkReturn x1 s
  | .fabricLinkDown x1 => Sys2Proof.Machine.execFabricLinkDown x1 s
  | .coolantFaultClear => Sys2Proof.Machine.execCoolantFaultClear s
  | .writeResponse x1 x2 => Sys2Proof.Machine.execWriteResponse x1 x2 s
  | .secondChannelFailure x1 => Sys2Proof.Machine.execSecondChannelFailure x1 s

end Sys2Proof.Machine
end

