-- ==== Sys2Proof/Machine/Schedule.lean ====
section
/-!
DEFINITION. Whose turn it is (log entry 2): the agenda's first turn, or, when the agenda is empty, one of the turns that the
package's own agents may take, in rotation. A turn that its rule does not allow changes nothing.
-/
namespace Sys2Proof.Machine

/-- The firing of an element by the operation code of its configuration word (R85). -/
def elementFiring (op t n : Nat) : Option Instr :=
  let codes : List (Nat × Instr) := [
    (0x01, Instr.elPass t n), (0x10, Instr.iadd t n), (0x11, Instr.isub t n), (0x12, Instr.iadds t n), (0x13, Instr.isubs t n),
    (0x14, Instr.imul t n), (0x15, Instr.imulh t n), (0x16, Instr.imac t n), (0x17, Instr.idot4 t n), (0x18, Instr.imin t n),
    (0x19, Instr.imax t n), (0x1a, Instr.iabs t n), (0x1b, Instr.ineg t n), (0x1c, Instr.iclip t n), (0x1d, Instr.ishl t n),
    (0x1e, Instr.ishr t n), (0x1f, Instr.isra t n), (0x20, Instr.iand t n), (0x21, Instr.ior t n), (0x22, Instr.ixor t n),
    (0x23, Instr.inot t n), (0x24, Instr.icmp t n), (0x25, Instr.iscale t n), (0x40, Instr.fadd t n), (0x41, Instr.fsub t n),
    (0x42, Instr.fmul t n), (0x43, Instr.fma t n), (0x44, Instr.fnma t n), (0x45, Instr.fmin t n), (0x46, Instr.fmax t n),
    (0x47, Instr.fabs t n), (0x48, Instr.fneg t n), (0x49, Instr.fcmp t n), (0x4a, Instr.frcp t n), (0x4b, Instr.frsq t n),
    (0x4c, Instr.fexp2 t n), (0x4d, Instr.flog2 t n), (0x4e, Instr.ftanh t n), (0x4f, Instr.fsig t n), (0x50, Instr.fsilu t n),
    (0x51, Instr.faddC2 t n), (0x52, Instr.fmaC2 t n), (0x60, Instr.cvt t n), (0x61, Instr.cvtSc t n), (0x62, Instr.qrnd t n),
    (0x70, Instr.elementSel t n), (0x71, Instr.lperm t n), (0x72, Instr.lbcast t n), (0x73, Instr.lred t n), (0x74, Instr.lscan t n),
    (0x80, Instr.racc t n), (0x82, Instr.elCnt t n), (0x83, Instr.cmask t n), (0x84, Instr.tagck t n), (0x85, Instr.tagset t n)]
  (codes.find? (fun e => e.1 = op)).map (·.2)

/-- The step of a router operator by its code (R70). -/
def operatorStep (op t n : Nat) : Option Instr :=
  match op with
  | 1 => some (.opSteer t n)
  | 2 => some (.opMerge t n)
  | 3 => some (.opCarry t n)
  | 4 => some (.opRepeat t n)
  | 5 => some (.opSink t n)
  | 6 => some (.opGate t n)
  | _ => none

/-- The nodes of a tile's active configuration: headers, firings and firebreaks. -/
def Tile.nodeEvents (x : Tile) (t : Nat) : List Instr :=
  x.image.elems.flatMap (fun e =>
      [Instr.headerFiring t e.1, Instr.firebreakForward t e.1] ++ (elementFiring (cOp e.2) t e.1).toList)
    ++ (List.range 128).flatMap (fun n => match operatorStep (x.image.opCode (64 + n)) t (64 + n) with
      | some i => [i, Instr.firebreakForward t (64 + n)]
      | none => [])

/-- The events of a tile's engines. -/
def Tile.engineEvents (x : Tile) (t : Nat) : List Instr :=
  (List.range (x.seq.reqs.length + (x.seq.handlers.flatMap (fun h => h.image.reqs)).length)).map (fun i => Instr.scoreboardReply i)
    ++ x.str.cmds.flatMap (fun c => [Instr.pageWalk t c.1, Instr.streamWordDeliver t c.1, Instr.streamWordDrain t c.1, Instr.peerReadServe t c.1,
      Instr.replyTimeout t c.1, Instr.streamCompletion t c.1] ++ (List.range c.2.members.length).map (fun m => Instr.multicastDetach t c.1 m))
    ++ x.fab.fed.map (fun n => Instr.streamWordDeliver t (64 + n))
    ++ x.str.responses.map (fun r => Instr.writeResponse t r.key)
    ++ [Instr.transferWordArrival t, Instr.cntWaitTimeout t, Instr.maccBankRead t, Instr.mupCompletion t, Instr.mepiCompletion t]
    ++ x.fab.loads.map (fun l => Instr.cfgLoadCompletion t l.1)
    ++ [Instr.forcedSave, Instr.contextSave t, Instr.quorumKillLanding t, Instr.logWriteback t, Instr.remoteWritebackTimeout t]
    ++ (match x.freeze with
      | some f => [Instr.scanOut (dieOf (groveOf t)) f.region]
      | none => [])

/-- The turns of a unit. -/
def unitTurns (u : Agent) (es : List Instr) : List Turn :=
  [⟨u, .dispatch⟩, ⟨u, .issue .c⟩, ⟨u, .issue .d⟩, ⟨u, .issue .m⟩, ⟨u, .issue .n⟩, ⟨u, .issue .v⟩, ⟨u, .micro⟩]
    ++ es.map (fun i => ⟨u, .event i⟩)

/-- The events of a die. -/
def Die.events (x : Die) (d : Nat) : List Instr :=
  [Instr.commitPoint d, Instr.shootdownDone d]
    ++ x.gangs.flatMap (fun g => [Instr.gangComplete d g.1, Instr.gangLate d g.1])
    ++ x.joins.flatMap (fun j => [Instr.quorumTimeout d j.1, Instr.quorumFill d j.1])
    ++ x.still.flatMap (fun r => [Instr.stillnessFault d r.1])

/-- The events of the hub, of the fabric ports and of time. -/
def State.packageEvents (s : State) : List Instr :=
  s.hub.parts.flatMap (fun p => [Instr.launchRetire p.1, Instr.partitionSaveDone p.1, Instr.launchResume p.1])
    ++ [Instr.launchDispatch]
    ++ s.ports.flatMap (fun p => p.2.held.flatMap (fun e =>
      [Instr.routeForward p.1 e.1, Instr.routeDeliver p.1 e.1, Instr.routeReduce p.1 e.1])
        ++ p.2.reads.map (fun e => Instr.peerReadServe p.1 (64 + e.1))
        ++ (List.range p.2.landing.length).map (fun k => Instr.routeDeliver p.1 (65536 * (k + 2)))
        ++ p.2.marked.map (fun e => Instr.routeStep p.1 (16 * e.1)))
    ++ (if s.hub.bankReady then [Instr.firmwareBankSwitch] else []) ++ [Instr.bucketRefill]

/-- The turns of the package's own agents. -/
def State.turns (s : State) : List Turn :=
  s.tiles.flatMap (fun e => unitTurns (.tile e.1) (e.2.engineEvents e.1 ++ e.2.nodeEvents e.1))
    ++ s.groves.flatMap (fun e => unitTurns (.seq e.1)
      ((List.range (e.2.seq.reqs.length + (e.2.seq.handlers.flatMap (fun h => h.image.reqs)).length)).map (fun i => Instr.scoreboardReply i)
        ++ [Instr.migrationComplete e.1]))
    ++ (s.dies.flatMap (fun e => e.2.events e.1) ++ s.packageEvents).map (fun i => ⟨s.focus, .event i⟩)

/-- The next turn, and the state with it taken from the agenda or from the rotation. -/
def State.nextTurn (s : State) : Turn × State :=
  match s.agenda with
  | t :: rest => (t, { s with agenda := rest })
  | [] =>
    let ts := s.turns
    ((ts[s.turn % ts.length]?).getD ⟨s.focus, .dispatch⟩, { s with turn := s.turn + 1 })

/-- The instruction of the word at the head of a queue of the focus unit, if one may issue: the unit runs and no trap it has
found is to be taken before the next dispatch, nor one of that queue's word (R111, R142, R264). -/
def State.queued (s : State) (sl : Slot) : Option (Entry × Instr) :=
  let u := s.focus
  let q := s.seqOf u
  if !(s.runs u && (q.traps.isEmpty || !q.trapOpen)) then none else
  if q.traps.any (fun t => (t.entry.map (·.slot)) = some sl) then none else
  match q.queues.get [] sl.index with
  | [] => none
  | e :: _ => match decodeSlot u.isGrove sl e.word with
    | .ok i => some (e, i)
    | .error _ => none

/-- The micro-op that a tile's running routine takes next (R156, R247). -/
def State.microword (s : State) (t : Nat) : Option Instr :=
  match (s.mx t).running with
  | some r => if 1023 < r.upc then none else decodeMicro ((s.mx t).store.get 0 r.upc)
  | none => none

/-- The slot in which a word stands by itself: the first whose map has it. -/
def slotOfWord (w : BitVec 32) : Option Slot :=
  [Slot.a, Slot.b, Slot.l, Slot.c, Slot.m, Slot.n, Slot.v].find? (fun sl => (decodeIn sl w).isSome)

/-- A bundle that holds one word, and `nop` elsewhere, in a unit's code store. -/
def State.placeBundle (s : State) (u : Agent) (pc : Nat) (sl : Slot) (w : BitVec 32) : State :=
  s.write (codeAddr u.codeUnit (32 * pc)) (Slot.all.flatMap (fun k => leBytes 4 (if k = sl then w.toNat else 0x01000000)))

/-- A unit's kernel runs with its whole code store in bounds. -/
def State.startUnit (s : State) (u : Agent) : State :=
  s.mapSeq u (fun q => { q with run := .running, ctl := { q.ctl with codebase := 0, codebound := 2048 } })

/-- The unit that runs a word of a slot: words of the grove's own run on a grove sequencer. -/
def State.unitFor (s : State) (sl : Slot) (w : BitVec 32) : Agent :=
  if sl = .v && groveCode w then (if s.focus.isGrove then s.focus else .seq 0)
  else if s.focus.isGrove then .tile 0 else s.focus

/-- A word placed where the next step takes it: in the bundle at the pc, or, where its slot has a queue and the word does
not act at dispatch, at the head of that queue with its operands captured. An `ext` stands before a word that takes its
payload. -/
def State.placeWord (s : State) (sl : Slot) (w : BitVec 32) (i : Instr) : State :=
  let u := s.unitFor sl w
  let s := s.startUnit u
  let q := s.seqOf u
  let s := { s with focus := u }
  if sl.index < 3 || actsAtOnce i then
    let s := s.placeBundle u q.pcNat sl w
    { (if opOf w = 0x7f then s.placeBundle u (q.pcNat + 1) sl 0x04000000 else s) with agenda := [⟨u, .dispatch⟩] }
  else
    let e := (Active.mk sl w i none).captured q (fun n => (s.tile s.tileNo).g.get 0 n)
    { s.mapSeq u (fun q => { q with queues := q.queues.put sl.index [e] }) with agenda := [⟨u, .issue sl⟩] }

/-- A microword placed where the next step takes it: word 0 of the microprogram store of a tile, whose routine 0 runs. -/
def State.placeMicro (s : State) (w : BitVec 32) : State :=
  let t := s.tileNo
  let s := s.mapMx t (fun m => { m with store := m.store.set 0 0 w, running := some ⟨0, 0, 0, false, none, false, false⟩ })
  { s with focus := .tile t, agenda := [⟨.tile t, .micro⟩] }

end Sys2Proof.Machine
end

