-- ==== Sys2Proof/Machine/Upset.lean ====
section
/-!
DEFINITION. Stored bits that flip by themselves. In the array a flipped bit waits for a read of it, which detects it (R37); in the
other stores it is detected as it flips (log entry 58).
-/
namespace Sys2Proof.Machine

/-- A change of the registers of an element. -/
def Tile.upsetElem (x : Tile) (n : Nat) (f : Elem → Elem) : Tile := if n < 64 then x.setElem n (f (x.elemAt n)) else x

/-- A part of the `i`-th result in an element's stages flips. -/
def Staged.flip (p : Staged) (part : Nat) : Staged :=
  let flip (w : Nat × Slot512) : Nat × Slot512 := (w.1, w.2.flip part)
  { p with sends := p.sends.map flip, carries := p.carries.map flip, results := p.results.map (·.flip part) }

/-- An uncorrectable error in a unit that has check bits: HBM, whose controller tells management firmware (R382), a scratchpad
(R126, R290), a weight buffer (R259) or a code store (R126, R273). -/
def State.poisonAt (s : State) (a : Nat) : State :=
  let s : State := { s with mem := s.mem.setPoison a }
  if a < hbmEnd then s.report 0x13 (hbmStack a) else s

/-- A parity error in a grove's shared parts: the open task of every tile of the grove is aborted and re-run; with none open,
management firmware is told (R307). Tasks of one region fall to one error, and all of them in the order of the die's tiles (R334). -/
def State.groveError (s : State) (g : Nat) : State :=
  match ((List.range 17).map (tileAt g)).filter (fun t => (s.tile t).inTask) with
  | [] => s.report 0x13 g
  | ts => s.softMembers (((List.range 160).map (s.ofDieTile (dieOf g))).filter (fun m =>
      ts.any (fun t => decide (s.regionOf t = s.regionOf m))))

/-- A soft error in a tile's matrix unit: in a task it aborts the task, outside one it ends the routine with 0x13 (R259). -/
def State.matrixError (s : State) (t : Nat) : State :=
  if (s.tile t).inTask then s.softError t else
  match (s.mx t).running with
  | some r => s.endRoutine t r 0x13 false
  | none => s

/-- A soft error in a command's buffers: it aborts the task that the command belongs to, otherwise the command stops with 0x13
(R227). -/
def State.streamError (s : State) (t h : Nat) : State :=
  match s.cmd? t h with
  | none => s
  | some c => if c.done then s else if c.inTask then s.softError t else s.stopCmd t h { c with pos := c.standAt } 0x13

/-- A stored bit flips. -/
def State.upset (s : State) (u : Upset) : State :=
  match u with
  | .slot t k i part => s.mapTile t (fun x => { x with fab := { x.fab with edges := x.fab.edges.change k (changeAt (·.flip part) i) } })
  | .carry t c i part => s.mapTile t (fun x => { x with fab := { x.fab with carry := x.fab.carry.change c (changeAt (·.flip part) i) } })
  | .held t n part => s.mapTile t (fun x => { x with fab := { x.fab with
      ops := x.fab.ops.change n (fun o => { o with held := o.held.map (·.flip part) }) } })
  | .stage t n i part => s.mapTile t (·.upsetElem n (fun e => { e with pipe := changeAt (·.flip part) i e.pipe }))
  | .acc t n part => s.mapTile t (·.upsetElem n (fun e => { e with accBad := e.accBad ||| BitVec.twoPow 16 part }))
  | .counter t n lc => s.mapTile t (·.upsetElem n (fun e => { e with lcBad := e.lcBad ||| BitVec.twoPow 3 lc }))
  | .config t k n => s.mapTile t (fun x => { x with fab := { x.fab with
      slots := x.fab.slots.change k (fun i => { i with bad := insertNat n i.bad }) } })
  | .core t => s.softError t
  | .memory a => s.poisonAt a
  | .tlb t i => s.mapTile t (fun x => { x with tlb := x.tlb.eraseIdx i })
  | .slice d k i => s.mapDie d (fun x => { x with tlb := x.tlb.set [] k ((x.tlb.get [] k).eraseIdx i) })
  | .grove g => s.groveError g
  | .matrix t => s.matrixError t
  | .stream t h => s.streamError t h

end Sys2Proof.Machine
end

