-- ==== Sys2Proof/Machine/Step.lean ====
section
/-!
DEFINITION. One step: the next turn of the schedule (log entry 2), and a word placed where the next step takes it.
-/
namespace Sys2Proof.Machine

/-- A turn taken by its unit: the dispatch of a bundle (R111), the issue of a queue's head, a micro-op (R247), or another
event. A word is no event. A flipped bit and the hub's shootdowns come from outside (R37, R369). -/
def State.take (s : State) (a : Act) : Result :=
  match a, s.focus with
  | .dispatch, _ => exec .bundleDispatch s
  | .issue sl, _ => match s.queued sl with
    | some (e, i) => exec i { s with ctx := e }
    | none => .next s
  | .micro, .tile t => match s.microword t with
    | some i => exec i s
    | none => execMatrixFault t s
  | .micro, .seq _ => .next s
  | .upset u, _ => .next (s.upset u)
  | .shootdown page what, _ => .next (s.shootPackage page what)
  | .drive p up, _ => .next (s.setDrive p up)
  | .arrive i header data poison, _ => .next (s.arriveFar i header data poison)
  | .event i, _ => if (encode i).isSome then .next s else exec i s

/-- One step of the package. -/
def step (s : State) : Host.Outcome State Fault Refusal :=
  let (t, s) := s.nextTurn
  ({ s with focus := t.agent } : State).take t.act

/-- The state with a word of the opcode table placed so that the next step runs it. -/
def State.withFetchWord (s : State) (nbits w : Nat) : State :=
  if nbits ≠ 32 then s else
  let b : BitVec 32 := .ofNat 32 w
  match slotOfWord b with
  | some sl => match decodeIn sl b with
    | some i => s.placeWord sl b i
    | none => s
  | none => s.placeMicro b

end Sys2Proof.Machine
end

