-- ==== Sys2Proof/Safety.lean ====
section
/-!
DEFINITION. What counts as a safe state and a safe step: the canonical form of memory, kept by every step, and a step that
goes on; and the terms in which the statements speak of one word or event.
-/
namespace Sys2Proof.Machine

/-- The memory of a state is in canonical form. -/
def State.memOk (s : State) : Prop := s.mem.bytes.wf = true

/-- A step goes on from a state. -/
def State.goesOn (s : State) : Prop := ∃ s', step s = .next s'

/-- A run of steps that all go on. -/
def runs : Nat → State → State → Prop
  | 0, s, t => s = t
  | k + 1, s, t => ∃ m, step s = .next m ∧ runs k m t

/-- The word of the context acts: its predicate holds and it meets no fault at dispatch (R139, R162). -/
def State.acts (s : State) (h : Hdr) (i : Instr) : Prop :=
  (s.seqOf s.focus).holds h = true ∧ dispatchFault s i = none

/-- The sequencer of the unit in focus. -/
abbrev State.cur (s : State) : Seq := s.seqOf s.focus

/-- Two states differ in the sequencer of one unit only. -/
def State.onlySeq (s t : State) (u : Agent) : Prop := ∃ q, t = s ∨ t = s.setSeq u q

/-- The effective address of an MA operand of the word in the context (R165). -/
def State.ea (s : State) (b : BitVec 4) (z : BitVec 2) (i : BitVec 8) : Nat :=
  s.cur.effAddr b (immSigned s.ctx.ext i) (accessSize z)

/-- A request of slot A of the word in the context (R116). -/
def State.req (s : State) (k : ReqKind) (d : Option Dest) (ea size : Nat) (data cmp : Word) (inTask : Bool) : Req :=
  { kind := k, dest := d, ea := ea, size := size, data := data, cmp := cmp, pc := s.ctx.pc, word := s.ctx.word, inTask := inTask, num := s.ctx.num }

/-- A stream word finds its handle and its ports free (R194, R195). -/
def State.streamOpen (s : State) (c : Cmd) (st : BitVec 6) : Prop :=
  (s.tile s.tileNo).str.cmds.get? st.toNat = none
    ∧ (s.feeds s.tileNo c).all s.portFree = true
    ∧ (∀ p, c.drains = some p → (s.tile s.tileNo).str.cmds.all (fun e => e.2.drains ≠ some p) = true)

/-- A command becomes busy under its handle, once an `swait` for the handle's last completion has ended (R186, R194, R229). -/
def State.started (s : State) (st : BitVec 6) (c : Cmd) : State :=
  (s.accept.mapSeq (.tile s.tileNo) (·.endSwait st.toNat ((s.tile s.tileNo).str.faults.get? st.toNat))).mapTile s.tileNo (fun x => { x with str := { x.str with
    cmds := x.str.cmds.put st.toNat { c with num := (s.tile s.tileNo).str.issued, inTask := (s.tile s.tileNo).inTask }
    faults := x.str.faults.erase st.toNat
    issued := (s.tile s.tileNo).str.issued + 1 } })

/-- The running routine of the focus tile may take a micro-op (R247). -/
def State.microReady (s : State) (r : Routine) : Prop :=
  (s.mx s.tileNo).running = some r ∧ (s.tile s.tileNo).microOpen r = true

/-- The routine goes on at a microword, and its tile has moved (R247, R376). -/
def State.microGo (s : State) (r : Routine) (upc : Nat) : State :=
  s.setTile s.tileNo { s.tile s.tileNo with
    mx := { s.mx s.tileNo with running := some { r with upc := upc, begun := false } }, moved := true }

/-! ### Dispatch points -/

/-- A unit stands before a bundle with nothing in flight and nothing else to be taken first: no trap, landing or handler
(R111, R114, R130, R267, R268, R298). -/
def State.atBundle (s : State) (u : Agent) : Prop :=
  let q := s.seqOf u
  s.runs u = true ∧ q.queues = [] ∧ q.reqs = [] ∧ q.traps = [] ∧ match u with
    | .tile t => (s.forceDue t && (s.tile t).landingOpen true) = false ∧
        ((s.tile t).preemptDue && (s.tile t).landingOpen false && q.boundary) = false ∧ s.killOpen t = false ∧ q.userDue = false
    | .seq g => (s.grove g).eventDue = false ∧ (s.grove g).preempt = none

/-- The bundle at a unit's pc lies in its code bounds, is not poisoned, and holds one word in a slot and `nop` elsewhere
(R137, R140, R144, R265). -/
def State.holdsOne (s : State) (u : Agent) (sl : Slot) (w : BitVec 32) : Prop :=
  let q := s.seqOf u
  let a := codeAddr u.codeUnit (32 * q.pcNat)
  (q.ctl.codebase.toNat : Int) ≤ q.pc ∧ q.pc < (q.ctl.codebound.toNat : Int) ∧ s.mem.poisoned a 32 = false ∧
    ∀ k : Slot, s.readNat (a + 4 * k.index) 4 = if k = sl then w.toNat else 0x01000000

/-! ### What a word writes -/

/-- A result of the context's word is scheduled at the focus unit, to land after some bundle times (R115). -/
def State.landing (s : State) (d : Dest) (v : Vec) (l : Nat) : State :=
  s.setSeq s.focus { s.cur with lands := s.cur.lands ++ [⟨d, v, l, s.ctx.num, s.ctx.pc, s.ctx.word, s.ctx.slot.index⟩] }

/-- A late writer's result is held at the focus unit (R117). -/
def State.holding (s : State) (d : BitVec 6) (v : Word) : State :=
  if d = 0 then s else s.setSeq s.focus { s.cur with lates := s.cur.lates ++
    [⟨destOf d, v.setWidth 512, 0, s.ctx.num, s.ctx.pc, s.ctx.word, s.ctx.slot.index⟩] }

/-- A trap is found at the focus unit, to be taken before its next dispatch (R162). -/
def State.finding (s : State) (cause : BitVec 8) (info : Word) (slot : Nat) : State :=
  s.setSeq s.focus { s.cur with traps := s.cur.traps ++ [⟨cause, info, slot, none, none⟩] }

/-- The head of the context's queue is gone: its engine has accepted it (R111). -/
def State.accepted (s : State) : State :=
  s.setSeq s.focus { s.cur with queues := s.cur.queues.set [] s.ctx.slot.index ((s.cur.queues.get [] s.ctx.slot.index).drop 1) }

/-- The context's word leaves its queue with a trap that bears its word and slot (R162) and the word itself, which stays in its queue if
another trap is taken first (R264). -/
def State.refusing (s : State) (cause : BitVec 8) (detail : Nat) : State :=
  s.accepted.setSeq s.focus { s.accepted.cur with traps := s.accepted.cur.traps ++
    [⟨cause, trapInfo s.ctx.word detail s.ctx.slot.index, s.ctx.slot.index, none, some s.ctx⟩] }

/-- A core access of a tile to its scratchpad passes the bounds, alignment, carve-out and owner checks (R165). -/
def State.coreReaches (s : State) (t : Nat) (b : BitVec 4) (ea size : Nat) : Prop :=
  ea < 2 ^ 20 ∧ ea % size = 0 ∧ (b = 15 → (s.tile t).seq.ctl.inCarve (ea / 4096) = true) ∧
    (s.tile t).engineOwns (ea / 4096) = false

/-- No request that the focus unit made before its i-th outstanding one keeps that one from its bank: none to the same bytes, and none
to the same bank (R168, R289). -/
def State.noneBefore (s : State) (i : Nat) (r : Req) : Prop :=
  ∀ p ∈ s.cur.handlers.flatMap (fun h => h.image.reqs) ++ s.cur.reqs.take i, p.before r = false

/-- The focus unit has no request outstanding, of its own or of the code that a handler has interrupted, and its replies are not held
(R116, R119, R370). -/
def State.noneOutstanding (s : State) : Prop :=
  s.cur.reqs = [] ∧ s.cur.handlers.flatMap (fun h => h.image.reqs) = [] ∧ s.stopped s.focus = false

/-- A sequencer with a result in the register that it is for; `s0` discards it (R109). -/
def Seq.given (q : Seq) (d : Dest) (v : Word) : Seq :=
  match d with
  | .s n => if n = 0 then q else { q with s := q.s.set 0 n v }
  | .a n => { q with a := q.a.set 0 n (v.setWidth 72) }
  | _ => q

/-- A memory holds the low bytes of a number from an address on, least significant first, and is otherwise that of a state; a
poisoned unit that is not written whole stays poisoned (R126, R166, R290). -/
def State.stored (s : State) (m : Mem) (a n v : Nat) : Prop :=
  (∀ j, j < n → m.bytes.read (a + j) = BitVec.ofNat 8 (v / 256 ^ j)) ∧
  (∀ x, x < a ∨ a + n ≤ x → m.bytes.read x = s.mem.bytes.read x) ∧
  m = { s.mem with bytes := m.bytes, poison := m.poison } ∧
  (∀ u, u ∈ m.poison ↔ u ∈ s.mem.poison ∧ ¬(a ≤ u ∧ u + poisonUnit u ≤ a + n))

/-- The words of slots A, B and L that only schedule a result. -/
def computes (i : Instr) : Bool :=
  match i with
  | .nop | .nopY | .ext _ | .add .. | .sub .. | .mul .. | .mulh .. | .mulhn .. | .and .. | .or .. | .xor .. | .andn .. | .shl ..
  | .shr .. | .sra .. | .min .. | .max .. | .minn .. | .maxn .. | .addi .. | .shli .. | .shri .. | .srai .. | .clz .. | .popc ..
  | .sext .. | .zext .. | .li .. | .mov .. | .cmp .. | .cmpi .. | .sel .. | .qop .. | .aadd .. | .aaddi .. | .amov .. | .aset ..
  | .aget .. | .ahi .. | .geoBase .. | .geoAdv .. => true
  | _ => false

/-- The register a computing word writes: `geo.base` and `geo.adv` write their geometry. -/
def resultDest (i : Instr) : Option Dest :=
  match i with
  | .geoBase _ g _ | .geoAdv _ g _ _ => some (.g g.toNat)
  | i => destination i

/-! ### The matrix unit -/

/-- The matrix unit of a tile as the focus tile leaves its queue. -/
def State.mxAfter (s : State) (t : Nat) (m : Matrix) : State := s.accepted.setTile t { s.accepted.tile t with mx := m }

/-- A routine outside gangs ends: its record stands in the unit, that of the last fault where it ends with none, `done` counts it, and its barrier takes one arrival with the cause
and the routine and micro-pc as info (R245, R258). -/
def State.routineEnds (s : State) (t : Nat) (r : Routine) (cause : BitVec 8) (aborted : Bool) : State :=
  let info : BitVec 16 := .ofNat 16 (r.index * 1024 + r.upc % 1024)
  s.setTile t { s.tile t with
    mx := { (s.tile t).mx with running := none, done := (s.tile t).mx.done + 1, cause := if cause = 0 then (s.tile t).mx.cause else cause,
                               info := if cause = 0 then (s.tile t).mx.info else info,
                               aborted := if cause = 0 then (s.tile t).mx.aborted else aborted, upc := r.upc % 1024, routine := r.index }
    seq := (s.tile t).seq.arrive r.bar cause info }

/-- A routine as a call starts it (R240): shadow registers copied, loops, panels and mask empty, at its entry's first microword. -/
def Matrix.called (m : Matrix) (r : Routine) : Matrix :=
  { m with active := m.shadow, loops := [], panelA := none, panelB := none, mask := 0, started := m.started + 1, running := some r,
           staged := [] }

/-! ### The array -/

/-- The operations of elements by their codes, with the event that is a data firing of each (R85). -/
def elementOps : List (Nat × (Nat → Nat → Instr)) :=
  [(0x01, .elPass), (0x10, .iadd), (0x11, .isub), (0x12, .iadds), (0x13, .isubs), (0x14, .imul),
   (0x15, .imulh), (0x16, .imac), (0x17, .idot4), (0x18, .imin), (0x19, .imax), (0x1a, .iabs),
   (0x1b, .ineg), (0x1c, .iclip), (0x1d, .ishl), (0x1e, .ishr), (0x1f, .isra), (0x20, .iand),
   (0x21, .ior), (0x22, .ixor), (0x23, .inot), (0x24, .icmp), (0x25, .iscale), (0x40, .fadd),
   (0x41, .fsub), (0x42, .fmul), (0x43, .fma), (0x44, .fnma), (0x45, .fmin), (0x46, .fmax)] ++
  [(0x47, .fabs), (0x48, .fneg), (0x49, .fcmp), (0x4a, .frcp), (0x4b, .frsq), (0x4c, .fexp2),
   (0x4d, .flog2), (0x4e, .ftanh), (0x4f, .fsig), (0x50, .fsilu), (0x51, .faddC2), (0x52, .fmaC2),
   (0x60, .cvt), (0x61, .cvtSc), (0x62, .qrnd), (0x70, .elementSel), (0x71, .lperm), (0x72, .lbcast),
   (0x73, .lred), (0x74, .lscan), (0x80, .racc), (0x82, .elCnt), (0x83, .cmask), (0x84, .tagck),
   (0x85, .tagset)]

/-! ### Exact values -/

/-- The rational number that an exact value stands for; NaN and the infinities stand for none (R48). -/
def XVal.value : XVal → ℚ
  | .fin neg m e => (if neg then -1 else 1) * m * 2 ^ e
  | _ => 0

/-- A value is finite. -/
def XVal.finite (x : XVal) : Prop := ∃ n m e, x = .fin n m e

/-- An exact sum: NaN of a NaN or of two different infinities, an infinity of one, and otherwise the exact rational sum, whose zero is
negative where every addend is −0, or the mode is RDN (R50, R52, R83). -/
def XVal.sums (r : Round) (xs : List XVal) (v : XVal) : Prop :=
  (XVal.nan ∈ xs → v = .nan) ∧ (XVal.inf true ∈ xs → XVal.inf false ∈ xs → v = .nan) ∧
  (∀ n, XVal.nan ∉ xs → XVal.inf n ∈ xs → XVal.inf (!n) ∉ xs → v = .inf n) ∧
  ((∀ x ∈ xs, x.finite) → v.finite ∧ v.value = (xs.map XVal.value).sum ∧
    (v.value = 0 → ∃ g, v = .fin g 0 0 ∧ (g = true ↔ r = .rdn ∨ ∀ x ∈ xs, ∃ e, x = .fin true 0 e)))

/-- An exact product: NaN of a NaN or of zero and an infinity, else an infinity, or the exact rational product, of the sign that the
factors' signs give (R49, R52, R83). -/
def XVal.multiplies (a b v : XVal) : Prop :=
  (a = .nan ∨ b = .nan → v = .nan) ∧
  (∀ n m e k, a = .fin n m e → b = .inf k → v = if m = 0 then .nan else .inf (n != k)) ∧
  (∀ n m e k, a = .inf k → b = .fin n m e → v = if m = 0 then .nan else .inf (k != n)) ∧
  (∀ n k, a = .inf n → b = .inf k → v = .inf (n != k)) ∧
  (∀ n m e n' m' e', a = .fin n m e → b = .fin n' m' e' → ∃ k g, v = .fin (n != n') k g ∧ v.value = a.value * b.value)

end Sys2Proof.Machine
end

