-- ==== Sys2Proof/Certificates/Slice0/Obligations.lean ====
section
/-!
DEFINITION. The statements for the provers.
-/
open Sys2Proof Sys2Proof.Machine

/-! ### Encoding and the step -/

/-- Decode and encode agree: the word of every well-formed instruction, with every operand at every value its fields admit,
decodes to that instruction, in some slot of a tile's or a grove sequencer's program or as a microword (R138 to R152, R156,
R248). -/
def Obligations.DecodeAfterEncode : Prop :=
  ∀ (i : Instr) (w : BitVec 32), i.wf = true → encode i = some w →
    (∃ (grove : Bool) (sl : Slot), decodeSlot grove sl w = .ok i) ∨ decodeMicro w = some i

/-- Each word has one meaning in each slot and each program: a word that decodes is the word of its instruction, no bit of it
dropped (R138 to R152, R156, R248).

What decodes is well-formed, so a word whose fields its encoding does not admit is refused (R138, R143, R155). -/
def Obligations.DecodingIsExact : Prop :=
  ((∀ (grove : Bool) (sl : Slot) (w : BitVec 32) (i : Instr), decodeSlot grove sl w = .ok i → encode i = some w) ∧
   (∀ (w : BitVec 32) (i : Instr), decodeMicro w = some i → encode i = some w)) ∧
  ((∀ (grove : Bool) (sl : Slot) (w : BitVec 32) (i : Instr), decodeSlot grove sl w = .ok i → i.wf = true) ∧
   (∀ (w : BitVec 32) (i : Instr), decodeMicro w = some i → i.wf = true))

/-- Words written out bit by bit from the encodings of slots A, L, C, D, M, N and V and of the micro-ops (R138, R146 to R151,
R248; the words of R441). -/
def Obligations.SpecWords : Prop :=
  decodeSlot false .n 0x08014004 = .ok (.cntWait ⟨0, 0, 0⟩ 5 4) ∧
  decodeSlot false .n 0x0901C500 = .ok (.cntRd ⟨0, 0, 0⟩ 7 5) ∧
  decodeSlot false .n 0x070FC001 = .ok (.cntAdd ⟨0, 0, 0⟩ 63 1) ∧
  decodeSlot false .a 0x30024330 = .ok (.ld ⟨0, 0, 0⟩ 9 0 3 48) ∧
  decodeSlot false .l 0x0C050004 = .ok (.geoLd ⟨0, 0, 0⟩ 5 0 4) ∧
  decodeSlot false .c 0x02004620 = .ok (.slAffCopy ⟨0, 0, 0⟩ 1 1 2) ∧
  decodeSlot false .d 0x0D008C00 = .ok (.sWb ⟨0, 0, 0⟩ 2 3) ∧
  decodeSlot false .m 0x84008000 = .ok (.mcall ⟨1, 0, 0⟩ 2 0) ∧
  decodeSlot false .v 0x05000200 = .ok (.barAw ⟨0, 0, 0⟩ 1) ∧
  decodeSlot true .v 0x2702E300 = .ok (.tkStart ⟨0, 0, 0⟩ 11 3) ∧
  decodeMicro 0x0D000001 = some (.muLda 2 0 0 0 1) ∧
  decodeMicro 0x34000000 = some .muEnd

/-- A step runs the decoded instruction: the turn on the agenda of a queue's head is `exec` of the word it decodes to, with
that word as the context; a micro-op turn is `exec` of the routine's microword; an event turn is `exec` of the event; a
dispatch turn is BUNDLE_DISPATCH of its unit; a stored bit flips, a package shootdown starts, a drive ceases or resumes to answer, and a
word of another package arrives (R37, R369, R378, R432). With nothing on the agenda the turn comes from the rotation. Around `exec` the
step only takes the turn from the agenda and sets the focus (the model's own schedule, log entry 2). -/
def Obligations.StepRunsTheInstruction : Prop :=
  ∀ (s : State) (rest : List Turn),
    (∀ (u : Agent) (sl : Slot) (e : Entry) (tail : List Entry) (i : Instr),
      s.agenda = ⟨u, .issue sl⟩ :: rest → s.runs u = true → (s.seqOf u).traps = [] →
      (s.seqOf u).queues.get [] sl.index = e :: tail → decodeSlot u.isGrove sl e.word = .ok i →
      step s = exec i { s with agenda := rest, focus := u, ctx := e }) ∧
    (∀ (t : Nat) (r : Routine) (i : Instr),
      s.agenda = ⟨.tile t, .micro⟩ :: rest → (s.mx t).running = some r → r.upc < 1024 →
      decodeMicro ((s.mx t).store.get 0 r.upc) = some i → step s = exec i { s with agenda := rest, focus := .tile t }) ∧
    (∀ (u : Agent) (i : Instr), s.agenda = ⟨u, .event i⟩ :: rest → encode i = none →
      step s = exec i { s with agenda := rest, focus := u }) ∧
    (∀ (u : Agent), s.agenda = ⟨u, .dispatch⟩ :: rest →
      step s = exec .bundleDispatch { s with agenda := rest, focus := u }) ∧
    (∀ (u : Agent) (x : Upset), s.agenda = ⟨u, .upset x⟩ :: rest → step s = .next (({ s with agenda := rest, focus := u } : State).upset x)) ∧
    (∀ (u : Agent) (page : BitVec 56) (v : BitVec 10), s.agenda = ⟨u, .shootdown page v⟩ :: rest →
      step s = .next (({ s with agenda := rest, focus := u } : State).shootPackage page v)) ∧
    (∀ (u : Agent) (p : Nat) (up : Bool), s.agenda = ⟨u, .drive p up⟩ :: rest →
      step s = .next (({ s with agenda := rest, focus := u } : State).setDrive p up)) ∧
    (∀ (u : Agent) (i : Nat) (header : BitVec 128) (data : Vec) (poison : Bool), s.agenda = ⟨u, .arrive i header data poison⟩ :: rest →
      step s = .next (({ s with agenda := rest, focus := u } : State).arriveFar i header data poison)) ∧
    (∀ (x : Turn), s.agenda = [] → s.turns[s.turn % s.turns.length]? = some x →
      step s = step { s with agenda := [x], turn := s.turn + 1 })

/-- A dispatched bundle with one word and `nop` elsewhere, at a point where nothing else is to be taken: a word of slot A, B or
L takes effect at once as `exec` says, before the pc goes on; any other enters the tail of its queue with the operands it
captures (R111).

What the rules leave open here is the model's choice (log entry 2). -/
def Obligations.BundleRunsItsWord : Prop :=
  ∀ (s : State) (u : Agent) (rest : List Turn) (sl : Slot) (w : BitVec 32) (i : Instr),
    s.agenda = ⟨u, .dispatch⟩ :: rest → s.atBundle u → s.holdsOne u sl w →
    decodeSlot u.isGrove sl w = .ok i → (u.isGrove = true → sl ≠ .c ∧ sl ≠ .d ∧ sl ≠ .m) → (s.seqOf u).prefixes = [] →
    opOf w ≠ 0x01 → opOf w ≠ 0x7f → w.getLsbD 31 = false → (s.seqOf u).holds (hdrOf w) = true →
    let s0 : State := { s with agenda := rest, focus := u }
    let q := s.seqOf u
    let e : Entry := (Active.mk sl w i none).captured q (fun n => (s0.tile s0.tileNo).g.get 0 n)
    let s1 : State := s0.setSeq u { q with prefixes := [] }
    dispatchFault { s0 with ctx := e } i = none →
    (sl.index < 3 → ∃ t, exec i { s1 with ctx := e } = .next t ∧ step s = .next (t.advance q.pcNat [])) ∧
    (3 ≤ sl.index → realigns i = false → actsAtOnce i = false →
      step s = .next ((s1.mapSeq u (fun y => { y with queues := y.queues.set [] sl.index (y.queues.get [] sl.index ++ [e]) })).advance
        q.pcNat []))

/-! ### Results of the scalar group -/

/-- The three-register ALU words (R163): each reads its operands, and its result is scheduled for d with the latency of R115;
nothing else changes, and a result for `s0` is dropped (R109).

The ALU words with one register operand, an immediate, or none (R141, R163): the immediate is signed and an `ext` payload
stands above it; `clz` and `popc` count; `sext` and `zext` keep 8, 16 or 32 bits. -/
def Obligations.AluResults : Prop :=
  (∀ (s : State) (h : Hdr) (d a b : BitVec 6), s.cur.holds h = true →
     let x := s.cur.opnd a
     let y := s.cur.opnd b
     let lands (v : Word) (l : Nat) : State := if d = 0 then s else s.landing (destOf d) (v.setWidth 512) l
     exec (.add h d a b) s = .next (lands (x + y) 1) ∧
     exec (.sub h d a b) s = .next (lands (x - y) 1) ∧
     exec (.mul h d a b) s = .next (lands (x * y) 3) ∧
     exec (.mulh h d a b) s = .next (lands ((x.signExtend 128 * y.signExtend 128).extractLsb' 64 64) 3) ∧
     exec (.mulhn h d a b) s = .next (lands ((x.setWidth 128 * y.setWidth 128).extractLsb' 64 64) 3) ∧
     exec (.and h d a b) s = .next (lands (x &&& y) 1) ∧
     exec (.or h d a b) s = .next (lands (x ||| y) 1) ∧
     exec (.xor h d a b) s = .next (lands (x ^^^ y) 1) ∧
     exec (.andn h d a b) s = .next (lands (x &&& ~~~y) 1) ∧
     exec (.shl h d a b) s = .next (lands (.ofNat 64 (x.toNat * 2 ^ (y.toNat % 64))) 1) ∧
     exec (.shr h d a b) s = .next (lands (.ofNat 64 (x.toNat / 2 ^ (y.toNat % 64))) 1) ∧
     exec (.sra h d a b) s = .next (lands (.ofInt 64 (x.toInt / 2 ^ (y.toNat % 64))) 1) ∧
     exec (.min h d a b) s = .next (lands (.ofInt 64 (min x.toInt y.toInt)) 1) ∧
     exec (.max h d a b) s = .next (lands (.ofInt 64 (max x.toInt y.toInt)) 1) ∧
     exec (.minn h d a b) s = .next (lands (.ofNat 64 (min x.toNat y.toNat)) 1) ∧
     exec (.maxn h d a b) s = .next (lands (.ofNat 64 (max x.toNat y.toNat)) 1)) ∧
  (∀ (s : State) (h : Hdr) (d a : BitVec 6) (k : BitVec 8) (n : BitVec 6), s.cur.holds h = true →
     let x := s.cur.opnd a
     let imm : Int := match s.ctx.ext with
       | none => k.toInt
       | some e => (e ++ k).toInt
     let lands (v : Word) : State := if d = 0 then s else s.landing (destOf d) (v.setWidth 512) 1
     exec (.addi h d a k) s = .next (lands (.ofInt 64 (x.toInt + imm))) ∧
     exec (.li h d k) s = .next (lands (.ofInt 64 imm)) ∧
     exec (.mov h d a) s = .next (lands x) ∧
     exec (.shli h d a n) s = .next (lands (.ofNat 64 (x.toNat * 2 ^ n.toNat))) ∧
     exec (.shri h d a n) s = .next (lands (.ofNat 64 (x.toNat / 2 ^ n.toNat))) ∧
     exec (.srai h d a n) s = .next (lands (.ofInt 64 (x.toInt / 2 ^ n.toNat))) ∧
     (∃ c : Nat, exec (.clz h d a) s = .next (lands (.ofNat 64 c)) ∧ c ≤ 64 ∧ x.toNat < 2 ^ (64 - c) ∧
       (c = 64 ∨ 2 ^ (63 - c) ≤ x.toNat)) ∧
     exec (.popc h d a) s = .next (lands (.ofNat 64 ((List.range 64).countP (fun j => x.toNat / 2 ^ j % 2 = 1)))) ∧
     (∀ e : BitVec 2, e ≠ 3 →
       exec (.sext h d a e) s = .next (lands (.ofInt 64 (Int.bmod (x.toNat : Int) (2 ^ (8 * 2 ^ e.toNat))))) ∧
       exec (.zext h d a e) s = .next (lands (.ofNat 64 (x.toNat % 2 ^ (8 * 2 ^ e.toNat))))))

/-- The words that write or select by predicates (R164): the four conditions of `cmp` and `cmpi`, the four operations of `qop`,
and `sel`. A predicate lands with latency 1, and one written to `q0` is dropped.

`nop`, `nop.y` and `ext` change nothing (R140, R141).

A word of slot A, B or L whose predicate is false has no effect (R139). -/
def Obligations.PredicatesAndIdleWords : Prop :=
  (∀ (s : State) (h : Hdr) (t u v c : BitVec 3) (d a b : BitVec 6) (y5 : BitVec 5) (k : BitVec 8), s.cur.holds h = true →
     let x := s.cur.opnd a
     let y := s.cur.opnd b
     let imm : Word := .ofInt 64 (immSigned s.ctx.ext k)
     let landsQ (z : Bool) : State := if t = 0 then s else s.landing (.q t.toNat) (if z then 1 else 0) 1
     let landsD (z : Word) : State := if d = 0 then s else s.landing (destOf d) (z.setWidth 512) 1
     let bit (n : BitVec 3) : Bool := s.cur.readQ n.toNat = 1
     exec (.cmp h t 0 a b) s = .next (landsQ (decide (x = y))) ∧
     exec (.cmp h t 1 a b) s = .next (landsQ (decide (x ≠ y))) ∧
     exec (.cmp h t 2 a b) s = .next (landsQ (decide (x.toInt < y.toInt))) ∧
     exec (.cmp h t 3 a b) s = .next (landsQ (decide (x.toNat < y.toNat))) ∧
     exec (.cmpi h t 0 a k) s = .next (landsQ (decide (x = imm))) ∧
     exec (.cmpi h t 1 a k) s = .next (landsQ (decide (x ≠ imm))) ∧
     exec (.cmpi h t 2 a k) s = .next (landsQ (decide (x.toInt < imm.toInt))) ∧
     exec (.cmpi h t 3 a k) s = .next (landsQ (decide (x.toNat < imm.toNat))) ∧
     exec (.qop h t u v 0) s = .next (landsQ (bit u && bit v)) ∧
     exec (.qop h t u v 1) s = .next (landsQ (bit u || bit v)) ∧
     exec (.qop h t u v 2) s = .next (landsQ (bit u != bit v)) ∧
     exec (.qop h t u v 3) s = .next (landsQ (bit u && !bit v)) ∧
     exec (.sel h d a y5 c) s = .next (landsD (if bit c then x else s.cur.readS y5.toNat))) ∧
  (∀ (s : State) (x : BitVec 24), exec .nop s = .next s ∧ exec .nopY s = .next s ∧ exec (.ext x) s = .next s) ∧
  (∀ (s : State) (sl : Slot) (w : BitVec 32) (i : Instr), sl = .a ∨ sl = .b ∨ sl = .l → decodeIn sl w = some i →
     s.cur.holds (hdrOf w) = false → exec i s = .next s)

/-- The frame of the words of slots A and B that only compute, and of the address words and `geo.base` and `geo.adv` of slot L:
where one goes on, at most one scheduled result is added to the focus unit, and every register, every predicate, every
geometry, every other unit and every byte of memory reads as before (R109, R110, R115). -/
def Obligations.ComputingWordsFrame : Prop :=
  ∀ (s t : State) (i : Instr), computes i = true → exec i s = .next t →
    (t = s ∨ ∃ r : Pending, t = s.setSeq s.focus { s.cur with lands := s.cur.lands ++ [r] } ∧ some r.dest = resultDest i) ∧
    (∀ (u : Agent) (n : Nat), (t.seqOf u).readS n = (s.seqOf u).readS n ∧ (t.seqOf u).readA n = (s.seqOf u).readA n ∧
      (t.seqOf u).readQ n = (s.seqOf u).readQ n ∧ (t.seqOf u).readK n = (s.seqOf u).readK n ∧ (t.seqOf u).pc = (s.seqOf u).pc ∧
      (t.seqOf u).ctl = (s.seqOf u).ctl) ∧
    (∀ (n k : Nat), (t.tile n).g.get 0 k = (s.tile n).g.get 0 k) ∧
    (∀ a : Nat, t.mem.bytes.read a = s.mem.bytes.read a)

/-- Results land: when a bundle time passes, every scheduled result of a unit that comes due is in its register, wherever it stands among the
results in flight and however many come due with it, zero-extended in an address register; those not due come one bundle time nearer; a
register that no due result names keeps its value. Due results name different registers, and no reply is outstanding to one of them. A
result to `s0` or `q0` leaves it 0 or 1 (R109, R110, R115).

Two results due at one register in one bundle time are both dropped and a trap 0x06 is found, with the bundle, the word and
the slot of the later one (R118). -/
def Obligations.ResultsLand : Prop :=
  (∀ (s : State) (u : Agent),
     let q := s.seqOf u
     let due := q.lands.filter (fun r => decide (r.delay ≤ 1))
     (due.map (fun r => r.dest)).Nodup → (∀ r ∈ due, ∀ p ∈ q.reqs, p.dest ≠ some r.dest) →
     (u.isGrove = true → ∀ r ∈ due, ∀ n, r.dest ≠ .g n) →
     let t := s.tick u none
     (t.seqOf u).lands = (q.lands.filter (fun r => decide (1 < r.delay))).map (fun p => { p with delay := p.delay - 1 }) ∧
     (t.seqOf u).traps = q.traps ∧
     (∀ r ∈ due, ∀ n, (r.dest = .s n → (t.seqOf u).readS n = if n = 0 then 0 else r.val.setWidth 64) ∧
       (r.dest = .a n → (t.seqOf u).readA n = r.val.setWidth 72) ∧
       (r.dest = .q n → (t.seqOf u).readQ n = if n = 0 then 1 else r.val.setWidth 1) ∧
       (∀ k, u = .tile k → r.dest = .g n → (t.tile k).g.get 0 n = r.val)) ∧
     (∀ n, ((∀ r ∈ due, r.dest ≠ .s n) → (t.seqOf u).readS n = q.readS n) ∧
       ((∀ r ∈ due, r.dest ≠ .a n) → (t.seqOf u).readA n = q.readA n) ∧
       ((∀ r ∈ due, r.dest ≠ .q n) → (t.seqOf u).readQ n = q.readQ n) ∧
       (∀ k, (u = .tile k → ∀ r ∈ due, r.dest ≠ .g n) → (t.tile k).g.get 0 n = (s.tile k).g.get 0 n))) ∧
  (∀ (s : State) (u : Agent) (a b : Pending),
     (s.seqOf u).lands = [a, b] → a.dest = b.dest → a.delay ≤ 1 → b.delay ≤ 1 → a.num ≤ b.num → (a.num = b.num → a.slot < b.slot) →
     (∀ p ∈ (s.seqOf u).reqs, p.dest ≠ some b.dest) →
     let t := s.tick u none
     (t.seqOf u).traps = (s.seqOf u).traps ++ [⟨0x06, trapInfo b.word 0 b.slot, b.slot, some b.pc, none⟩] ∧
     (t.seqOf u).lands = [] ∧
     (∀ n, (t.seqOf u).readS n = (s.seqOf u).readS n ∧ (t.seqOf u).readA n = (s.seqOf u).readA n ∧
       (t.seqOf u).readQ n = (s.seqOf u).readQ n))

/-! ### Memory of slots A and L -/

/-- The tile-scratchpad loads (R165, R166): where the checks of R165 pass, the bytes at EA, the first least significant, land
after four bundle times, sign-extended by `ld` and zero-extended by `ldn`; memory keeps every byte.

The tile-scratchpad stores (R166, R176): `st` writes the low bytes of its data register at EA, `geo.st` the 64 bytes of its
geometry; every byte outside these, and everything but memory, is as before.

The order of R165: a core access to the tile scratchpad traps at its own bundle with the first of the checks that fails,
and changes nothing else: out of bounds, misaligned, a carve-out access outside the carve-out, a pane the engines own, and for
loads a poisoned word.

The order of R165 for `geo.ld` and `geo.st`, whose access is 64 bytes at its own address: the same checks, traps and detail (R176).

The geometry words of slot L (R176): `geo.ld` loads 64 bytes, landing after four bundle times; `geo.base` replaces bits
455–384 by an address register and `geo.adv` adds stride times scalar to them, modulo 2^72, landing after one. -/
def Obligations.TileLoadsAndStores : Prop :=
  (∀ (s : State) (t : Nat) (h : Hdr) (d : BitVec 6) (b : BitVec 4) (z : BitVec 2) (k : BitVec 8),
     s.focus = .tile t → s.cur.holds h = true → s.coreReaches t b (s.ea b z k) (accessSize z) →
     s.mem.poisoned (tspAddr t (s.ea b z k)) (accessSize z) = false →
     let v := s.readNat (tspAddr t (s.ea b z k)) (accessSize z)
     let lands (x : Word) : State := if d = 0 then s else s.landing (destOf d) (x.setWidth 512) 4
     exec (.ld h d b z k) s = .next (lands (.ofInt 64 (Int.bmod (v : Int) (2 ^ (8 * accessSize z))))) ∧
     exec (.ldn h d b z k) s = .next (lands (.ofNat 64 v))) ∧
  (∀ (s : State) (t : Nat) (h : Hdr) (b : BitVec 4) (k : BitVec 8), s.focus = .tile t → s.cur.holds h = true →
     (∀ (r : BitVec 6) (z : BitVec 2), s.coreReaches t b (s.ea b z k) (accessSize z) →
       ∃ m : Mem, exec (.st h r b z k) s = .next { s with mem := m } ∧
         s.stored m (tspAddr t (s.ea b z k)) (accessSize z) (s.cur.opnd r).toNat) ∧
     (∀ g : BitVec 4, let ea := s.cur.effAddr b (immSigned s.ctx.ext k) 64
       s.coreReaches t b ea 64 →
       ∃ m : Mem, exec (.geoSt h g b k) s = .next { s with mem := m } ∧
         s.stored m (tspAddr t ea) 64 ((s.tile t).g.get 0 g.toNat).toNat)) ∧
  (∀ (s : State) (t : Nat) (h : Hdr) (d : BitVec 6) (b : BitVec 4) (z : BitVec 2) (k : BitVec 8) (i : Instr),
     s.focus = .tile t → s.cur.holds h = true → i = .ld h d b z k ∨ i = .ldn h d b z k ∨ i = .st h d b z k →
     let ea := s.ea b z k
     let traps (c : BitVec 8) (info : Word) : Prop := exec i s = .next (s.takeTrap s.focus c s.ctx.pc info)
     let detail := trapInfo s.ctx.word (ea % 2 ^ 20) s.ctx.slot.index
     let own : Bool := b = 15 && !(s.tile t).seq.ctl.inCarve (ea / 4096)
     (2 ^ 20 ≤ ea → traps 0x0b detail) ∧
     (ea < 2 ^ 20 → ea % accessSize z ≠ 0 → traps 0x09 detail) ∧
     (ea < 2 ^ 20 → ea % accessSize z = 0 → own = true → traps 0x0b (.ofNat 64 (2 ^ 63 + ea))) ∧
     (ea < 2 ^ 20 → ea % accessSize z = 0 → own = false → (s.tile t).engineOwns (ea / 4096) = true → traps 0x0a detail) ∧
     (s.coreReaches t b ea (accessSize z) → s.mem.poisoned (tspAddr t ea) (accessSize z) = true → i ≠ .st h d b z k → traps 0x13 detail)) ∧
  (∀ (s : State) (t : Nat) (h : Hdr) (g b : BitVec 4) (k : BitVec 8) (i : Instr),
     s.focus = .tile t → s.cur.holds h = true → i = .geoLd h g b k ∨ i = .geoSt h g b k →
     let ea := s.cur.effAddr b (immSigned s.ctx.ext k) 64
     let traps (c : BitVec 8) (info : Word) : Prop := exec i s = .next (s.takeTrap s.focus c s.ctx.pc info)
     let detail := trapInfo s.ctx.word (ea % 2 ^ 20) s.ctx.slot.index
     let own : Bool := b = 15 && !(s.tile t).seq.ctl.inCarve (ea / 4096)
     (2 ^ 20 ≤ ea → traps 0x0b detail) ∧
     (ea < 2 ^ 20 → ea % 64 ≠ 0 → traps 0x09 detail) ∧
     (ea < 2 ^ 20 → ea % 64 = 0 → own = true → traps 0x0b (.ofNat 64 (2 ^ 63 + ea))) ∧
     (ea < 2 ^ 20 → ea % 64 = 0 → own = false → (s.tile t).engineOwns (ea / 4096) = true → traps 0x0a detail) ∧
     (s.coreReaches t b ea 64 → s.mem.poisoned (tspAddr t ea) 64 = true → i = .geoLd h g b k → traps 0x13 detail)) ∧
  (∀ (s : State) (t : Nat) (h : Hdr) (g b : BitVec 4) (k : BitVec 8) (n : BitVec 2) (c : BitVec 6),
     s.focus = .tile t → s.cur.holds h = true →
     let old : Vec := (s.tile t).g.get 0 g.toNat
     let base (a : Addr) : Vec := old.extractLsb' 456 56 ++ a ++ old.extractLsb' 0 384
     let ea := s.cur.effAddr b (immSigned s.ctx.ext k) 64
     (s.coreReaches t b ea 64 → s.mem.poisoned (tspAddr t ea) 64 = false →
       exec (.geoLd h g b k) s = .next (s.landing (.g g.toNat) (.ofNat 512 (s.readNat (tspAddr t ea) 64)) 4)) ∧
     exec (.geoBase h g b) s = .next (s.landing (.g g.toNat) (base (s.cur.readA b.toNat)) 1) ∧
     exec (.geoAdv h g n c) s = .next (s.landing (.g g.toNat)
       (base (.ofInt 72 ((old.extractLsb' 384 72).toInt + (old.extractLsb' (128 + 40 * n.toNat) 40).toInt * (s.cur.opnd c).toInt))) 1))

/-- The address words (R175): address registers are read whole, scalars sign-extended where they are added and zero-extended by
`aset`, sums are modulo 2^72, and each result lands after one bundle time. -/
def Obligations.AddressResults : Prop :=
  ∀ (s : State) (h : Hdr) (d a : BitVec 4) (x y : BitVec 6) (n : BitVec 5) (k : BitVec 8), s.cur.holds h = true →
    let whole (c : BitVec 6) : Addr := if 32 ≤ c.toNat ∧ c.toNat < 48 then s.cur.readA (c.toNat - 32) else (s.cur.opnd c).signExtend 72
    let landsA (v : Addr) : State := s.landing (.a d.toNat) (v.setWidth 512) 1
    let r := s.cur.readA a.toNat
    exec (.aadd h d x y) s = .next (landsA (whole x + whole y)) ∧
    exec (.aaddi h d x k) s = .next (landsA (whole x + .ofInt 72 (immSigned s.ctx.ext k))) ∧
    exec (.amov h d a) s = .next (landsA r) ∧
    exec (.aset h d x) s = .next (landsA ((s.cur.opnd x).setWidth 72)) ∧
    exec (.aget h n a) s = .next (if n = 0 then s else s.landing (.s n.toNat) (.ofNat 512 (r.toNat % 2 ^ 64)) 1) ∧
    exec (.ahi h d a k) s = .next (landsA (.ofNat 72 (k.toNat * 2 ^ 64 + r.toNat % 2 ^ 64)))

/-- The words of slot A to the grove scratchpad (R167, R168): where EA lies in it and is a multiple of the size, the request is
outstanding from its bundle on, with its destination, its address, its data and its task; nothing else changes. With no request
outstanding before, and outside tasks, channels and poison, the load's reply writes the bytes at EA to its register, sign-extended by
`ldg` and zero-extended by `ldgn`, and the store of `stg` writes its bytes there. An address beyond the grove scratchpad traps 0x0B at the
bundle, and one that is not a multiple of the size 0x09, with address bits 23 to 0 as their detail.

A store outside a task performs at its bank (R168, R289, R293): with no earlier request to keep it, in no channel it writes its
bytes and nothing else; in a channel whose word is absent it also makes the word present; on a present word it writes nothing and a
trap 0x16 is found.

A store of a task and in no channel enters the task's log, which holds its bytes; every other unit is as before. The log takes its
place in HBM (log entry 60), and where it would need more than 262,144 blocks, those of the task's remote writes with them, the task
ends aborted-fault with 0x0B instead (R168, R317, R375).

What the rules leave open here is the model's choice (log entries 23 and 60). -/
def Obligations.GroveLoadsAndStores : Prop :=
  (∀ (s : State) (h : Hdr) (d : BitVec 6) (b : BitVec 4) (z : BitVec 2) (k : BitVec 8), s.cur.holds h = true →
     let ea := s.ea b z k
     let n := accessSize z
     let a := gspAddr s.focus.grove ea
     (∀ i : Instr, i = .ldg h d b z k ∨ i = .ldgn h d b z k ∨ i = .stg h d b z k →
       let traps (c : BitVec 8) : Prop := exec i s = .next (s.takeTrap s.focus c s.ctx.pc (trapInfo s.ctx.word (ea % 2 ^ 24) s.ctx.slot.index))
       (2 ^ 24 ≤ ea → traps 0x0b) ∧ (ea < 2 ^ 24 → ea % n ≠ 0 → traps 0x09)) ∧
     (ea < 2 ^ 24 → ea % n = 0 →
     let asks (kind : ReqKind) (dest : Option Dest) (data : Word) : State := s.setSeq s.focus { s.cur with reqs := s.cur.reqs ++
       [s.req kind dest ea n data 0 (s.unitTask s.focus)] }
     let alone : Prop := s.noneOutstanding ∧ s.unitTask s.focus = false ∧ (s.grove s.focus.grove).channelOf ea = none
     let loads (i : Instr) (v : Word) : Prop := ∃ t, exec i s = .next t ∧
       exec (.scoreboardReply 0) t = .next (s.setSeq s.focus (s.cur.given (destOf d) v))
     exec (.ldg h d b z k) s = .next (asks (.load true) (some (destOf d)) 0) ∧
     exec (.ldgn h d b z k) s = .next (asks (.load false) (some (destOf d)) 0) ∧
     exec (.stg h d b z k) s = .next (asks .store none (s.cur.opnd d)) ∧
     (alone → s.mem.poisoned a n = false →
       loads (.ldg h d b z k) (.ofInt 64 (Int.bmod (s.readNat a n : Int) (2 ^ (8 * n)))) ∧
       loads (.ldgn h d b z k) (.ofNat 64 (s.readNat a n))) ∧
     (alone → ∃ t m, s.stored m a n (s.cur.opnd d).toNat ∧ exec (.stg h d b z k) s = .next t ∧
       exec (.scoreboardReply 0) t = .next (({ s with mem := m } : State).setSeq s.focus s.cur)))) ∧
  (∀ (s : State) (i : Nat) (r : Req), s.stopped s.focus = false → s.cur.reqs[i]? = some r → r.kind = .store → r.inTask = false →
     s.noneBefore i r → r.size = 1 ∨ r.size = 2 ∨ r.size = 4 ∨ r.size = 8 → r.ea % r.size = 0 →
     let g := s.focus.grove
     let a := gspAddr g r.ea
     let rest : State := s.setSeq s.focus { s.cur with reqs := s.cur.reqs.eraseIdx i }
     ((s.grove g).channelOf r.ea = none →
       ∃ m : Mem, exec (.scoreboardReply i) s = .next { rest with mem := m } ∧ s.stored m a r.size r.data.toNat) ∧
     ((s.grove g).channelOf r.ea ≠ none → s.present a = false →
       ∃ m : Mem, s.stored m a r.size r.data.toNat ∧
         exec (.scoreboardReply i) s = .next { rest with mem := { m with present := insertNat (a / 64 * 64) m.present } }) ∧
     ((s.grove g).channelOf r.ea ≠ none → s.present a = true →
       exec (.scoreboardReply i) s = .next (s.setSeq s.focus { s.cur with
         reqs := s.cur.reqs.eraseIdx i, traps := s.cur.traps ++ [⟨0x16, trapInfo r.word 0 0, 0, none, none⟩] }))) ∧
  (∀ (s : State) (t i : Nat) (k : Task) (r : Req), s.focus = .tile t → s.stopped s.focus = false → s.cur.reqs[i]? = some r →
     r.kind = .store → r.inTask = true → s.noneBefore i r → (s.tile t).task = some k →
     r.size = 1 ∨ r.size = 2 ∨ r.size = 4 ∨ r.size = 8 → r.ea % r.size = 0 → (s.grove (groveOf t)).channelOf r.ea = none →
     let a := gspAddr (groveOf t) r.ea
     let log := (leBytes r.size r.data.toNat).zipIdx.foldl (fun l e => KMap.put l (a + e.2) e.1) k.log
     (blockCount log k.remote ≤ 262144 →
       exec (.scoreboardReply i) s = .next ((s.placeLog t (blockCount k.log k.remote) (blockCount log k.remote)).setTile t { s.tile t with
         seq := { s.cur with reqs := s.cur.reqs.eraseIdx i }
         task := some { k with log := log, part := (partWords a r.size).foldl (fun l w => insertNat w l) k.part } })) ∧
     (262144 < blockCount log k.remote → exec (.scoreboardReply i) s = .next
       ((s.setSeq s.focus { s.cur with reqs := s.cur.reqs.eraseIdx i }).endTask t .fault 0x0b)))

/-- The eight atomics (R169): each is a request with its operands, of no task; with none outstanding before it, outside channels and
poison, its turn at the bank replaces the 32 or 64 bits at its address at once by what R169 computes from the old value, b and, for
`amo.cas`, the old content of d, and the old value comes to d; every other byte and register is as before. One whose address lies in a
channel changes nothing and leaves a trap 0x16 (R293). An address beyond the grove
scratchpad traps 0x0B at the bundle, and one that is not a multiple of the size 0x09, with address bits 23 to 0 as their detail
(R167).

What the rules leave open here is the model's choice (log entry 23). -/
def Obligations.AtomicsPerform : Prop :=
  ∀ (s : State) (h : Hdr) (d : BitVec 6) (b : BitVec 4) (z : BitVec 1) (c : BitVec 6), s.cur.holds h = true →
    let ea := (s.cur.readA b.toNat).toNat
    let n := if z = 1 then 8 else 4
    let a := gspAddr s.focus.grove ea
    let old := s.readNat a n
    let x := (s.cur.opnd c).toNat % 2 ^ (8 * n)
    let y := (s.cur.opnd d).toNat % 2 ^ (8 * n)
    let si (v : Nat) : Int := Int.bmod (v : Int) (2 ^ (8 * n))
    let eight : List (Instr × ReqKind × Nat) := [
      (.amoAdd h d b z c, .add, (old + x) % 2 ^ (8 * n)), (.amoMin h d b z c, .min, if si x < si old then x else old),
      (.amoMax h d b z c, .max, if si old < si x then x else old), (.amoAnd h d b z c, .and, old &&& x),
      (.amoOr h d b z c, .or, old ||| x), (.amoXor h d b z c, .xor, old ^^^ x), (.amoSwap h d b z c, .swap, x),
      (.amoCas h d b z c, .cas, if old = y then x else old)]
    let traps (i : Instr) (cause : BitVec 8) : Prop :=
      exec i s = .next (s.takeTrap s.focus cause s.ctx.pc (trapInfo s.ctx.word (ea % 2 ^ 24) s.ctx.slot.index))
    let asks (k : ReqKind) : State := s.setSeq s.focus { s.cur with reqs := s.cur.reqs ++
      [s.req k (some (destOf d)) ea n (s.cur.opnd c) (s.cur.opnd d) false] }
    ∀ e ∈ eight,
      (2 ^ 24 ≤ ea → traps e.1 0x0b) ∧ (ea < 2 ^ 24 → ea % n ≠ 0 → traps e.1 0x09) ∧
      (ea < 2 ^ 24 → ea % n = 0 → exec e.1 s = .next (asks e.2.1)) ∧
      (ea < 2 ^ 24 → ea % n = 0 → s.noneOutstanding → (s.grove s.focus.grove).channelOf ea = none → s.mem.poisoned a n = false →
        ∃ t m, s.stored m a n e.2.2 ∧ exec e.1 s = .next t ∧ exec (.scoreboardReply 0) t = .next
          (({ s with mem := m } : State).setSeq s.focus (s.cur.given (destOf d) (.ofNat 64 old)))) ∧
      (ea < 2 ^ 24 → ea % n = 0 → s.noneOutstanding → (s.grove s.focus.grove).channelOf ea ≠ none →
        ∃ t, exec e.1 s = .next t ∧ exec (.scoreboardReply 0) t = .next (s.setSeq s.focus { s.cur with
          traps := s.cur.traps ++ [⟨0x16, trapInfo s.ctx.word 0 0, 0, none, none⟩] }))

/-- The reply of a load arrives (R116, R167): outside tasks, channels and poison, with no earlier request to keep it from its bank, the
request leaves the outstanding ones and the bytes it finds are in its register.

The load of a task reads the task's own writes (R167, R317, R320): in no channel and unpoisoned, each byte that the task's log holds
comes from the log and every other from memory; the granules it touches enter the read signature, and the log stays.

A channel word that becomes present releases the load that waits on it (R293): the one outstanding load of a tile of the
grove, outside a task, gets the word's bytes, and its tile alone changes; where no unit of the grove waits, nothing does.

What the rules leave open here is the model's choice (log entry 23). -/
def Obligations.RepliesAndReleases : Prop :=
  (∀ (s : State) (i : Nat) (r : Req) (d : Dest), s.stopped s.focus = false → s.cur.reqs[i]? = some r → r.dest = some d →
     (∃ n, d = .s n ∨ d = .a n) → s.noneBefore i r → r.inTask = false →
     let a := gspAddr s.focus.grove r.ea
     (s.grove s.focus.grove).channelOf r.ea = none → s.mem.poisoned a r.size = false →
     let gives (v : Word) : Prop := exec (.scoreboardReply i) s = .next (s.setSeq s.focus
       (({ s.cur with reqs := s.cur.reqs.eraseIdx i } : Seq).given d v))
     (r.kind = .load false → gives (.ofNat 64 (s.readNat a r.size))) ∧
     (r.kind = .load true → gives (.ofInt 64 (Int.bmod (s.readNat a r.size : Int) (2 ^ (8 * r.size)))))) ∧
  (∀ (s : State) (t i : Nat) (r : Req) (k : Task) (n : Nat) (signed : Bool), s.focus = .tile t → s.stopped s.focus = false →
     s.cur.reqs[i]? = some r → r.dest = some (.s n) → n ≠ 0 → s.noneBefore i r → r.inTask = true → r.kind = .load signed →
     (s.tile t).task = some k →
     let a := gspAddr (groveOf t) r.ea
     (s.grove (groveOf t)).channelOf r.ea = none → s.mem.poisoned a r.size = false →
     let v := leNat ((List.range r.size).map (fun j => ((KMap.get? k.log (a + j)).getD (s.mem.bytes.read (a + j)))))
     let word : Word := if signed then .ofInt 64 (Int.bmod (v : Int) (2 ^ (8 * r.size))) else .ofNat 64 v
     exec (.scoreboardReply i) s = .next (s.setTile t { s.tile t with
       seq := { s.cur with reqs := s.cur.reqs.eraseIdx i, s := s.cur.s.set 0 n word }
       task := some { k with signature := (granules a r.size).foldl (fun sig b => signKey sig (granuleKey b)) k.signature } })) ∧
  (∀ (s : State) (g w : Nat),
     ((∀ u ∈ groveUnits g, (s.seqOf u).reqs = []) → exec (.channelWordPresent g w) s = .next s) ∧
     (∀ (p n : Nat) (r : Req), p < 17 → (∀ u ∈ groveUnits g, u ≠ .tile (tileAt g p) → (s.seqOf u).reqs = []) →
       (s.tile (tileAt g p)).freeze = none → (s.tile (tileAt g p)).seq.reqs = [r] → r.kind = .load false → r.inTask = false →
       r.val = none → (s.tile (tileAt g p)).seq.handlers.flatMap (fun h => h.image.reqs) = [] → r.dest = some (.s n) → n ≠ 0 → r.ea / 64 = w → s.present (gspAddr g r.ea) = true →
       s.mem.poisoned (gspAddr g r.ea) r.size = false →
       exec (.channelWordPresent g w) s = .next (s.setTile (tileAt g p) { s.tile (tileAt g p) with seq := {
         (s.tile (tileAt g p)).seq with reqs := [], s := (s.tile (tileAt g p)).seq.s.set 0 n (.ofNat 64
           (s.readNat (gspAddr g r.ea) r.size)) } })))

/-! ### Control, traps and handlers -/

/-- Branches (R170): `br` and `call` go to the bundle plus their offset, `jmp`, `callr` and `ret` to bits 10–0 of a register;
`call` and `callr` also give `s30` the next bundle's index, landing after one bundle time. Nothing else changes.

The next bundle (R107, R170, R173): after a bundle's words the pc is the target of a taken branch; else, at the end of the
innermost live level, its start with the index one higher, or past its end with the level popped; else the bundle after. -/
def Obligations.BranchesAndTheNextBundle : Prop :=
  (∀ (s : State) (h : Hdr) (k : BitVec 20) (a : BitVec 6), s.cur.holds h = true →
     let goes (b : Int) : State := s.setSeq s.focus { s.cur with branch := some b }
     let linking (b : Int) : State := s.setSeq s.focus { s.cur with branch := some b, lands := s.cur.lands ++
       [⟨.s 30, .ofNat 512 (s.ctx.pc + 1), 1, s.ctx.num, s.ctx.pc, s.ctx.word, s.ctx.slot.index⟩] }
     let rel : Int := match s.ctx.ext with
       | none => s.ctx.pc + k.toInt
       | some e => s.ctx.pc + (e ++ k).toInt
     let reg : Int := ((s.cur.opnd a).toNat % 2048 : Nat)
     exec (.br h k) s = .next (goes rel) ∧ exec (.call h k) s = .next (linking rel) ∧
     exec (.jmp h a) s = .next (goes reg) ∧ exec (.ret h a) s = .next (goes reg) ∧ exec (.callr h a) s = .next (linking reg)) ∧
  (∀ (s : State) (pc : Nat) (pays : KMap (BitVec 24)), s.cur.next = none → s.cur.loopDone = false → s.cur.handlers = [] →
     s.cur.lands = [] →
     let t := s.advance pc pays
     (∀ b, s.cur.branch = some b → t.cur.pc = b ∧ t.cur.loops = s.cur.loops) ∧
     (s.cur.branch = none →
       (∀ k rest, s.cur.loops = k :: rest → k.last = pc → k.index.toNat + 1 < k.trip.toNat →
         t.cur.pc = k.start ∧ t.cur.loops = { k with index := k.index + 1 } :: rest ∧ t.cur.boundary = true) ∧
       (∀ k rest, s.cur.loops = k :: rest → k.last = pc → k.trip.toNat ≤ k.index.toNat + 1 →
         t.cur.pc = pc + 1 ∧ t.cur.loops = rest) ∧
       ((∀ k ∈ s.cur.loops.head?, k.last ≠ pc) → t.cur.pc = pc + 1 ∧ t.cur.loops = s.cur.loops)) ∧
     t.cur.num = s.cur.num + 1 ∧ t.cur.branch = none)

/-- Loop words (R172, R174): a count of 0 goes past the body, any other opens a level of that trip count at index 0; `lexit`
pops the innermost level and `lnext` ends its iteration, in place of the action at the level's end. With six levels open a
nonzero count traps with 0x07, and with none open `lexit` and `lnext` trap with 0x08. -/
def Obligations.LoopWords : Prop :=
  ∀ (s : State) (h : Hdr) (l : BitVec 11) (c : BitVec 6) (n : BitVec 8), s.cur.holds h = true →
    let skip : State := s.setSeq s.focus { s.cur with next := some ((s.ctx.pc + l.toNat + 2 : Nat) : Int) }
    let opens (k : Nat) : State := s.setSeq s.focus { s.cur with
      loops := ⟨s.ctx.pc + 1, s.ctx.pc + l.toNat + 1, .ofNat 32 k, 0⟩ :: s.cur.loops
      next := some ((s.ctx.pc + 1 : Nat) : Int), began := true }
    let traps (i : Instr) (e : BitVec 8) : Prop := exec i s = .next (s.takeTrap s.focus e s.ctx.pc (trapInfo s.ctx.word 0 s.ctx.slot.index))
    let k := (s.cur.opnd c).toNat % 2 ^ 32
    let m := immUnsigned s.ctx.ext n
    (k = 0 → exec (.loop h l c) s = .next skip) ∧ (m = 0 → exec (.loopi h l n) s = .next skip) ∧
    (k ≠ 0 → s.cur.loops.length ≠ 6 → exec (.loop h l c) s = .next (opens k)) ∧
    (m ≠ 0 → s.cur.loops.length ≠ 6 → exec (.loopi h l n) s = .next (opens m)) ∧
    (k ≠ 0 → s.cur.loops.length = 6 → traps (.loop h l c) 0x07) ∧ (m ≠ 0 → s.cur.loops.length = 6 → traps (.loopi h l n) 0x07) ∧
    (s.cur.handlers = [] → s.cur.loops = [] → traps (.lexit h) 0x08 ∧ traps (.lnext h) 0x08) ∧
    (∀ x rest, s.cur.handlers = [] → s.cur.loops = x :: rest →
      exec (.lexit h) s = .next (s.setSeq s.focus { s.cur with loops := rest, loopDone := true }) ∧
      exec (.lnext h) s = .next (s.setSeq s.focus (if x.index.toNat + 1 < x.trip.toNat
        then { s.cur with loops := { x with index := x.index + 1 } :: rest, next := some (x.start : Int), began := true, loopDone := true }
        else { s.cur with loops := rest, next := some ((x.last : Int) + 1), loopDone := true })))

/-- `trap` and `brk` find software trap 0x0E and break 0x0D with their immediate in `trapinfo` bits 10–3 (R171), and a trap
that a unit has found is taken before its next dispatch, with `trappc` the bundle that would come next (R162, R171).

Taking a trap (R261): where `tvec` is set and no trap handler runs, nor an event handler on a grove sequencer, the landing
buffer captures what is in flight, `trapcause`, `trappc` and `trapinfo` are written, the loop depth is kept, and the next bundle
is `tvec`; every register, loop and barrier of the unit and everything outside its sequencer is as before. A queue word that has found a
trap too, which is not the one taken, stands at the head of its queue again (R264).

A tile that cannot enter a trap handler, `tvec` being 0 or one running, stops as escalated with the trap registers written
and posts event 2 with its cause, `trappc` and `trapinfo`, which stands last in its grove's queue where no other event of the cycle
does (R263, R298, R299). -/
def Obligations.TrapsAreTaken : Prop :=
  (∀ (s : State),
     (∀ (h : Hdr) (k : BitVec 8), s.cur.holds h = true →
       exec (.trap h k) s = .next (s.finding 0x0e (trapInfo s.ctx.word k.toNat s.ctx.slot.index) s.ctx.slot.index) ∧
       exec (.brk h k) s = .next (s.finding 0x0d (trapInfo s.ctx.word k.toNat s.ctx.slot.index) s.ctx.slot.index)) ∧
     (∀ x : Trap, s.runs s.focus = true → s.cur.prefixes = [] → s.cur.noTrap = false → s.cur.traps = [x] → x.pc = none →
       let t := (s.setSeq s.focus { s.cur with traps := [] }).takeTrap s.focus x.cause (s.cur.pc % 2048).toNat x.info
       exec .trapEntry s = .next t ∧ exec .bundleDispatch s = .next t)) ∧
  (∀ (s : State) (u : Agent) (c : BitVec 8) (pc : Nat) (info : Word),
     (s.seqOf u).ctl.tvec ≠ 0 → (∀ h ∈ (s.seqOf u).handlers, h.kind ≠ .trap ∧ (u.isGrove = true → h.kind ≠ .event)) →
     let q := s.seqOf u
     s.takeTrap u c pc info = s.setSeq u { q with
       pc := (q.ctl.tvec.toNat : Int)
       ctl := { q.ctl with trapcause := c, trappc := .ofNat 11 pc, trapinfo := info }
       handlers := ⟨.trap, q.loops.length, ⟨q.num, if q.boundary then some q.pc else none,
         q.traps.filter (fun x => x.entry.isNone), q.lands, q.lates, q.reqs, q.requeued⟩⟩ :: q.handlers
       lands := [], lates := [], reqs := [], queues := [], prefixes := [], traps := [], noTrap := false, boundary := false } ∧
     ((∀ x ∈ q.traps, x.entry = none) → q.requeued = q.queues) ∧
     (∀ x e, q.traps = [x] → x.entry = some e → ∀ k,
       q.requeued.get [] k = if k = e.slot.index then e :: q.queues.get [] k else q.queues.get [] k)) ∧
  (∀ (s : State) (t : Nat) (c : BitVec 8) (pc : Nat) (info : Word),
     (s.tile t).task = none → (s.tile t).seq.ctl.tvec = 0 ∨ (∃ h ∈ (s.tile t).seq.handlers, h.kind = .trap) →
     let e := evRecord 2 c.toNat (s.logicalOf t) 0 (pc % 2048) info
     let x := s.takeTrap (.tile t) c pc info
     (x.tile t).seq.run = .escalated ∧ (x.tile t).seq.ctl.trapcause = c ∧ (x.tile t).seq.ctl.trappc = .ofNat 11 pc ∧
     (x.tile t).seq.ctl.trapinfo = info ∧
     x.grove (groveOf t) = (s.grove (groveOf t)).pushEvent (s.logicalOf t) e ∧
     ((s.grove (groveOf t)).evCycle = [] → (s.grove (groveOf t)).waiting = [] → (s.grove (groveOf t)).events.length < 64 →
       (x.grove (groveOf t)).events = (s.grove (groveOf t)).events ++ [e]) ∧
     x.mem = s.mem)

/-- UI_ENTRY (R130) and EVENT_ENTRY (R298) complete under exactly their conditions: the user handler's bank `s24` to `s31` changes
places with the shadow bank and `s31` holds the interrupted bundle, the next bundle is `uivec`; the event handler's next bundle is
`evvec` and `evpc` holds the interrupted one. What is in flight is captured, and everything else stands. -/
def Obligations.InterruptEntryStates : Prop :=
  ∀ (s : State), s.runs s.focus = true → s.cur.traps = [] →
    let back : Nat := (s.cur.pc % 2048).toNat
    (∀ t, s.focus = .tile t →
      (s.cur.ctl.uivec ≠ 0 → s.cur.ctl.uipend &&& ~~~s.cur.ctl.uimask ≠ 0 → s.cur.handlers = [] → s.cur.uiGap = true →
          s.cur.prefixes = [] → s.cur.noTrap = false →
        ∃ q, exec .uiEntry s = .next (s.setSeq s.focus q) ∧ q.pc = s.cur.ctl.uivec.toNat ∧
          q.readS 31 = .ofNat 64 back ∧ (∀ n, n < 24 → q.readS n = s.cur.readS n) ∧
          (∀ n, 24 ≤ n → n < 31 → q.readS n = s.cur.shadow.get 0 n) ∧
          (∀ n, 24 ≤ n → n < 32 → q.shadow.get 0 n = s.cur.readS n) ∧
          q.handlers = [⟨.user, s.cur.loops.length, s.cur.capture⟩] ∧ q.lands = [] ∧ q.queues = [] ∧ q.reqs = [] ∧
          q.ctl = s.cur.ctl ∧ q.a = s.cur.a ∧ q.q = s.cur.q ∧ q.loops = s.cur.loops) ∧
      (¬ (s.cur.ctl.uivec ≠ 0 ∧ s.cur.ctl.uipend &&& ~~~s.cur.ctl.uimask ≠ 0 ∧ s.cur.handlers = [] ∧ s.cur.uiGap = true ∧
          s.cur.prefixes = [] ∧ s.cur.noTrap = false) → exec .uiEntry s = .next s)) ∧
    (∀ g, s.focus = .seq g → (s.grove g).events ≠ [] → s.cur.ctl.evvec ≠ 0 →
      s.cur.handlers = [] → s.cur.evGap = true → s.cur.prefixes = [] → s.cur.noTrap = false →
      exec .eventEntry s = .next (s.setSeq s.focus { s.cur.clear with
        pc := (s.cur.ctl.evvec.toNat : Int), boundary := false, handlers := [⟨.event, s.cur.loops.length, s.cur.capture⟩]
        ctl := { s.cur.ctl with evpc := .ofNat 11 back } })) ∧
    (∀ g, s.focus = .seq g → (s.grove g).events = [] → exec .eventEntry s = .next s)

/-- Returns (R119, R131, R188): with its own queues empty but for the word, no reply outstanding, nothing in flight and no trap
found, `tret` resumes at `trappc` from a trap handler and at `evpc` from an event handler; `uiret` first gives the banks back and
resumes at bits 10–0 of `s31`. What the landing buffer captured is in flight again.

`halt` (R189): with every queue issued, no reply outstanding, nothing in flight and the tile's engines at rest, the unit
stops, whatever its handlers hold is gone but for the stores and atomics of the code they interrupted, which go on to their banks, and a
tile posts its kernel's end.

What the rules leave open here is the model's choice (log entries 1, 11 and 23). -/
def Obligations.ReturnsAndHalts : Prop :=
  (∀ (s : State) (h : Hdr) (x : Handler) (rest : List Handler),
     s.cur.handlers = x :: rest → s.cur.reqs = [] → s.cur.lands = [] → s.cur.lates = [] → s.cur.traps = [] → s.ctx.slot = .v →
     (∀ k, s.cur.queues.get [] k = if k = 7 then [s.ctx] else []) → x.image.reqs = [] →
     let back (q : Seq) (pc : Nat) : Prop := q.pc = pc ∧ q.handlers = rest ∧ q.lands = x.image.lands ∧ q.lates = x.image.lates ∧
       q.queues = x.image.queues ∧ q.traps = x.image.traps ∧ q.num = x.image.num ∧ q.a = s.cur.a ∧ q.q = s.cur.q ∧
       q.loops = s.cur.loops ∧ q.ctl = s.cur.ctl ∧ q.bars = s.cur.bars
     (∃ t, exec (.tret h) s = .next t ∧ t.mem = s.mem ∧
       back t.cur (if x.kind = .event then s.cur.ctl.evpc.toNat else s.cur.ctl.trappc.toNat) ∧ t.cur.s = s.cur.s) ∧
     (∃ t, exec (.uiret h) s = .next t ∧ t.mem = s.mem ∧ back t.cur ((s.cur.readS 31).toNat % 2048) ∧
       (∀ n, n < 24 → t.cur.readS n = s.cur.readS n) ∧ (∀ n, 24 ≤ n → n < 32 → t.cur.readS n = s.cur.shadow.get 0 n ∧
         t.cur.shadow.get 0 n = s.cur.readS n))) ∧
  (∀ (s : State) (h : Hdr), s.cur.reqs = [] → s.cur.lands = [] → s.cur.lates = [] → s.cur.traps = [] → s.ctx.slot = .v →
     (∀ k, s.cur.queues.get [] k = if k = 7 then [s.ctx] else []) → (∀ t, s.focus = .tile t → (s.tile t).engaged = false) →
     ∃ t, exec (.halt h) s = .next t ∧ t.cur.run = .halted ∧ t.cur.handlers = [] ∧ t.cur.reqs = s.cur.leftReqs ∧ t.mem = s.mem ∧
       t.cur.pc = s.cur.pc ∧
       (∀ k, s.focus = .tile k →
         t.grove (groveOf k) = (s.grove (groveOf k)).pushEvent (s.logicalOf k) (evRecord 1 0 (s.logicalOf k) 0 0 0)))

/-! ### Stream commands, transfers and counters -/

/-- Stream words at the head of their queue (R194, R195, R201, R208 to R222, R229): with the handle busy or a port in use the word
waits; with a check failing it leaves its queue with the trap of the first cause in the order of R201 and the stream report of its
handle; otherwise its command becomes busy under the handle with the captured geometries, and an `swait` that still waits for the handle's
last completion ends; where none waits nothing else changes (R186).

What the rules leave open here is the model's choice (log entry 12). -/
def Obligations.StreamWordsIssue : Prop :=
  ∀ (s : State) (h : Hdr) (st : BitVec 6) (g n x : BitVec 4),
    let c := s.ctx
    let t := s.tileNo
    let index := need (gFmt c.g2 = 9 || gFmt c.g2 = 13) 0x14 :: s.readFaults t { readUse with spaces := [0, 1, 2] } c.g2
    let plain (e : Vec) := need (decide (gEnc e ≠ 2)) 0x14
    let rows (e : Vec) : Nat := gCount c.g2 * rowLen e
    let cast := s.castGroup t (gField c.g0 % 256)
    let issues (i : Instr) (k : Cmd) (checks : List (Option (BitVec 8))) : Prop :=
      (¬ s.streamOpen k st → exec i s = .next s) ∧
      (s.streamOpen k st → (firstCause checks = none → exec i s = .next (s.started st k)) ∧
        (∀ e, firstCause checks = some e → exec i s = .next (s.refusing e (st.toNat * 2 ^ 23))))
    (∀ (q : Seq) (f : Option FaultRecord), (∀ e ∈ (q.queues.get [] 7).head?, e.begun = false) →
      (∀ y ∈ q.handlers, ∀ e ∈ (y.image.queues.get [] 7).head?, e.begun = false) → q.endSwait st.toNat f = q) ∧
    issues (.slAffPort h st g n) (s.command .feed n.toNat) (s.readFaults t readUse c.g0) ∧
    issues (.slAffCopy h st g x) (s.command .copy 0) (s.readFaults t readUse c.g0 ++ s.writeFaults t writeUse c.g1 ++
      [need (decide (gCount c.g0 = gCount c.g1)) 0x14, need (pairOk (gFmt c.g0) c.g1) 0x15]) ∧
    issues (.ssAffPort h st g n) (s.drainCmd .drain n) (s.copyGroupOk c.g0 :: s.writeFaults t { writeUse with copies := true } c.g0) ∧
    issues (.ssAffCopy h st g x) (s.command .copy 1) (s.readFaults t readUse c.g1 ++ s.writeFaults t writeUse c.g0 ++
      [need (decide (gCount c.g1 = gCount c.g0)) 0x14, need (pairOk (gFmt c.g1) c.g0) 0x15]) ∧
    issues (.slIndPort h st g n x) (s.command .gather n.toNat) (s.readFaults t readUse c.g0 ++ index) ∧
    issues (.slIndCopy h st g n x) (s.command .gatherCopy 0) (s.readFaults t readUse c.g0 ++ s.writeFaults t writeUse c.g1 ++ index ++
      [plain c.g1, need (decide (rows c.g0 = gCount c.g1)) 0x14, need (pairOk (gFmt c.g0) c.g1) 0x15]) ∧
    issues (.ssIndPort h st g n x) (s.drainCmd .scatter n) (s.copyGroupOk c.g0 :: plain c.g0 ::
      (s.writeFaults t { writeUse with copies := true } c.g0 ++ index)) ∧
    issues (.ssIndCopy h st g n x) (s.command .scatterCopy 1) (s.writeFaults t writeUse c.g0 ++ s.readFaults t readUse c.g1 ++ index ++
      [plain c.g0, need (decide (rows c.g0 = gCount c.g1)) 0x14, need (pairOk (gFmt c.g1) c.g0) 0x15]) ∧
    issues (.sRec h st g n) { s.command .recirc n.toNat with geo := BitVec.ofNat 512 g.toNat } [] ∧
    issues (.sConst h st g n) (s.command .const n.toNat) (need (stridesZero c.g0) 0x14 ::
      s.readFaults t { readUse with spaces := [0, 1, 2] } c.g0) ∧
    issues (.sDrop h st g n) (s.command .drop n.toNat) [need (stridesZero c.g0 && decide (gBase c.g0 = 0)) 0x14,
      geoFault { spaces := [0] } c.g0] ∧
    issues (.sMcPort h st g n) { s.command .mcPort n.toNat with members := cast } (need (!cast.isEmpty) 0x14 :: s.readFaults t castUse c.g0) ∧
    issues (.sMcGeo h st g x) { s.command .mcGeo 0 with members := cast } (need (!cast.isEmpty) 0x14 ::
      geoFault { spaces := [0, 6] } c.g1 :: (s.readFaults t castUse c.g0 ++ if gSpace c.g1 = 0 then
        [need (decide (gCount c.g0 = gCount c.g1)) 0x14,
         need (decide ((if gFmt c.g0 = 6 then 4 else gFmt c.g0) = if gFmt c.g1 = 6 then 4 else gFmt c.g1)) 0x15] else [])) ∧
    issues (.sChw h st g n) (s.command .chw n.toNat) (plain c.g0 ::
      s.writeFaults t { spaces := [5], writesMem := true, whole := true } c.g0) ∧
    issues (.sChr h st g n) (s.command .chr n.toNat) (s.readFaults t { spaces := [5], reads := true, whole := true } c.g0) ∧
    issues (.sBar h st g) (s.command .bar 0) [geoFault { spaces := [0, 1, 2] } c.g0] ∧
    issues (.sWb h st g) (s.command .wb 0) (s.readFaults t { readUse with fieldBits := 12 } c.g0) ∧
    issues (.sTok h st g) (s.command .tok 0) (s.writeFaults t { spaces := [5], writesMem := true } c.g0) ∧
    issues (.sResOut h st g n) (s.command .resOut n.toNat) (s.resFaults false) ∧
    issues (.sResIn h st g n) (s.command .resIn n.toNat) (s.resFaults true)

/-- A feeding command's turn (R30, R197, R202, R204, R306): where its port has room and the grove a token for it, the next slot enters
the port and the command moves on; where a packet begins and its header is due, that slot is the header with the fields of R202.

The data words of an affine feed (R198, R199, R202, R226): data word `pos` holds elements from `pos` times the elements of a word on,
each in its lane with the bytes at its address in the tile's scratchpad, or those read ahead of its turn, and zero after the last; the
command moves on by one word. Here no `s.bar` is outstanding, and every element lies in panes of the engines and is not poisoned.

Accesses of one command to different bytes have no order (R232, R316): an element of a command's source that lies in memory may be
read before its turn, and the command keeps its bytes until the turn comes; nothing is sent.

`s.const` (R212) reads its word once, and then sends it again and again: the word read, as it stands, is each data word.

`s.rec` (R211) moves the next word of its output port into its input port unchanged; once a firebreak has passed it pauses.

A multicast to ports, and a store copy (R214 to R216): a member that takes part accepts the next word of the window at its port,
which has room and a token, unless its lead stands at the limit; the word leaves the window when every member has accepted it.

What the rules leave open here is the model's choice (log entry 24). -/
def Obligations.FeedsDeliver : Prop :=
  (∀ (s : State) (t n : Nat) (c : Cmd), n < 64 → s.cmd? t n = some c → c.kind = .feed ∨ c.kind = .gather ∨ c.kind = .chr →
     c.done = false → c.paused = false → c.frozen = false → (s.tile t).still = false → c.pos < c.words → s.portReady t c.port = true →
     s.hasToken t c.port = true →
     (∀ (s' : State) (w : Slot512) (c' : Cmd), s.nextSlot t c = (s', .ok (w, c')) →
       exec (.streamWordDeliver t n) s = .next ((s'.setCmd t n { c' with done := decide (c'.words ≤ c'.pos) }).putPort t c.port w)) ∧
     (c.kind = .feed → c.header = true → c.pos % gPlen c.geo = 0 → ∃ w : Slot512, w.kind = 1 ∧ w.bad = 0 ∧
       exec (.streamWordDeliver t n) s = .next ((s.setCmd t n { c with header := false, done := false }).putPort t c.port w) ∧
       (gFmt c.geo ≠ 6 → (hFmt w.data).toNat = gFmt c.geo) ∧ hScale w.data = c.geo.extractLsb' 472 8 ∧
       hLen w.data = min (gPlen c.geo) (c.words - c.pos) ∧
       (hTag w.data).toNat = (gTagbase c.geo * 256 + c.pos / gPlen c.geo) % 2 ^ 16 ∧ hAxis w.data = gAxis c.geo ∧
       w.data.extractLsb' 0 450 = 0)) ∧
  (∀ (s : State) (t n : Nat) (c : Cmd), n < 64 → s.cmd? t n = some c → c.kind = .feed → c.done = false → c.paused = false →
     c.frozen = false → (s.tile t).still = false → c.pos < c.words → s.portReady t c.port = true → s.hasToken t c.port = true →
     (c.header = false ∨ c.pos % gPlen c.geo ≠ 0) → gSpace c.geo = 0 → gFmt c.geo ≠ 6 → 1 ≤ gFmt c.geo → gFmt c.geo ≤ 13 →
     (∀ e ∈ (s.tile t).str.cmds, e.2.kind ≠ .bar) → (∀ e ∈ c.ahead, e.2.length = gBytes c.geo) →
     let z := gBytes c.geo
     let per := 64 / z
     let a (j : Nat) : Nat := (gAddr c.geo j).toNat
     (∀ j, c.pos * per ≤ j → j < c.count → j < (c.pos + 1) * per →
       a j + z ≤ 2 ^ 20 ∧ (s.tile t).enginesReach (a j) z = true ∧ s.mem.poisoned (tspAddr t (a j)) z = false) →
     ∃ w : Vec, (∀ i, i < per → gf w (8 * z * i) (8 * z) =
         if c.pos * per + i < c.count then (match c.ahead.get? (c.pos * per + i) with
           | some bs => leNat bs
           | none => s.readNat (tspAddr t (a (c.pos * per + i))) z) else 0) ∧
       exec (.streamWordDeliver t n) s = .next ((s.setCmd t n { c with
         pos := c.pos + 1, header := true, waitSince := s.cycle, reply := []
         ahead := c.ahead.filter (fun e => decide ((c.pos + 1) * per ≤ e.1)), done := decide (c.words ≤ c.pos + 1) }).putPort t c.port ⟨0, w, 0⟩)) ∧
  (∀ (s s' : State) (t n j : Nat) (c : Cmd) (bs : List Byte), n < 64 → s.cmd? t n = some c → c.done = false → c.paused = false →
     c.frozen = false → (s.tile t).still = false → c.readsAhead = true → c.standAt ≤ j → j < c.count →
     s.readElem t c.reader j = (s', .ok bs) →
     exec (.streamWordDeliver t (n + 128 * (2 * j + 1))) s = .next (s'.setCmd t n { c with ahead := c.ahead.put j bs })) ∧
  (∀ (s : State) (t n : Nat) (c : Cmd), n < 64 → s.cmd? t n = some c → c.kind = .const → c.done = false → c.paused = false →
     c.frozen = false → (s.tile t).still = false → c.ahead = [] →
     let a := (gBase c.geo).toNat
     (c.reply = [] → gSpace c.geo = 0 → a + 64 ≤ 2 ^ 20 → (s.tile t).enginesReach a 64 = true →
       s.mem.poisoned (tspAddr t a) 64 = false → (∀ e ∈ (s.tile t).str.cmds, e.2.kind ≠ .bar) →
       exec (.streamWordDeliver t n) s = .next ((s.setCmd t n { c with
         reply := (List.range 64).map (fun i => s.mem.bytes.read (tspAddr t a + i)) }).markMoved (.tile t))) ∧
     (c.reply.length = 64 → c.pos < c.words → s.portReady t c.port = true → s.hasToken t c.port = true →
       (c.header = false ∨ c.pos % gPlen c.geo ≠ 0) →
       exec (.streamWordDeliver t n) s = .next ((s.setCmd t n { c with
         pos := c.pos + 1, header := true, waitSince := s.cycle, done := decide (c.words ≤ c.pos + 1) }).putPort t c.port
           ⟨0, .ofNat 512 (leNat c.reply), 0⟩))) ∧
  (∀ (s : State) (t n k : Nat) (e : BitVec 64) (c : Cmd) (w : Slot512), n < 64 → s.cmd? t n = some c → c.kind = .recirc →
     c.done = false → c.paused = false → c.frozen = false → (s.tile t).still = false →
     (s.tile t).image.outPort (gf c.geo 0 4) = some (k, e) → (s.tile t).headOf k = some w → w.parityBad = false →
     s.portOpen t c.port = true → s.hasToken t c.port = true →
     let moved := (s.mapTile t (·.takeWord (gf c.geo 0 4) k w)).putPort t c.port w
     exec (.streamWordDeliver t n) s = .next (if w.kind = 2 then moved.setCmd t n { c with paused := true } else moved)) ∧
  (∀ (s : State) (t n i m : Nat) (c : Cmd) (w : Slot512) (o : Nat), n < 64 → s.cmd? t n = some c → c.kind = .mcPort ∨ c.kind = .drain →
     c.done = false → c.paused = false → c.frozen = false → (s.tile t).still = false → i ∈ c.live →
     (s.castTiles t c)[i]? = some m →
     let k := c.accepted.get 0 i
     let port := if c.kind = .mcPort then c.port else gId c.geo / 256 % 16
     let lag := (s.tile t).seq.ctl.mclag.toNat
     c.window[k - (c.total - c.window.length)]? = some w → c.offs[k - (c.total - c.window.length)]? = some o →
     s.portReady m port = true → s.hasToken m port = true →
     (lag ≤ c.far - c.near → k = c.far → exec (.streamWordDeliver t (n + 128 * (2 * i + 2))) s = .next s) ∧
     (c.far - c.near < lag ∨ k ≠ c.far →
       let c1 := ({ c with accepted := c.accepted.set 0 i (k + 1), lagSince := c.lagSince.erase i } : Cmd).slide
       exec (.streamWordDeliver t (n + 128 * (2 * i + 2))) s = .next ((s.putPort m port w).setCmd t n { c1 with done := c1.finished })))

/-- A draining command's turn (R205, R206, R213, R226, R230, R304): it takes the head of its output port. A header sets the port's
decode, or stops the command with 0x15 where its format does not fit; a firebreak pauses the command, even one that has taken its last
element; a data word of `s.drop` is discarded and of `ss.aff` its lanes are formed in turn from the command's position on and perform in
their order; with the last element stored the command is done, and takes no further word. The latch takes bit 0 of a data word at port
15.

What a store makes of an element (R56, R58): its bits as they stand in mode none; rounded and saturated after the store scale in mode
round; and noise-shaped, where the sum of the scaled value and the residue of its line is rounded to `f32`, a value that would
overflow is stored saturated, with a residue of +0 and the saturation count one higher up to its limit, and any other leaves the
residue of its rounding. The store of R61's example, four times 1 + 2^-9 to `bf16`, and of 500 to `e4m3`, gives the table's values.

One element of an affine copy within a tile's scratchpad (R209, R232): the bytes of the source geometry's next element stand at its
place in the target, every other byte is as before, and the copy is done with its last.

Residue registers move by `s.res` (R60, R222): word k of an export is lanes 16 k to 16 k + 15, or after them the saturation count; one
taken in is 17 words long, and the register is what they hold once the last one is read. Here the register's words lie in the tile's
scratchpad and no earlier command uses the register.

`s.tok` (R218, R299): once every earlier command of the tile has completed, its word, whose first lane is `tileid` and whose second
`tagbase`, is written, and outside a task kind 4 is posted with the channel, the word's place and those lanes; it waits while an
earlier command is there. A write into a channel outside a task makes an absent word present, and stops at a present one with 0x16.

`s.wb` (R220): word 0 of its image is a descriptor in the form of a header with the source's format, scale, tag, axis and number of
words, and stands at the word offset that the geometry's field names in the tile's weight buffer; each later word stands behind it.
Here no gang holds the tile.

`s.mc` into a geometry (R214, R385): a member whose next word waits in the window gets the word's elements at their addresses in its
own scratchpad, and has accepted the word with the last of them; here the one element left, at the command's one member.

What the rules leave open here is the model's choice (log entry 54). -/
def Obligations.DrainsTakeWords : Prop :=
  (∀ (s : State) (t n k : Nat) (e : BitVec 64) (c : Cmd) (w : Slot512), n < 64 → s.cmd? t n = some c → c.kind = .drain ∨ c.kind = .drop →
     c.port < 16 → c.done = false → c.paused = false → c.frozen = false → (s.tile t).still = false → s.residueFree t c = true →
     c.resend = [] → c.members = [] → c.due = [] → (s.tile t).image.outPort c.port = some (k, e) → (s.tile t).headOf k = some w →
     w.parityBad = false →
     let went (s : State) : State := s.mapTile t (fun x => { x.popEdge k with moved := true })
     let took (s : State) : State := s.mapTile t (fun x => ({ x.popEdge k with moved := true } : Tile).latchWord c.port w.data)
     let headed (s : State) : State := s.mapTile t (fun x => { x.popEdge k with
       moved := true, str := { x.str with ox := x.str.ox.put c.port ⟨hFmt w.data, hScale w.data⟩ } })
     (c.kind = .drain → c.count ≤ c.pos → w.kind ≠ 2 →
       exec (.streamWordDrain t n) s = .next (s.setCmd t n { c with done := c.window.isEmpty })) ∧
     (w.kind = 2 → exec (.streamWordDrain t n) s = .next ((went s).setCmd t n { c with paused := true, header := true })) ∧
     (c.kind = .drop → c.window = [] →
       (w.kind = 1 → exec (.streamWordDrain t n) s = .next ((headed s).setCmd t n { c with
         header := true, done := decide (c.words ≤ c.pos) })) ∧
       (w.kind = 0 → exec (.streamWordDrain t n) s = .next ((took s).setCmd t n
         { c with pos := c.pos + 1, header := true, done := decide (c.words ≤ c.pos + 1) }))) ∧
     (c.kind = .drain → c.pos < c.count →
       (w.kind = 1 → pairOk (hFmt w.data).toNat c.geo = true →
         exec (.streamWordDrain t n) s = .next ((headed s).setCmd t n { c with header := true })) ∧
       (w.kind = 1 → pairOk (hFmt w.data).toNat c.geo = false →
         exec (.streamWordDrain t n) s = .next ((headed s).setCmd t n { c with header := true, cause := 0x15, done := true })) ∧
       (w.kind = 0 → (s.tile t).str.ox.get? c.port = none →
         exec (.streamWordDrain t n) s = .next (s.stopCmd t n c 0x14)) ∧
       (w.kind = 0 → ∀ d, (s.tile t).str.ox.get? c.port = some d →
         (pairOk d.fmt.toNat c.geo = false → exec (.streamWordDrain t n) s = .next (s.stopCmd t n c 0x15)) ∧
         (pairOk d.fmt.toNat c.geo = true → ∀ s' c' x s'' c'' y,
           (s.enterResidue t c).formLanes t c d w.data (64 / typeBytes d.fmt.toNat - c.lane) = (s', c', .ok x) → c'.due ≠ [] →
           (took s').performFrom t { c' with lane := 0, header := true } c'.due = (s'', c'', .ok y) →
           exec (.streamWordDrain t n) s = .next ((s''.markMoved (.tile t)).setCmd t n { c'' with done := c''.finished })) ∧
         (pairOk d.fmt.toNat c.geo = true → gSpace c.geo = 0 → gEnc c.geo = 0 → gFmt c.geo ≠ 6 → d.fmt.toNat = gFmt c.geo →
           c.buf = [] → c.pos + 1 = c.count → c.lane < 64 / gBytes c.geo →
           let a := (gAddr c.geo c.pos).toNat
           a + gBytes c.geo ≤ 2 ^ 20 → (s.tile t).enginesReach a (gBytes c.geo) = true →
           ∃ m, s.stored m (tspAddr t a) (gBytes c.geo)
               (w.data.extractLsb' (8 * gBytes c.geo * c.lane) (8 * gBytes c.geo)).toNat ∧
             exec (.streamWordDrain t n) s = .next ((took { s with mem := m }).setCmd t n
               { c with pos := c.pos + 1, lane := 0, header := true, row := 0, done := c.window.isEmpty }))))) ∧
  ((∀ (s : State) (t : Nat) (c : Cmd) (fmt : Nat) (scale : Int) (bits j : Nat),
     let g := c.target
     let ty := if gFmt g = 6 then 4 else gFmt g
     let x := if isFloat fmt then (decodeType fmt bits).scale scale else decodeType fmt bits
     let r := (s.tile t).nz.get {} (gNz g)
     let lane := r.lanes.get 0 (gLine g j)
     let v := decodeType 1 (rne32 (xsum .rne [x.scale (-gScale g), decodeType 1 lane.toNat]))
     let q := quant ty .rne v
     let kept (l n : BitVec 32) : State := s.mapTile t (fun y => { y with nz := y.nz.set {} (gNz g) ⟨r.lanes.set 0 (gLine g j) l, n⟩ })
     (gEnc g = 0 → s.formed t c fmt scale bits j = (s, bits)) ∧
     (gEnc g = 1 → s.formed t c fmt scale bits j = (s, quant ty .rne (sat ty (x.scale (-gScale g))))) ∧
     (gEnc g = 2 → overflows ty v = true → s.formed t c fmt scale bits j =
       (kept 0 (if r.count = 0xFFFFFFFF then 0xFFFFFFFF else r.count + 1), quant ty .rne (sat ty v))) ∧
     (gEnc g = 2 → overflows ty v = false → s.formed t c fmt scale bits j =
       (kept (.ofNat 32 (rne32 (xsum .rne [v, (decodeType ty q).neg]))) r.count, q))) ∧
   (let x := decodeType 1 0x3F804000
    noiseShape 2 0 x 0 = (0x3F80, 0x3B000000, false) ∧ noiseShape 2 0 x 0x3B000000 = (0x3F80, 0x3B800000, false) ∧
    noiseShape 2 0 x 0x3B800000 = (0x3F81, 0xBB000000, false) ∧ noiseShape 2 0 x 0xBB000000 = (0x3F80, 0, false) ∧
    noiseShape 4 0 (decodeType 1 0x43FA0000) 0 = (0x7E, 0, true))) ∧
  (∀ (s : State) (t n : Nat) (c : Cmd), n < 64 → s.cmd? t n = some c → c.kind = .copy → c.done = false → c.paused = false →
     c.frozen = false → (s.tile t).still = false → c.resend = [] → c.members = [] → c.due = [] → c.buf = [] → c.lane = 0 →
     c.written = [] → c.ahead = [] → c.pos < c.count → gSpace c.geo = 0 → gSpace c.other = 0 → gEnc c.target = 0 →
     gFmt c.geo = gFmt c.other → gFmt c.geo ≠ 6 → (∀ e ∈ (s.tile t).str.cmds, e.2.kind ≠ .bar) →
     let z := gBytes c.geo
     let a := (gAddr c.source c.pos).toNat
     let b := (gAddr c.target c.pos).toNat
     a + z ≤ 2 ^ 20 → b + z ≤ 2 ^ 20 → (s.tile t).enginesReach a z = true → (s.tile t).enginesReach b z = true →
     s.mem.poisoned (tspAddr t a) z = false →
     ∃ m w, s.stored m (tspAddr t b) z (s.readNat (tspAddr t a) z) ∧ exec (.streamWordDrain t n) s = .next
       ((({ s with mem := m } : State).markMoved (.tile t)).setCmd t n { c with
         pos := c.pos + 1, row := 0, written := w, done := decide (c.count ≤ c.pos + 1) && c.window.isEmpty })) ∧
  (∀ (s : State) (t n : Nat) (c : Cmd), n < 64 → s.cmd? t n = some c → c.done = false → c.paused = false → c.frozen = false →
     (s.tile t).still = false → c.resend = [] → c.members = [] → c.due = [] → s.residueFree t c = true → gSpace c.geo = 0 → c.pos < 17 →
     let a := (gBase c.geo + .ofNat 72 (64 * c.pos)).toNat
     let r := (s.tile t).nz.get {} c.port
     a + 64 ≤ 2 ^ 20 → (s.tile t).enginesReach a 64 = true →
     (c.kind = .resOut → ∃ m v, s.stored m (tspAddr t a) 64 v ∧
       (c.pos < 16 → ∀ i, i < 16 → v / 2 ^ (32 * i) % 2 ^ 32 = (r.lanes.get 0 (16 * c.pos + i)).toNat) ∧
       (c.pos = 16 → v = r.count.toNat) ∧
       exec (.streamWordDrain t n) s = .next ((({ s with mem := m } : State).markMoved (.tile t)).setCmd t n
         { c with pos := c.pos + 1, done := decide (16 ≤ c.pos) && c.window.isEmpty })) ∧
     (c.kind = .resIn → s.mem.poisoned (tspAddr t a) 64 = false → (∀ e ∈ (s.tile t).str.cmds, e.2.kind ≠ .bar) →
       let buf := c.buf ++ (List.range 64).map (fun i => s.mem.bytes.read (tspAddr t a + i))
       let next : Cmd := { c with buf := buf, pos := c.pos + 1, done := decide (16 ≤ c.pos) }
       (c.pos < 16 → exec (.streamWordDrain t n) s = .next ((s.setCmd t n next).markMoved (.tile t))) ∧
       (c.pos = 16 → ∃ z : Residue, (∀ i, i < 256 → (z.lanes.get 0 i).toNat = leNat ((buf.drop (4 * i)).take 4)) ∧
         z.count.toNat = leNat ((buf.drop 1024).take 4) ∧
         exec (.streamWordDrain t n) s = .next (((s.mapTile t (fun x => { x with nz := x.nz.set {} c.port z })).setCmd t n next).markMoved
           (.tile t))))) ∧
  ((∀ (s : State) (t n : Nat) (c : Cmd), n < 64 → s.cmd? t n = some c → c.kind = .tok → c.done = false → c.paused = false →
     c.frozen = false → (s.tile t).still = false → c.resend = [] →
     let lanes : Word := .ofNat 64 ((s.tileid t).toNat % 2 ^ 32 + gTagbase c.geo * 2 ^ 32)
     ((∃ e ∈ (s.tile t).str.cmds, e.2.num < c.num) → exec (.streamWordDrain t n) s = .next s) ∧
     ((∀ e ∈ (s.tile t).str.cmds, c.num ≤ e.2.num) → c.inTask = false →
       ∀ s' ps, s.put t false c.geo (gBase c.geo) (leBytes 64 lanes.toNat) = (s', .ok ps) →
         exec (.streamWordDrain t n) s = .next (((s'.postTile t 4 0 (gId c.geo) ((gBase c.geo).toNat / 64) lanes).setCmd t n
           { c with done := true }).markMoved (.tile t)))) ∧
   (∀ (s : State) (t v : Nat) (g : Vec) (a : Addr), gSpace g = 5 → a.toNat % 64 = 0 →
     let e := (s.grove (groveOf t)).chans.get 0 (gId g)
     let ga := gspAddr (groveOf t) (chanBase e * 64 + a.toNat)
     chanValid e = true → a.toNat + 64 ≤ chanSize e * 64 → (s.grove (groveOf t)).channelOf (chanBase e * 64 + a.toNat) ≠ none →
     (s.present ga = true → s.put t false g a (leBytes 64 v) = (s, .stop 0x16 none)) ∧
     (s.present ga = false → ∃ m, s.stored m ga 64 v ∧ s.put t false g a (leBytes 64 v) =
       ({ s with mem := { m with present := insertNat (ga / 64 * 64) m.present } }, .ok [(ga, 64)])))) ∧
  (∀ (s : State) (t n : Nat) (c : Cmd), n < 64 → s.cmd? t n = some c → c.kind = .wb → c.done = false → c.paused = false →
     c.frozen = false → (s.tile t).still = false → c.resend = [] → c.members = [] → c.due = [] → c.ahead = [] → c.ended = false →
     (∀ r, (s.tile t).mx.running = some r → r.gang = none) →
     let off := gField c.geo % 4096
     off + c.pos < 4096 →
     let words := (gCount c.geo * gBytes c.geo + 63) / 64
     let next (last : Bool) : Cmd := { c with
       pos := c.pos + 1, reply := [], waitSince := s.cycle, ended := last, begun := insertNat t c.begun, done := last && c.window.isEmpty }
     (c.pos = 0 → gFmt c.geo ≠ 6 → ∃ (m : Mem) (v : Vec), s.stored m (wbAddr t (64 * off)) 64 v.toNat ∧
       (hFmt v).toNat = gFmt c.geo ∧ hScale v = c.geo.extractLsb' 472 8 ∧ hAxis v = gAxis c.geo ∧
       (words ≤ 256 → 0 < words → hLen v = words) ∧ (hTag v).toNat = gTagbase c.geo * 256 % 2 ^ 16 ∧
       exec (.streamWordDrain t n) s = .next ((({ s with mem := m } : State).markMoved (.tile t)).setCmd t n (next (decide (words = 0))))) ∧
     (0 < c.pos → ∀ s' bs last, s.wbNext t c off = (s', .ok (bs, last)) →
       exec (.streamWordDrain t n) s = .next ((((s'.write (wbAddr t (64 * (off + c.pos))) bs)).markMoved (.tile t)).setCmd t n (next last)))) ∧
  (∀ (s : State) (t n v o : Nat) (c : Cmd) (w : Slot512), n < 64 → s.cmd? t n = some c → c.kind = .mcGeo → c.done = false →
     c.paused = false → c.frozen = false → (s.tile t).still = false → c.resend = [] → c.due = [] → c.live = [0] →
     (s.castTiles t c)[0]? = some v → c.window = [w] → c.offs = [o] → c.total = c.accepted.get 0 0 + 1 →
     (s.tile t).seq.ctl.mclag ≠ 0 → gSpace c.other = 0 → gFmt c.other ≠ 6 → gFmt c.other = gFmt c.geo →
     let z := gBytes c.geo
     let j := c.accepted.get 0 0 * (64 / z)
     let a := (gAddr c.other j).toNat
     gCount c.geo = j + 1 → a + z ≤ 2 ^ 20 → (s.tile v).enginesReach a z = true →
     let c1 := c.acceptBy 0
     ∃ m, s.stored m (tspAddr v a) z (gf w.data 0 (8 * z)) ∧
       exec (.streamWordDrain t n) s = .next ((({ s with mem := m } : State).setCmd t n { c1 with done := c1.finished }).markMoved (.tile t)))

/-- A completion (R196, R228): once a command is done and every word it sent is acknowledged, its handle is free and its barrier
takes one arrival with its cause, handle and position; `uipend` bit h is set where its geometry asks, and a fault is recorded under
the handle for `swait`. A command that is not done does not complete.

What the rules leave open here is the model's choice (log entry 51). -/
def Obligations.CompletionsReport : Prop :=
  ∀ (s : State) (t n : Nat) (c : Cmd), n < 64 → s.cmd? t n = some c → c.kind ≠ .recirc →
    let q := (s.tile t).seq.arrive (gBar c.geo) c.cause (.ofNat 16 (n * 1024 + c.report % 1024))
    let up : Word := if gUirq c.geo then q.ctl.uipend ||| BitVec.twoPow 64 n else q.ctl.uipend
    (c.done = false → exec (.streamCompletion t n) s = .next s) ∧
    (c.done = true → c.cause = 0 → c.unacked = [] → c.resend = [] →
      exec (.streamCompletion t n) s = .next (s.setTile t { s.tile t with
        seq := { q with ctl := { q.ctl with uipend := up } }
        str := { (s.tile t).str with cmds := (s.tile t).str.cmds.erase n, checked := (s.tile t).str.checked.erase c.num } })) ∧
    (c.done = true → c.cause ≠ 0 →
      exec (.streamCompletion t n) s = .next (s.setTile t { s.tile t with
        seq := { q with ctl := { q.ctl with uipend := up } }
        str := { (s.tile t).str with
          cmds := (s.tile t).str.cmds.erase n
          checked := (s.tile t).str.checked.erase c.num
          faults := (s.tile t).str.faults.put n ⟨c.cause, trapInfo c.entry.word (n * 2 ^ 23 + c.report % 2 ^ 23) c.entry.slot.index⟩ } }))

/-- Kills (R221): `s.kill` completes a command that is done and has nothing outstanding; any other it drops, at once and with no
arrival, its handle free; with no such command it does nothing more than leave its queue. `s.kill all` frees every handle of
commands not done.

A multicast member that has kept a command at its lead limit for `replylimit` cycles is detached (R215): it takes no further
part, the words that every other member has accepted are given up, the command will complete with 0x17 and that member, once the
others have accepted the last word, and the member's open task ends with fault 0x17, or its sequencer finds that trap; before the
limit nothing happens.

What the rules leave open here is the model's choice (log entry 51). -/
def Obligations.CommandsAreStopped : Prop :=
  (∀ (s : State) (h : Hdr) (st : BitVec 6) (t : Nat), s.focus = .tile t →
     (s.cmd? t st.toNat = none → exec (.sKill h st) s = .next s.accepted) ∧
     (∀ c, s.cmd? t st.toNat = some c →
       (c.done = false ∨ (c.cause = 0 ∧ (c.unacked ≠ [] ∨ c.resend ≠ [])) →
         exec (.sKill h st) s = .next (s.accepted.setTile t { s.accepted.tile t with
           str := { (s.tile t).str with cmds := (s.tile t).str.cmds.erase st.toNat } })) ∧
       (c.done = true → c.cause ≠ 0 ∨ (c.unacked = [] ∧ c.resend = []) →
         exec (.sKill h st) s = exec (.streamCompletion t st.toNat) s.accepted)) ∧
     ((s.tile t).str.cmds = [] → exec (.sKillAll h) s = .next s.accepted) ∧
     ((s.tile t).str.cmds ≠ [] → (∀ e ∈ (s.tile t).str.cmds, e.1 < 64 ∧ e.2.done = false) →
       exec (.sKillAll h) s = .next (s.accepted.setTile t { s.accepted.tile t with str := { (s.tile t).str with cmds := [] } }))) ∧
  (∀ (s : State) (t n m v : Nat) (c : Cmd), s.cmd? t n = some c → c.done = false → c.cause = 0 → m ∈ c.live →
     let lag := (s.tile t).seq.ctl.mclag.toNat
     let limit := (s.grove (groveOf t)).replylimit.toNat
     lag ≤ c.far - c.near → lag ≤ c.far - c.accepted.get 0 m → (s.castTiles t c)[m]? = some v →
     (s.cycle - c.lagSince.get s.cycle m < limit → exec (.multicastDetach t n m) s = .next s) ∧
     (limit ≤ s.cycle - c.lagSince.get s.cycle m →
       let c1 := ({ c with
         detached := c.detached ++ [m], cause := 0x17, prev := .ofNat 32 m
         due := if c.kind = .mcGeo then c.due.filter (fun d => d.word ≠ m) else c.due } : Cmd).slide
       let s1 := s.setCmd t n { c1 with done := c1.finished }
       ((s1.tile v).inTask = true → exec (.multicastDetach t n m) s = .next (s1.endTask v .fault 0x17)) ∧
       ((s1.tile v).inTask = false → exec (.multicastDetach t n m) s = .next (s1.raise (.tile v) 0x17 (trapInfo 0 (s.dieTile t) 0) 0))))

/-- Transfers at the head of slot N (R177, R180): the checks at issue are bounds, alignment and owner bits, the first that fails
being the trap, and `sendg` first its group; one that passes begins and holds its queue, and one that has begun, or that finds
a transfer of interrupted code under way, waits.

A transfer moves one word (R178, R179): a `send` puts the word at its place, with its tag, at the tail of the receiver's landing
queue for it where that holds fewer than four; a `recv` takes the first landed word with its tag to its place, and a `recvadd` adds it there
lane by lane as `f32`; a `sendg` puts the word, with tag 0, at the tail of the landing queue of every member of its group but the sender,
where each holds fewer than four (R180). The head of slot N goes on by one word, and is gone after its last.

What the rules leave open here is the model's choice (log entry 13). -/
def Obligations.TransfersMoveWords : Prop :=
  (∀ (s : State) (h : Hdr) (e a g : BitVec 4) (c grp : BitVec 8) (i : Instr) (t : Nat) (rest : List Entry),
     s.focus = .tile t → s.ctx.slot = .n → s.cur.queues.get [] 6 = s.ctx :: rest →
     i = .send h e a g c ∨ i = .recv h e a g c ∨ i = .recvadd h e a g c ∨
       (i = .sendg h grp a c ∧ (s.groveGroup (groveOf t) grp.toNat).isSome) →
     let p := s.ctx.va.toNat
     let len := 64 * (c.toNat + 1)
     (s.ctx.begun = true ∨ s.cur.heldTransfer.isSome → exec i s = .next s) ∧
     (s.ctx.begun = false → s.cur.heldTransfer = none →
       (2 ^ 20 < p + len → exec i s = .next (s.refusing 0x0b 0)) ∧
       (p + len ≤ 2 ^ 20 → p % 64 ≠ 0 → exec i s = .next (s.refusing 0x09 0)) ∧
       (p + len ≤ 2 ^ 20 → p % 64 = 0 → (s.tile t).enginesReach p len = false → exec i s = .next (s.refusing 0x0a 0)) ∧
       (p + len ≤ 2 ^ 20 → p % 64 = 0 → (s.tile t).enginesReach p len = true →
         exec i s = .next (s.setSeq s.focus { s.cur with queues := s.cur.queues.set [] 6 ({ s.ctx with begun := true, pos := 0 } :: rest) })) ∧
       (∀ grp : BitVec 8, s.groveGroup (groveOf t) grp.toNat = none →
         exec (.sendg h grp a c) s = .next (s.refusing 0x14 0)))) ∧
  (∀ (s : State) (t p : Nat) (h : Hdr) (l a g : BitVec 4) (c : BitVec 8) (x : Entry) (rest : List Entry),
     (s.tile t).seq.heldTransfer = none → (s.tile t).seq.queues.get [] 6 = x :: rest → x.begun = true → (s.tile t).still = false →
     (s.tile t).landing? = false → s.physOf (groveOf t) l.toNat = p → p ≠ t →
     let at0 := x.va.toNat + 64 * x.pos
     let left := if c.toNat ≤ x.pos then rest else { x with pos := x.pos + 1 } :: rest
     let q := { (s.tile t).seq with queues := (s.tile t).seq.queues.set [] 6 left }
     let sent : Landed := ⟨g, .ofNat 512 (s.readNat (tspAddr t at0) 64)⟩
     (s.tile t).enginesReach at0 64 = true →
     (decodeN x.word = some (.send h l a g c) → s.mem.poisoned (tspAddr t at0) 64 = false →
       (((s.tile p).landed (s.logicalOf t)).length < 4 →
         exec (.transferWordArrival t) s = .next ((s.mapTile p (fun y => { y with
           landing := y.landing.set [] (s.logicalOf t) (y.landed (s.logicalOf t) ++ [sent]) })).mapTile t (fun y => { y with seq := q }))) ∧
       (4 ≤ ((s.tile p).landed (s.logicalOf t)).length → exec (.transferWordArrival t) s = .next s)) ∧
     (∀ (grp : BitVec 8) (ms : List Nat), decodeN x.word = some (.sendg h grp a c) → s.groveGroup (groveOf t) grp.toNat = some ms →
       s.mem.poisoned (tspAddr t at0) 64 = false →
       let peers := (ms.filter (· ≠ s.logicalOf t)).map (s.physOf (groveOf t))
       ((∀ v ∈ peers, ((s.tile v).landed (s.logicalOf t)).length < 4) →
         exec (.transferWordArrival t) s = .next ((peers.foldl (fun (z : State) v => z.mapTile v (fun y => { y with
           landing := y.landing.set [] (s.logicalOf t) (y.landed (s.logicalOf t) ++ [{ sent with tag := 0 }]) })) s).mapTile t (fun y =>
             { y with seq := q }))) ∧
       ((∃ v ∈ peers, 4 ≤ ((s.tile v).landed (s.logicalOf t)).length) → exec (.transferWordArrival t) s = .next s)) ∧
     (decodeN x.word = some (.recv h l a g c) →
       (∀ ws w us, (s.tile t).landed l.toNat = ws ++ w :: us → (∀ v ∈ ws, v.tag ≠ g) → w.tag = g →
         exec (.transferWordArrival t) s = .next ((s.writeNat (tspAddr t at0) 64 w.data.toNat).mapTile t (fun y => { y with
           landing := y.landing.set [] l.toNat (ws ++ us), seq := q }))) ∧
       ((∀ v ∈ (s.tile t).landed l.toNat, v.tag ≠ g) → exec (.transferWordArrival t) s = .next s)) ∧
     (decodeN x.word = some (.recvadd h l a g c) → s.mem.poisoned (tspAddr t at0) 64 = false →
       ∀ ws w us, (s.tile t).landed l.toNat = ws ++ w :: us → (∀ v ∈ ws, v.tag ≠ g) → w.tag = g →
         exec (.transferWordArrival t) s = .next ((s.writeNat (tspAddr t at0) 64
           (addLanes (.ofNat 512 (s.readNat (tspAddr t at0) 64)) w.data).toNat).mapTile t (fun y => { y with
             landing := y.landing.set [] l.toNat (ws ++ us), seq := q }))))

/-- The arrival counters (R117, R441, R443): `cnt.set` and `cnt.add` leave the new value, modulo 2^32, with what the same cycle
delivered; `cnt.rd` holds the value for d; `cnt.wait` leaves its queue once counter minus immediate, as a signed 32-bit number, is
not negative, and otherwise begins its wait at this cycle.

A `cnt.wait` whose counter has not changed for `replylimit` cycles leaves its queue with trap 0x12 and its counter as detail;
before that it goes on waiting (R443).

What the rules leave open here is the model's choice (log entry 37). -/
def Obligations.Counters : Prop :=
  (∀ (s : State) (h : Hdr) (c d : BitVec 6) (k : BitVec 8) (t : Nat), s.focus = .tile t →
     let old := (s.tile t).ac.get 0 c.toNat
     let imm := immUnsigned s.ctx.ext k
     let counts (v : BitVec 32) : State := s.accepted.setTile t { s.accepted.tile t with
       ac := (s.tile t).ac.set 0 c.toNat v, cntSince := (s.tile t).cntSince.put c.toNat s.cycle }
     exec (.cntSet h c d) s = .next (counts (s.ctx.va.setWidth 32 + (s.tile t).cntAdds.get 0 c.toNat)) ∧
     exec (.cntAdd h c k) s = .next (counts (.ofNat 32 (old.toNat + imm))) ∧
     exec (.cntRd h d c) s = .next (s.holding d (.ofNat 64 old.toNat)).accepted ∧
     (0 ≤ (old - .ofNat 32 imm).toInt → exec (.cntWait h c k) s = .next s.accepted) ∧
     ((old - .ofNat 32 imm).toInt < 0 → s.ctx.begun = true → exec (.cntWait h c k) s = .next s) ∧
     (∀ rest, (old - .ofNat 32 imm).toInt < 0 → s.ctx.begun = false → s.ctx.slot = .n → s.cur.queues.get [] 6 = s.ctx :: rest →
       exec (.cntWait h c k) s = .next (s.setSeq s.focus { s.cur with
         queues := s.cur.queues.set [] 6 ({ s.ctx with begun := true, pos := s.cycle } :: rest) }))) ∧
  (∀ (s : State) (t : Nat) (h : Hdr) (c : BitVec 6) (k : BitVec 8) (x : Entry) (rest : List Entry),
     (s.tile t).seq.queues.get [] 6 = x :: rest → x.begun = true → decodeN x.word = some (.cntWait h c k) → (s.tile t).still = false →
     ((s.tile t).ac.get 0 c.toNat - .ofNat 32 (immUnsigned x.ext k)).toInt < 0 →
     let since := max x.pos ((s.tile t).cntSince.get 0 c.toNat)
     let limit := (s.grove (groveOf t)).replylimit.toNat
     (s.cycle - since < limit → exec (.cntWaitTimeout t) s = .next s) ∧
     (limit ≤ s.cycle - since → exec (.cntWaitTimeout t) s = .next (s.setSeq (.tile t) { (s.tile t).seq with
       queues := (s.tile t).seq.queues.set [] 6 rest
       traps := (s.tile t).seq.traps ++ [⟨0x12, trapInfo x.word c.toNat x.slot.index, x.slot.index, none, some x⟩] })))

/-! ### The matrix unit -/

/-- The words of slot M that set up the unit (R239, R242 to R244): `mset` and `mseti` write a shadow register; `mtab`, `mup` and `mepi`
wait for a running routine and then write a table entry, or start a load; `mup` traps with its first failing check.

`macc` (R241): a legal target gets a token behind the routines called before, with the task and the issue number of the word; an
illegal one traps with the first failing cause.

What the rules leave open here is the model's choice (log entries 12, 28 and 32). -/
def Obligations.MatrixSetupAndAccumulatorWrites : Prop :=
  (∀ (s : State) (h : Hdr) (t : Nat) (m : BitVec 3) (a r : BitVec 6) (g : BitVec 4) (k : BitVec 8) (w : BitVec 10), s.focus = .tile t →
     let x := (s.tile t).mx
     exec (.mset h m a) s = .next (s.mxAfter t { x with shadow := x.shadow.set 0 m.toNat (s.ctx.va.setWidth 64) }) ∧
     exec (.mseti h m k) s = .next (s.mxAfter t { x with shadow := x.shadow.set 0 m.toNat (.ofNat 64 (immUnsigned s.ctx.ext k)) }) ∧
     (x.running ≠ none → exec (.mtab h r a) s = .next s ∧ exec (.mup h g w) s = .next s ∧ exec (.mepi h g) s = .next s) ∧
     (x.running = none →
       exec (.mtab h r a) s = .next (s.mxAfter t { x with table := x.table.set 0 r.toNat ((s.ctx.va.setWidth 16) &&& 0x83ff) }) ∧
       exec (.mepi h g) s = .next (s.mxAfter t { x with mepis := x.mepis ++ [{ entry := s.ctx, first := 0 }] }) ∧
       (s.mupFault s.ctx.g0 w = none →
         exec (.mup h g w) s = .next (s.mxAfter t { x with mups := x.mups ++ [{ entry := s.ctx, first := w.toNat }] })) ∧
       (∀ c, s.mupFault s.ctx.g0 w = some c → exec (.mup h g w) s = .next (s.refusing c 0)))) ∧
  (∀ (s : State) (h : Hdr) (t : Nat) (k : BitVec 1) (g : BitVec 4) (b : BitVec 11), s.focus = .tile t →
     let x := s.tile t
     let checks := maccFaults s.ctx.g0 ++ s.writeFaults t { spaces := [0, 1, 2, 3], writesMem := true } s.ctx.g0
     let token : Token := ⟨k.toNat, b.toNat, x.mx.started, none, { s.command .drain 0 with num := x.str.issued, inTask := x.inTask }⟩
     (firstCause checks = none → exec (.macc h k g b) s = .next (s.accepted.setTile t { s.accepted.tile t with
       str := { x.str with issued := x.str.issued + 1 }
       mx := { x.mx with tokens := x.mx.tokens ++ [token] } })) ∧
     (∀ c, firstCause checks = some c → exec (.macc h k g b) s = .next (s.refusing c 0)))

/-- `mcall` (R238, R240, R243): it waits for a running routine and for loads; then the routine at its table entry starts, or, where the
entry is not valid, ends at once with 0x1C.

`mstat` and `mabort` (R245, R246): the status word is held for d with the fields of R245; `mabort` ends the running routine with
0x1C, marked as aborted, and does nothing where none runs. -/
def Obligations.MatrixCallsStatusAndAbort : Prop :=
  (∀ (s : State) (h : Hdr) (t : Nat) (i : BitVec 6) (b : BitVec 11), s.focus = .tile t →
     let x := (s.tile t).mx
     let e := x.table.get 0 i.toNat
     let r : Routine := { index := i.toNat, upc := e.toNat % 1024, bar := b.toNat, inTask := (s.tile t).inTask }
     (x.running ≠ none ∨ x.mups ≠ [] ∨ x.mepis ≠ [] → exec (.mcall h i b) s = .next s) ∧
     (x.running = none → x.mups = [] → x.mepis = [] →
       (e.getLsbD 15 = true → exec (.mcall h i b) s = .next (s.mxAfter t (x.called r))) ∧
       (e.getLsbD 15 = false → exec (.mcall h i b) s = .next ((s.mxAfter t (x.called r)).routineEnds t r 0x1c false)))) ∧
  (∀ (s : State) (h : Hdr) (t : Nat) (d : BitVec 6), s.focus = .tile t →
     let m := (s.tile t).mx
     (∃ w : Word, exec (.mstat h d 0) s = .next (s.holding d w).accepted ∧ w.extractLsb' 32 32 = m.done ∧ w.extractLsb' 24 8 = m.cause ∧
       (w.extractLsb' 5 3).toNat = m.loops.length % 8 ∧ w.getLsbD 4 = decide (m.f = 1) ∧ w.getLsbD 3 = decide (m.epi ≠ []) ∧
       (m.running = none → w.getLsbD 0 = false) ∧
       (∀ r, m.running = some r → (w.extractLsb' 14 10).toNat = r.upc % 1024 ∧ (w.extractLsb' 8 6).toNat = r.index % 64 ∧
         w.getLsbD 1 = r.gang.isSome ∧ w.getLsbD 0 = true)) ∧
     exec (.mstat h d 1) s = .next (s.holding d (.ofNat 64 (m.info.toNat + if m.aborted then 2 ^ 63 else 0))).accepted ∧
     (m.running = none → exec (.mabort h) s = .next s.accepted) ∧
     (∀ r, m.running = some r → r.gang = none → exec (.mabort h) s = .next (s.accepted.routineEnds t r 0x1c true)))

/-- The micro-ops that shape a routine (R248, R249, R253, R254, R258): with the routine free to go on, each takes full effect and the
next microword follows, or the routine ends with the cause the rule names; `mu.zero` waits for a `macc` that has its bank still to
read, and at `mu.end` a gang member waits for its instance.

`mu.wait` (R254): on a barrier that is set up it begins, waits while no phase has released it, goes on once one has with status 0,
and ends the routine with any other status.

What the rules leave open here is the model's choice (log entry 30). -/
def Obligations.MicroControlAndWaits : Prop :=
  (∀ (s : State) (t : Nat) (r : Routine) (k : BitVec 1) (m : BitVec 3) (i : BitVec 16) (b : BitVec 11),
     s.focus = .tile t → s.microReady r →
     let x := (s.tile t).mx
     let goes (y : Matrix) (upc : Nat) : State := s.setTile t { s.tile t with
       mx := { y with running := some { r with upc := upc, begun := false } }, moved := true }
     let ends (i : Instr) (c : BitVec 8) : Prop := r.gang = none → exec i s = .next ((s.routineEnds t r c false).markMoved (.tile t))
     let w := x.active.get 0 m.toNat
     exec .muNop s = .next (goes x (r.upc + 1)) ∧
     (shapeOk w = true → exec (.muParam m) s = .next (goes { x with shape := w, panelA := none, panelB := none } (r.upc + 1))) ∧
     (shapeOk w = false → ends (.muParam m) 0x1c) ∧
     exec .muSwap s = .next (goes { x with f := ~~~x.f } (r.upc + 1)) ∧
     (x.bankHeld k = true → exec (.muZero k) s = .next s) ∧
     (x.bankHeld k = false → exec (.muZero k) s = .next (goes (if k ^^^ x.f = 0 then { x with bank0 := [] } else { x with bank1 := [] }) (r.upc + 1))) ∧
     ends .muEnd 0 ∧
     (∀ grp y, r.gang = some grp → (s.die (dieOf (groveOf t))).gangs.get? grp = some y →
       exec .muEnd s = .next ((s.setTile t { s.tile t with
         mx := { x with upc := r.upc % 1024, routine := r.index, running := some { r with atEnd := true } }, moved := true }).setDie
           (dieOf (groveOf t)) { s.die (dieOf (groveOf t)) with
             gangs := (s.die (dieOf (groveOf t))).gangs.put grp { y with finished := y.finished ++ [s.rankOf t grp] } })) ∧
     (∀ j : BitVec 1, (j = 1 → i = 0) →
       let count := if j = 1 then w.toNat % 2 ^ 32 else i.toNat
       (count ≠ 0 → x.loops.length < 4 →
         exec (.muLoop j m i) s = .next (goes { x with loops := ⟨r.upc + 1, count⟩ :: x.loops } (r.upc + 1))) ∧
       (count ≠ 0 → x.loops.length = 4 → ends (.muLoop j m i) 0x1c) ∧
       (∀ p, count = 0 → x.skipLoop (1023 - r.upc) 0 (r.upc + 1) = some p → exec (.muLoop j m i) s = .next (goes x p)) ∧
       (count = 0 → x.skipLoop (1023 - r.upc) 0 (r.upc + 1) = none → ends (.muLoop j m i) 0x1c)) ∧
     (i ≠ 0 → ends (.muLoop 1 m i) 0x1c) ∧
     (x.loops = [] → ends .muEndl 0x1c) ∧
     (∀ l rest, x.loops = l :: rest → 1 < l.left →
       exec .muEndl s = .next (goes { x with loops := { l with left := l.left - 1 } :: rest } l.start)) ∧
     (∀ l rest, x.loops = l :: rest → l.left ≤ 1 → exec .muEndl s = .next (goes { x with loops := rest } (r.upc + 1))) ∧
     exec (.muSig b) s = .next (s.setTile t { s.tile t with
       seq := (s.tile t).seq.arrive b.toNat 0 0
       mx := { x with running := some { r with upc := r.upc + 1, begun := false } }, moved := true }) ∧
     (b = 0 ∨ ((s.tile t).seq.bar b.toNat).init = false → exec (.muWait b) s = .next (goes x (r.upc + 1)))) ∧
  (∀ (s : State) (t : Nat) (r : Routine) (b : BitVec 11), s.focus = .tile t → s.microReady r → b ≠ 0 →
     let q := (s.tile t).seq
     let bar := q.bar b.toNat
     let barrier (y : Barrier) : Seq := { q with bars := q.bars.set {} b.toNat y }
     let freed : Seq := barrier { bar with waits := bar.waits.erase 9 }
     bar.init = true →
     (r.begun = false → exec (.muWait b) s = .next (s.setTile t { s.tile t with
       seq := barrier { bar with waits := bar.waits.put 9 .pending }
       mx := { (s.tile t).mx with running := some { r with begun := true } } })) ∧
     (r.begun = true → bar.waits.get? 9 = some .pending → exec (.muWait b) s = .next s) ∧
     (∀ info rep, r.begun = true → bar.waits.get? 9 = some (.released 0 info rep) → exec (.muWait b) s = .next (s.setTile t { s.tile t with
       seq := freed, mx := { (s.tile t).mx with running := some { r with upc := r.upc + 1, begun := false } }, moved := true })) ∧
     (∀ st info rep, r.begun = true → bar.waits.get? 9 = some (.released st info rep) → st ≠ 0 → r.gang = none →
       exec (.muWait b) s = .next (((s.setSeq (.tile t) freed).routineEnds t r st false).markMoved (.tile t))))

/-- The micro-ops that compute (R250 to R252, R255): `mu.lda` loads the rows of panel A, after the reset mask where it is asked for,
and moves its address on; `mu.ldb` takes the next values of a weight-buffer descriptor; `mu.mac` adds one step of the panels to a
bank; `mu.drain` writes the rows of the shape, or stages them in a gang. A fault of an access ends the routine with its cause.

One K-step is a product of panels (R236, R252): each cell of the shape in the bank becomes the step's sum over its old value and the
pairs of its row of panel A and its column of panel B, in `f64` where A is, and every other cell, and the other bank, is as before.

The step's sum (R50, R52): the canonical NaN of a NaN operand, of an infinity times zero and of two different infinities; an infinity
where there is one; otherwise the exact sum of the accumulator and the scaled products rounded once, with the zero sign of its
addends.

A row that a drain writes (R255, R256): N values side by side at the row's address, each the cell, or the epilogue's output for its slice,
scaled down, saturated and rounded to the drain's format; every other byte is as before, and under `clr` the row's cells are +0.

The words of the epilogue (R82, R256, R257): each reads the accumulator slice, the side slice, the temporaries, its immediate in every
lane or zero, as its source codes say, and writes the result of its operation under its destination code; a slice begins with no
temporary, and its output is the last value written to code 12. The two words of R257's example turn a cell of +0 and a side value of
3.0 into 1.5.

What the rules leave open here is the model's choice (log entry 19). -/
def Obligations.MicroData : Prop :=
  (∀ (s : State) (t : Nat) (r : Routine) (a m u : BitVec 3) (n k c d e y : BitVec 1) (i : BitVec 16),
     s.focus = .tile t → s.microReady r →
     let x := (s.tile t).mx
     let goes (z : Matrix) : State := s.setTile t { s.tile t with
       mx := { z with running := some { r with upc := r.upc + 1, begun := false } }, moved := true }
     let ends (i : Instr) (c : BitVec 8) : Prop := r.gang = none → exec i s = .next ((s.routineEnds t r c false).markMoved (.tile t))
     let values := shSteps x.shape * shCols x.shape
     (∀ s1, (n = 0 ∧ s1 = s) ∨ (n = 1 ∧ s.readMask t m = (s1, none)) →
       let x := (s1.tile t).mx
       let p := shField (x.reg a) 0 20
       let rows := (List.range (shRows x.shape)).map (fun j => ((p + j * shStride x.shape : Nat) : Int) + x.rowDelta m k j)
       (∀ vals, s1.readRows t (shSteps x.shape) (typeBytes (shType x.shape)) rows = .ok vals →
         exec (.muLda a n m k i) s = .next (s1.setTile t { s1.tile t with moved := true, mx := { x with
           active := x.active.set 0 a.toNat (putField (x.reg a) 0 20 (((p : Int) + 64 * i.toInt) % 2 ^ 20).toNat)
           panelA := some ⟨shType x.shape, 0, shRows x.shape, shSteps x.shape, vals⟩
           running := some { r with upc := r.upc + 1, begun := false } } })) ∧
       (∀ f, r.gang = none → s1.readRows t (shSteps x.shape) (typeBytes (shType x.shape)) rows = .error f →
         exec (.muLda a n m k i) s = .next ((s1.routineEnds t r f false).markMoved (.tile t)))) ∧
     (∀ s1 f, s.readMask t m = (s1, some f) → ends (.muLda a 1 m k i) f) ∧
     (∀ w vals, s.wbValues t (shField (x.reg a) 0 12) (shField (x.reg a) 20 24) values = .ok (w, vals) →
       exec (.muLdb a) s = .next (goes { x with
         active := x.active.set 0 a.toNat (putField (x.reg a) 20 24 (shField (x.reg a) 20 24 + values))
         panelB := some ⟨(hFmt w).toNat, hScale w, shSteps x.shape, shCols x.shape, (List.range (shSteps x.shape)).map (fun j =>
           ((vals.drop (j * shCols x.shape)).take (shCols x.shape)).map (BitVec.ofNat 64))⟩
         position := if hFmt w = 6 then some (shField (x.reg a) 0 12, shField (x.reg a) 20 24 + values) else x.position })) ∧
     (∀ f, s.wbValues t (shField (x.reg a) 0 12) (shField (x.reg a) 20 24) values = .error f → ends (.muLdb a) f) ∧
     (x.bankHeld k = true → exec (.muMac k) s = .next s ∧ exec (.muDrain k a e d m c y u) s = .next s) ∧
     (x.bankHeld k = false → ∀ pa pb, x.panelA = some pa → x.panelB = some pb →
       (pairTypes pa.ty pb.ty = true → exec (.muMac k) s = .next (goes (x.step (x.physBank k) pa pb))) ∧
       (pairTypes pa.ty pb.ty = false → ends (.muMac k) 0x1c)) ∧
     (x.bankHeld k = false → x.panelA = none ∨ x.panelB = none → ends (.muMac k) 0x1c) ∧
     (x.bankHeld k = false →
       let w := x.reg a
       let f := shField w 60 4
       let dr : Drain := ⟨x.physBank k, f, (w.extractLsb' 52 8).toInt, shField w 20 20, shField w 0 20, shCols x.shape, e = 1, c = 1⟩
       (shField w 40 12 = 0 → f ≤ 5 → (f = 0 → e = 0 ∧ shCols x.shape ≤ 32) → (e = 1 → x.epi ≠ []) →
         (∀ side s1 s', s.sideRows t (d = 1) m u y (shRows x.shape) (shCols x.shape) = (s1, .ok side) →
           s1.drainRows t r.gang.isSome dr 0 side = (s', none) →
           exec (.muDrain k a e d m c y u) s = .next ((s'.mapMx t (fun z => { z with
             running := some { r with upc := r.upc + 1, begun := false } })).markMoved (.tile t))) ∧
         (∀ side s1 s' f, r.gang = none → s.sideRows t (d = 1) m u y (shRows x.shape) (shCols x.shape) = (s1, .ok side) →
           s1.drainRows t false dr 0 side = (s', some f) →
           exec (.muDrain k a e d m c y u) s = .next ((s'.routineEnds t r f false).markMoved (.tile t)))) ∧
       (shField w 40 12 ≠ 0 ∨ 5 < f ∨ (f = 0 ∧ (e = 1 ∨ 32 < shCols x.shape)) ∨ (e = 1 ∧ x.epi = []) →
         ends (.muDrain k a e d m c y u) 0x1c))) ∧
  (∀ (m : Matrix) (b : Nat) (pa pb : Panel) (i j : Nat), let f64 : Bool := pa.ty = 0
     let cols : Nat := if f64 then 32 else 64
     b < 2 → pb.cols ≤ cols → i < pa.vals.length → j < pb.cols → pa.vals.length ≤ 64 →
     let row := (pa.vals[i]?).getD []
     let pairs := (row.map (fun w => decodeType pa.ty w.toNat)).zip (pb.vals.map (fun r => ((r.map (fun w => decodeType pb.ty w.toNat))[j]?).getD .nan))
     let old := cellPat (m.bank b) f64 i j
     cellPat ((m.step b pa pb).bank b) f64 i j =
       stepSum (decodeType (if f64 then 0 else 1) old) pairs (shScale m.shape + pb.scale.toInt) f64 % 2 ^ (if f64 then 64 else 32) ∧
     (m.step b pa pb).bank (1 - b) = m.bank (1 - b) ∧
     (∀ k l, k < 64 → l < cols → pa.vals.length ≤ k ∨ pb.cols ≤ l → cellPat ((m.step b pa pb).bank b) f64 k l = cellPat (m.bank b) f64 k l)) ∧
  (∀ (acc : XVal) (ps : List (XVal × XVal)) (k : Int) (f64 : Bool),
     let ty := if f64 then 0 else 1
     let sign : Nat := if f64 then 2 ^ 63 else 2 ^ 31
     let infinity : Nat := if f64 then 0x7FF0000000000000 else 0x7F800000
     let nan : Nat := if f64 then 0x7FF8000000000000 else 0x7FC00000
     let r := stepSum acc ps k f64
     let zero (x : XVal) : Prop := ∃ n e, x = .fin n 0 e
     let addends (n : Bool) : Prop := acc = .inf n ∨ ∃ p ∈ ps, p.1.mul p.2 = .inf n
     let bad : Prop := acc = .nan ∨ ∃ p ∈ ps, p.1 = .nan ∨ p.2 = .nan ∨ (zero p.1 ∧ ∃ n, p.2 = .inf n) ∨ (zero p.2 ∧ ∃ n, p.1 = .inf n)
     (bad → r = nan) ∧ (¬ bad → addends true → addends false → r = nan) ∧
     (∀ n, ¬ bad → addends n → ¬ addends (!n) → r = infinity + if n then sign else 0) ∧
     (acc.finite → (∀ p ∈ ps, p.1.finite ∧ p.2.finite) →
       let exact : ℚ := acc.value + 2 ^ k * (ps.map (fun p => p.1.value * p.2.value)).sum
       (exact ≠ 0 → ∃ x : XVal, x.finite ∧ x.value = exact ∧ r = quant ty .rne x) ∧
       (exact = 0 → ((∃ e, acc = .fin true 0 e) ∧ (∀ p ∈ ps, ∃ e, p.1.mul p.2 = .fin true 0 e) → r = sign) ∧
         (¬ ((∃ e, acc = .fin true 0 e) ∧ ∀ p ∈ ps, ∃ e, p.1.mul p.2 = .fin true 0 e) → r = 0)))) ∧
  (∀ (s : State) (t i : Nat) (d : Drain) (side : List Nat), let f64 : Bool := d.fmt = 0
     let z := typeBytes d.fmt
     let a := d.target + i * d.rowStep
     let bank := (s.mx t).bank d.bank
     i < 64 → d.cols ≤ (if f64 then 32 else 64) → d.bank < 2 → (d.epi = true → f64 = false) →
     (∀ c, s.mtspFault t a (d.cols * z) z false = some c → s.drainOut t false d side i = (s, some c)) ∧
     (s.mtspFault t a (d.cols * z) z false = none → ∃ m c, s.drainOut t false d side i =
         (({ s with mem := m } : State).mapMx t (fun x => if d.clr then x.setBank d.bank c else x), none) ∧
       (∀ x, x < tspAddr t a ∨ tspAddr t a + d.cols * z ≤ x → m.bytes.read x = s.mem.bytes.read x) ∧
       (∀ j v, j < d.cols →
         (d.epi = false → v = decodeType (if f64 then 0 else 1) (cellPat bank f64 i j)) →
         (d.epi = true → ∃ acc lanes : Vec, (∀ l, l < 16 → lanePat 1 acc l = cellPat bank false i (16 * (j / 16) + l)) ∧
           (∀ l, l < 16 → lanePat 1 lanes l = (side[16 * (j / 16) + l]?).getD 0 % 2 ^ 32) ∧
           v = decodeType 1 (lanePat 1 (epiSlice (s.mx t).epi acc lanes) (j % 16))) →
         ∀ b, b < z → m.bytes.read (tspAddr t a + j * z + b) = .ofNat 8 (quant d.fmt .rne (sat d.fmt (v.scale (-d.scale))) / 256 ^ b)) ∧
       (∀ j, j < d.cols → cellPat c f64 i j = 0) ∧
       (∀ k l, k < 64 → l < (if f64 then 32 else 64) → k ≠ i → cellPat c f64 k l = cellPat bank f64 k l))) ∧
  ((∀ (acc side : Vec) (regs : KMap Vec) (w : BitVec 128) (n : Nat),
     let read (k : Nat) : Vec := if k = 0 then acc else if k = 1 then side else if k = 36 then packLanes 1 (fun _ => cImm w)
       else if k = 39 then 0 else regs.get 0 k
     let src (j : Nat) : OpIn := { word := read (cSrc w j) }
     (epiWord acc side regs w).get 0 n = if n = cDst w then ({ w := w, a := src 0, b := src 1, c := src 2 } : OpCtx).results.1 else regs.get 0 n) ∧
   (∀ (acc side : Vec) (ws : List (BitVec 128)) (w : BitVec 128), cDst w ≠ 12 → epiSlice (ws ++ [w]) acc side = epiSlice ws acc side) ∧
   (∀ acc side : Vec, epiSlice [] acc side = 0) ∧
   (∀ k, k < 16 → lanePat 1 (epiSlice [0x4F1000279C4000000000000000000000, 0x421001019CC000000000000000000000] 0 (packLanes 1 (fun _ => 0x40400000))) k
     = 0x3FC00000))

/-- The loads and writes of the unit (R241, R242, R244, R269): a token whose routines have ended or wait at their end reads its bank and
stores it, and completes with one arrival, a fault's cause and position with it; a `mup` copies a word at a time into the store from
its microword on; a `mepi` reads a byte at a time and then fills the epilogue store, or leaves it empty with status 0x14 for the
first word that fails. A landing pauses them, a stop of the region's clock does not (R370), and an unknown microword ends a routine with 0x1C.

What the rules leave open here is the model's choice (log entries 28 and 32). -/
def Obligations.MatrixLoadsComplete : Prop :=
  ∀ (s : State) (t : Nat),
    let x := (s.tile t).mx
    let element (l : MatrixLoad) : State × Acc (List Byte) :=
      s.fetch t (s.tile t).inTask l.entry.g0 (gAddr l.entry.g0 l.pos) (gBytes l.entry.g0)
    (x.tokens = [] → exec (.maccBankRead t) s = .next s) ∧
    ((s.tile t).landing? = true → exec (.maccBankRead t) s = .next s ∧ exec (.mupCompletion t) s = .next s ∧
      exec (.mepiCompletion t) s = .next s ∧ exec (.matrixFault t) s = .next s) ∧
    (∀ k rest r, x.tokens = k :: rest → k.cells = none → x.running = some r → r.atEnd = false → x.started ≤ k.after →
      exec (.maccBankRead t) s = .next s) ∧
    ((s.tile t).landing? = false →
      (∀ k rest ps s1 c1 y s' c', x.tokens = k :: rest → k.cmd.frozen = false → k.cmd.resend = [] →
        k.cells = some ps ∨ (k.cells = none ∧ x.tokenFree k = true ∧ ps = x.readCells k.bank k.cmd.geo) →
        s.formAll t k.cmd (if gFmt k.cmd.geo = 0 then 0 else 1) 0 ((ps.drop k.cmd.pos).map (·.toNat)) = (s1, c1, y) →
        (∀ n, s1.performFrom t c1 c1.due = (s', c', .ok n) → c'.unacked = [] →
          exec (.maccBankRead t) s = .next ((s'.mapMx t (fun m => { m with tokens := m.tokens.drop 1 })).arrive t k.bar 0 0)) ∧
        (∀ e p, s1.performFrom t c1 c1.due = (s', c', .stop e p) →
          exec (.maccBankRead t) s = .next ((s'.mapMx t (fun m => { m with tokens := m.tokens.drop 1 })).arrive t k.bar e
            (.ofNat 16 (p.getD c'.pos % 1024))))) ∧
      (∀ r, x.running = some r → r.gang = none → r.atEnd = false → 1023 < r.upc ∨ decodeMicro (x.store.get 0 r.upc) = none →
        exec (.matrixFault t) s = .next (s.routineEnds t r 0x1c false)) ∧
      ((∀ l rest s' bs, x.mups = l :: rest → l.frozen = false → element l = (s', .ok bs) →
          let store (m : Matrix) : KMap (BitVec 32) := KMap.set 0 m.store ((l.first + l.pos) % 1024) (.ofNat 32 (leNat bs))
          (l.pos + 1 < gCount l.entry.g0 → exec (.mupCompletion t) s = .next (s'.mapMx t (fun m => { m with
            mups := { l with pos := l.pos + 1 } :: rest, store := store m }))) ∧
          (gCount l.entry.g0 ≤ l.pos + 1 → exec (.mupCompletion t) s = .next ((s'.mapMx t (fun m => { m with
            mups := rest, store := store m })).arrive t (gBar l.entry.g0) 0 0))) ∧
        (∀ l rest s' c p, x.mups = l :: rest → l.frozen = false → element l = (s', .stop c p) →
          exec (.mupCompletion t) s = .next ((s'.mapMx t (fun m => { m with mups := rest })).arrive t (gBar l.entry.g0) c
            (.ofNat 16 (l.pos % 1024)))) ∧
        (∀ l rest, x.mepis = l :: rest → l.frozen = false →
          let ends (s : State) (ws : List (BitVec 128)) (c : BitVec 8) (k : Nat) : State :=
            (s.mapMx t (fun m => { m with mepis := rest, epi := ws })).arrive t (gBar l.entry.g0) c (.ofNat 16 k)
          (s.mepiFault t l.entry.g0 = true → exec (.mepiCompletion t) s = .next (ends s [] 0x14 0)) ∧
          (s.mepiFault t l.entry.g0 = false →
            (∀ s' c p, element l = (s', .stop c p) → exec (.mepiCompletion t) s = .next (ends s' [] c (l.pos / 16))) ∧
            (∀ s' bs, element l = (s', .ok bs) →
              let ws := wordsOf128 (l.bytes ++ [leNat bs])
              (l.pos + 1 < gCount l.entry.g0 → exec (.mepiCompletion t) s = .next (s'.mapMx t (fun m => { m with
                mepis := { l with pos := l.pos + 1, bytes := l.bytes ++ [leNat bs] } :: rest }))) ∧
              (gCount l.entry.g0 ≤ l.pos + 1 → epiFault ws = none → exec (.mepiCompletion t) s = .next (ends s' ws 0 0)) ∧
              (∀ j, gCount l.entry.g0 ≤ l.pos + 1 → epiFault ws = some j →
                exec (.mepiCompletion t) s = .next (ends s' [] 0x14 j)))))))

/-- Gangs (R330, R331, R333 to R335): `mgang` waits while its unit is busy, traps with 0x14 for a word or group that is not legal, and opens an
instance with its lateness window, or joins the open one, or aborts it where it differs; a complete instance performs its staged drains and gives every member one
arrival; at the deadline with a member missing it aborts.

What the rules leave open here is the model's choice (log entry 52). -/
def Obligations.GangsRunTogether : Prop :=
  ∀ (s : State) (h : Hdr) (t : Nat) (i a : BitVec 6), s.focus = .tile t →
    let x := (s.tile t).mx
    let v := s.ctx.va.toNat % 2 ^ 64
    let grp := v % 256
    let bar := v / 256 % 2048
    let d := dieOf (groveOf t)
    let e := x.table.get 0 i.toNat
    let r : Routine := { index := i.toNat, upc := e.toNat % 1024, bar := bar, inTask := (s.tile t).inTask, gang := some grp }
    let ready := x.running = none ∧ x.mups = [] ∧ x.mepis = []
    (¬ ready → exec (.mgang h i a) s = .next s) ∧
    (ready → v / 2 ^ 19 ≠ 0 ∨ grp = 0 ∨ s.inGroup t grp = false → exec (.mgang h i a) s = .next (s.refusing 0x14 0)) ∧
    (ready → v / 2 ^ 19 = 0 → grp ≠ 0 → s.inGroup t grp = true → e.getLsbD 15 = true → (s.die d).gangs.get? grp = none →
      exec (.mgang h i a) s = .next ((s.accepted.setDie d { s.die d with
        gangs := (s.die d).gangs.put grp ⟨i.toNat, bar, s.cycle + (s.tile t).seq.ctl.gangwait.toNat, [s.rankOf t grp], []⟩ }).setTile t
          { s.accepted.tile t with mx := x.called r })) ∧
    (∀ y, ready → v / 2 ^ 19 = 0 → grp ≠ 0 → s.inGroup t grp = true → e.getLsbD 15 = true → (s.die d).gangs.get? grp = some y →
      y.routine = i.toNat → y.bar = bar →
      exec (.mgang h i a) s = .next ((s.accepted.setDie d { s.die d with
        gangs := (s.die d).gangs.put grp { y with joined := y.joined ++ [s.rankOf t grp] } }).setTile t
          { s.accepted.tile t with mx := x.called r })) ∧
    (∀ y, ready → v / 2 ^ 19 = 0 → grp ≠ 0 → s.inGroup t grp = true → (s.die d).gangs.get? grp = some y →
      y.routine ≠ i.toNat ∨ y.bar ≠ bar → exec (.mgang h i a) s = .next (s.accepted.abortGang d grp 0x1a 0x14 (s.rankOf t grp))) ∧
    (∀ y n, (s.die d).gangs.get? n = some y → y.deadline ≤ s.cycle →
      (∀ k, (List.range (s.groupTiles d n).length).find? (fun j => !y.joined.contains j) = some k →
        exec (.gangLate d n) s = .next (s.abortGang d n 0x1b 0x1b k)) ∧
      ((∀ k, k < (s.groupTiles d n).length → k ∈ y.joined) → exec (.gangLate d n) s = .next s)) ∧
    (∀ y n, (s.die d).gangs.get? n = some y →
      (∀ k, k < (s.groupTiles d n).length → k ∈ y.joined ∧ k ∈ y.finished ∧ s.stagedOk (((s.groupTiles d n)[k]?).getD 0) = true) →
      exec (.gangComplete d n) s = .next ((s.groupTiles d n).foldl (fun z m => z.arrive m y.bar 0 0)
        (((s.groupTiles d n).foldl State.performStaged s).mapDie d (fun z => { z with gangs := z.gangs.erase n }))))

/-! ### Barriers, control registers and landings -/

/-- Barriers (R128, R129, R181 to R183): `bar.init` sets a count and clears the phase's arrivals and status; `bar.arr` makes one arrival of
status 0; a wait begins at its barrier, `bar.aw` with an arrival of its own, waits while the phase it found lasts, and leaves its queue with
the releasing phase's outcome, status 0 as nothing and any other as a trap, with the report of a refused
configuration load where there is one. On `b0`, and for waits on a barrier not set up, the word leaves
its queue and nothing else happens.

What the rules leave open here is the model's choice (log entry 55). -/
def Obligations.BarrierWords : Prop :=
  ∀ (s : State) (h : Hdr) (b : BitVec 11) (k : BitVec 8), s.ctx.slot = .v →
    let n := b.toNat
    let q := s.cur
    let bar := q.bar n
    let puts (y : Barrier) : State := s.setSeq s.focus { q with bars := q.bars.set {} n y }
    (b ≠ 0 → exec (.barInit h b k) s = .next (puts { bar with
      init := true, expected := .ofNat 16 (immUnsigned s.ctx.ext k), arrived := 0, status := 0, info := 0, report := none }).accepted) ∧
    (b ≠ 0 → exec (.barArr h b) s = .next (puts (bar.arrive 0 0 none)).accepted) ∧
    (b = 0 → exec (.barInit h b k) s = .next s.accepted ∧ exec (.barArr h b) s = .next s.accepted ∧
      exec (.barWait h b) s = .next s.accepted ∧ exec (.barAw h b) s = .next s.accepted) ∧
    (bar.init = false → exec (.barWait h b) s = .next s.accepted ∧ exec (.barAw h b) s = .next s.accepted) ∧
    (∀ rest, b ≠ 0 → bar.init = true → s.ctx.begun = false → q.queues.get [] 7 = s.ctx :: rest →
      let began : Barrier := { bar with waits := bar.waits.put q.handlers.length .pending }
      let queued (y : Barrier) : State := s.setSeq s.focus { q with
        bars := q.bars.set {} n y, queues := q.queues.set [] 7 ({ s.ctx with begun := true, pos := 0 } :: rest) }
      exec (.barWait h b) s = .next (queued began) ∧
      ∃ z, exec (.barAw h b) s = .next z ∧ z.cur.bar n = began.arrive 0 0 none ∧ z.cur.queues = (queued began).cur.queues ∧
        z.mem = s.mem ∧ z.cur.traps = q.traps) ∧
    (b ≠ 0 → bar.init = true → s.ctx.begun = true →
      let freed : State := puts { bar with waits := bar.waits.erase q.handlers.length }
      (bar.waits.get? q.handlers.length = some .pending → exec (.barWait h b) s = .next s ∧ exec (.barAw h b) s = .next s) ∧
      (∀ info rep, bar.waits.get? q.handlers.length = some (.released 0 info rep) →
        exec (.barWait h b) s = .next freed.accepted ∧ exec (.barAw h b) s = .next freed.accepted) ∧
      (∀ st info, st ≠ 0 → bar.waits.get? q.handlers.length = some (.released st info none) →
        let t := freed.accepted.finding st (trapInfo s.ctx.word (n * 2 ^ 16 + info.toNat) 7) 7
        exec (.barWait h b) s = .next t ∧ exec (.barAw h b) s = .next t) ∧
      (∀ st info r, st ≠ 0 → bar.waits.get? q.handlers.length = some (.released st info (some r)) →
        let t := freed.accepted.finding st r 7
        exec (.barWait h b) s = .next t ∧ exec (.barAw h b) s = .next t))

/-- `own`, `fence` and `swait` (R125, R184 to R186, R327): `own` gives its panes to core or engines, waits for engine accesses still to touch panes
it takes from them, and traps with 0x0A on a pane of the carve-out; `fence` leaves its queue once no access it names is outstanding; `swait`
begins to wait while its handle is busy, takes the fault recorded under it, and one that waits ends with its handle's completion before
another command takes the handle.

What the rules leave open here is the model's choice (log entries 31 and 56). -/
def Obligations.OwnFenceSwait : Prop :=
  ∀ (s : State) (t : Nat) (h : Hdr) (f c : BitVec 8) (o : BitVec 1) (e : BitVec 3) (st : BitVec 6), s.focus = .tile t →
    let x := s.tile t
    let ps := (List.range (c.toNat + 1)).map (· + f.toNat)
    let lo := 4096 * f.toNat
    let hi := 4096 * (f.toNat + c.toNat + 1)
    ((∃ p ∈ ps, x.seq.ctl.inCarve p = true) → exec (.own h f o c) s = .next (s.refusing 0x0a 0)) ∧
    ((∀ p ∈ ps, x.seq.ctl.inCarve p = false) →
      (o = 0 → x.reaching lo hi = true ∨ (∃ k ∈ x.str.cmds, s.castTouches t k.2 lo hi = true) → exec (.own h f o c) s = .next s) ∧
      (o = 1 ∨ (x.reaching lo hi = false ∧ ∀ k ∈ x.str.cmds, s.castTouches t k.2 lo hi = false) →
        ∃ own, exec (.own h f o c) s = .next (s.accepted.setTile t { s.accepted.tile t with own := own }) ∧
          (∀ p, f.toNat ≤ p → p ≤ f.toNat + c.toNat → KMap.get 0 own p = o) ∧
          (∀ p, p < f.toNat ∨ f.toNat + c.toNat < p → KMap.get 0 own p = x.own.get 0 p))) ∧
    (e = 0 ∨ (∀ r ∈ s.cur.allReqs, r.val ≠ none) → s.fenceHeld t e.toNat = false → exec (.fence h e) s = .next s.accepted) ∧
    (s.fenceHeld t e.toNat = true → exec (.fence h e) s = .next s) ∧
    (1 ≤ e.toNat → (∃ r ∈ s.cur.allReqs, r.val = none) → exec (.fence h e) s = .next s) ∧
    ((x.str.cmds.get? st.toNat).isSome → (s.ctx.begun = true → exec (.swait h st) s = .next s) ∧
      (∀ rest, s.ctx.begun = false → s.ctx.slot = .v → s.cur.queues.get [] 7 = s.ctx :: rest → exec (.swait h st) s = .next (s.setSeq s.focus
        { s.cur with queues := s.cur.queues.set [] 7 ({ s.ctx with begun := true, pos := 0 } :: rest) }))) ∧
    (∀ (q : Seq) (e : Entry) (rest : List Entry), q.queues.get [] 7 = e :: rest → e.begun = true → decodeV e.word = some (.swait h st) →
      q.endSwait st.toNat none = { q with queues := q.queues.set [] 7 rest } ∧
      (∀ r, q.endSwait st.toNat (some r) = { q with
        queues := q.queues.set [] 7 rest, traps := q.traps ++ [⟨r.cause, r.info, e.slot.index, none, none⟩] })) ∧
    (x.str.cmds.get? st.toNat = none → x.str.faults.get? st.toNat = none → exec (.swait h st) s = .next s.accepted) ∧
    (∀ r, x.str.cmds.get? st.toNat = none → x.str.faults.get? st.toNat = some r →
      exec (.swait h st) s = .next ((s.accepted.setTile t { s.accepted.tile t with
        str := { x.str with faults := x.str.faults.erase st.toNat } }).finding r.cause r.info s.ctx.slot.index))

/-- `ctl.rd` (R121, R122, R187, R297): each index of the map is held for d as the register stands, zero-extended; any other index traps with 0x02.
A tile's map and a grove sequencer's.

What the rules leave open here is the model's choice (log entry 25). -/
def Obligations.ControlReads : Prop :=
  ∀ (s : State) (h : Hdr) (d : BitVec 6),
    let rd (i : BitVec 12) (v : Word) : Prop := exec (.ctlRd h d i) s = .next (s.holding d v).accepted
    let c := s.cur.ctl
    rd 0x000 (.ofNat 64 s.cycle) ∧ rd 0x002 (c.asid.setWidth 64) ∧ rd 0x010 (c.codebase.setWidth 64) ∧
    rd 0x011 (c.codebound.setWidth 64) ∧ rd 0x020 (c.tvec.setWidth 64) ∧ rd 0x021 (c.trapcause.setWidth 64) ∧
    rd 0x022 (c.trappc.setWidth 64) ∧ rd 0x023 c.trapinfo ∧
    (∀ t, s.focus = .tile t →
      rd 0x001 (s.tileid t) ∧ rd 0x030 (c.uivec.setWidth 64) ∧ rd 0x031 c.uipend ∧ rd 0x032 c.uimask ∧ rd 0x040 (c.spillbase.setWidth 64) ∧
      rd 0x041 (c.spillpanes.setWidth 64) ∧ rd 0x050 (c.tstamp.setWidth 64) ∧ rd 0x051 (c.tgroup.setWidth 64) ∧ rd 0x052 c.tstatus ∧
      rd 0x053 (c.trerun.setWidth 64) ∧ rd 0x060 (c.pmax.setWidth 64) ∧ rd 0x061 (c.preq.setWidth 64) ∧ rd 0x070 (c.gangwait.setWidth 64) ∧
      rd 0x080 (c.mclag.setWidth 64) ∧ rd 0x100 ((s.grove (groveOf t)).stilllimit.setWidth 64) ∧
      rd 0x101 ((s.grove (groveOf t)).replylimit.setWidth 64) ∧
      (∀ i : BitVec 12, i.toNat ∉ [0x000, 0x001, 0x002, 0x010, 0x011, 0x020, 0x021, 0x022, 0x023, 0x030, 0x031, 0x032, 0x040, 0x041, 0x050,
        0x051, 0x052, 0x053, 0x060, 0x061, 0x070, 0x080, 0x100, 0x101] → exec (.ctlRd h d i) s = .next (s.refusing 0x02 0))) ∧
    (∀ g, s.focus = .seq g →
      rd 0x100 ((s.grove g).stilllimit.setWidth 64) ∧ rd 0x101 ((s.grove g).replylimit.setWidth 64) ∧ rd 0x102 ((s.grove g).place.setWidth 64) ∧
      rd 0x103 ((s.grove g).bkrate.setWidth 64) ∧ rd 0x104 ((s.grove g).bkdepth.setWidth 64) ∧ rd 0x105 (.ofNat 64 ((s.grove g).bklevel / 256)) ∧
      rd 0x110 (c.evvec.setWidth 64) ∧ rd 0x111 (c.evpc.setWidth 64) ∧ rd 0x114 (.ofNat 64 (s.grove g).events.length) ∧ rd 0x115 0 ∧
      rd 0x001 (.ofNat 64 (dieOf g * 2 ^ 14 + g % 10 * 2 ^ 10 + 0x3ff)) ∧
      (∀ e rest, (s.grove g).events = e :: rest → rd 0x112 e.w0 ∧ rd 0x113 e.w1) ∧ ((s.grove g).events = [] → rd 0x112 0 ∧ rd 0x113 0) ∧
      (∃ w : Word, rd 0x116 w ∧ ∀ l, w.getLsbD l = (decide (l < 16) && (s.tile (s.physOf g l)).fab.latch)) ∧
      (∀ i : BitVec 12, i.toNat < 0xc00 → i.toNat ∉ [0x000, 0x001, 0x002, 0x010, 0x011, 0x020, 0x021, 0x022, 0x023, 0x100, 0x101, 0x102,
        0x103, 0x104, 0x105, 0x110, 0x111, 0x112, 0x113, 0x114, 0x115, 0x116] → exec (.ctlRd h d i) s = .next (s.refusing 0x02 0)) ∧
      (∀ i : BitVec 12, 0xc00 ≤ i.toNat → 6 ≤ i.toNat % 64 → exec (.ctlRd h d i) s = .next (s.refusing 0x02 0)) ∧
      (∀ l : Nat, l < 16 → let x := (s.tile (s.physOf g l)).seq.ctl
        rd (.ofNat 12 (0xc00 + 64 * l)) (x.codebase.setWidth 64) ∧ rd (.ofNat 12 (0xc01 + 64 * l)) (x.codebound.setWidth 64) ∧
        rd (.ofNat 12 (0xc02 + 64 * l)) (x.spillbase.setWidth 64) ∧ rd (.ofNat 12 (0xc03 + 64 * l)) (x.spillpanes.setWidth 64) ∧
        rd (.ofNat 12 (0xc04 + 64 * l)) (x.trerun.setWidth 64) ∧ rd (.ofNat 12 (0xc05 + 64 * l)) (x.pmax.setWidth 64)))

/-- `ctl.wr` (R121, R122, R187): a tile kernel writes the registers marked read-write, `uipend` by writing ones and `mclag` with 0 stored as 1; a
register it may only read, or that only the supervisor writes, traps with 0x0C and keeps its value, an index outside the map with 0x02.

`ctl.wr` on a grove sequencer (R288, R297, R298, R300): the writable registers of its map, the window into its tiles' supervisor registers, the
head event removed by `evpop`, where an event that waited enters, `place` refused with 0x14 for a value it may not take, and a register
that it may only read, or an index outside the map, trapped as in a tile.

What the rules leave open here is the model's choice (log entries 25 and 53). -/
def Obligations.ControlWrites : Prop :=
  (∀ (s : State) (h : Hdr) (a : BitVec 6) (t : Nat), s.focus = .tile t →
     let v : Word := s.ctx.va.setWidth 64
     let c := s.cur.ctl
     let wr (i : BitVec 12) (y : Ctl) : Prop := exec (.ctlWr h a i) s = .next (s.setSeq s.focus { s.cur with ctl := y }).accepted
     wr 0x020 { c with tvec := v.setWidth 11 } ∧ wr 0x022 { c with trappc := v.setWidth 11 } ∧ wr 0x030 { c with uivec := v.setWidth 11 } ∧
     wr 0x031 { c with uipend := c.uipend &&& ~~~v } ∧ wr 0x032 { c with uimask := v } ∧ wr 0x070 { c with gangwait := v.setWidth 32 } ∧
     wr 0x080 { c with mclag := if v.setWidth 16 = (0 : BitVec 16) then 1 else v.setWidth 16 } ∧
     (∀ i : BitVec 12, i.toNat ∈ [0x000, 0x001, 0x002, 0x010, 0x011, 0x021, 0x023, 0x040, 0x041, 0x050, 0x051, 0x052, 0x053, 0x060, 0x061,
       0x100, 0x101] → exec (.ctlWr h a i) s = .next (s.refusing 0x0c 0)) ∧
     (∀ i : BitVec 12, i.toNat ∉ [0x000, 0x001, 0x002, 0x010, 0x011, 0x020, 0x021, 0x022, 0x023, 0x030, 0x031, 0x032, 0x040, 0x041, 0x050,
       0x051, 0x052, 0x053, 0x060, 0x061, 0x070, 0x080, 0x100, 0x101] → exec (.ctlWr h a i) s = .next (s.refusing 0x02 0))) ∧
  (∀ (s : State) (h : Hdr) (a : BitVec 6) (g : Nat), s.focus = .seq g →
     let v : Word := s.ctx.va.setWidth 64
     let x := s.grove g
     let wr (i : BitVec 12) (y : Grove) : Prop := exec (.ctlWr h a i) s = .next (s.setGrove g y).accepted
     let put (c : Ctl) : Grove := { x with seq := { x.seq with ctl := c } }
     wr 0x020 (put { x.seq.ctl with tvec := v.setWidth 11 }) ∧ wr 0x022 (put { x.seq.ctl with trappc := v.setWidth 11 }) ∧
     wr 0x110 (put { x.seq.ctl with evvec := v.setWidth 11 }) ∧ wr 0x111 (put { x.seq.ctl with evpc := v.setWidth 11 }) ∧
     wr 0x100 { x with stilllimit := v.setWidth 32 } ∧ wr 0x101 { x with replylimit := v.setWidth 32 } ∧
     (x.waiting = [] ∨ x.events = [] → wr 0x115 { x with events := x.events.drop 1 }) ∧
     (∀ e rest, x.waiting = e :: rest → x.events ≠ [] → wr 0x115 { x with events := x.events.drop 1 ++ [e], waiting := rest }) ∧
     (∀ l : Nat, l < 16 → let t := s.physOf g l
       let c := (s.tile t).seq.ctl
       let sets (i : Nat) (y : Ctl) : Prop := exec (.ctlWr h a (.ofNat 12 (0xc00 + 64 * l + i))) s =
         .next (s.setTile t { s.tile t with seq := { (s.tile t).seq with ctl := y } }).accepted
       sets 0 { c with codebase := v.setWidth 11 } ∧ sets 1 { c with codebound := v.setWidth 12 } ∧
       sets 2 { c with spillbase := v.setWidth 8 } ∧ sets 3 { c with spillpanes := v.setWidth 9 } ∧
       sets 4 { c with trerun := v.setWidth 8 } ∧ sets 5 { c with pmax := v.setWidth 32 }) ∧
     (∀ i : BitVec 12, i.toNat ∈ [0x000, 0x001, 0x002, 0x010, 0x011, 0x021, 0x023, 0x103, 0x104, 0x105, 0x112, 0x113, 0x114, 0x116] →
       exec (.ctlWr h a i) s = .next (s.refusing 0x0c 0)) ∧
     (∀ i : BitVec 12, (i.toNat < 0xc00 ∧ i.toNat ∉ [0x000, 0x001, 0x002, 0x010, 0x011, 0x020, 0x021, 0x022, 0x023, 0x100, 0x101, 0x102,
       0x103, 0x104, 0x105, 0x110, 0x111, 0x112, 0x113, 0x114, 0x115, 0x116]) ∨ (0xc00 ≤ i.toNat ∧ 6 ≤ i.toNat % 64) →
       exec (.ctlWr h a i) s = .next (s.refusing 0x02 0)) ∧
     (x.migration = none → 32 ≤ v.toNat ∨ (16 ≤ v.toNat ∧ v.toNat ≤ 30) ∨ (v.toNat < 16 ∧ x.place.toNat < 16 ∧ v.toNat ≠ x.place.toNat) →
       exec (.ctlWr h a 0x102) s = .next (s.refusing 0x14 0)) ∧
     (x.migration ≠ none → exec (.ctlWr h a 0x102) s = .next s) ∧
     (x.migration = none → v = x.place.setWidth 64 → v.toNat < 16 ∨ v.toNat = 31 → exec (.ctlWr h a 0x102) s = .next s.accepted) ∧
     (x.migration = none → v.toNat < 16 → x.place = 31 → exec (.ctlWr h a 0x102) s = .next (s.startMigration g (v.setWidth 5)).accepted) ∧
     (x.migration = none → v.toNat = 31 → x.place.toNat < 16 → exec (.ctlWr h a 0x102) s = .next (s.startMigration g 31).accepted))

/-- Landing points (R33, R190, R230, R267, R268, R272, R282): with no pre-emption requested `yield`, `ckpt`, PREEMPT_LANDING and FORCED_SAVE
change nothing, and with no kill pending neither do `killpt` and QUORUM_KILL_LANDING; with one requested, at a bundle where R267 lets it
land, `yield` and `ckpt` begin the landing, `ckpt` with its checkpoint, and so does an iteration boundary, as the `ckpt` of its first
bundle. A kill lands by the same drain, `killpt` passing its bundle; a drain gives every fed port a firebreak and pauses the commands
that do not feed it. A grove sequencer's context is saved between two bundles outside handlers.

The save (R37, R269 to R272): a tile that is a region by itself is saved once its landing has drained, all accesses in flight performed,
or as it stands on a frozen region, with all its registers where the save is full and those of its checkpoint otherwise; a parity error in
the array is met by the save; a kill that has drained takes effect, and a tile that has not landed is left alone.

What the rules leave open here is the model's choice (log entries 9, 38 and 59). -/
def Obligations.LandingsAndSaves : Prop :=
  (∀ (s : State) (h : Hdr) (n : BitVec 8),
     (∀ t, s.focus = .tile t →
       let x := s.tile t
       let residues := x.str.cmds.filterMap (fun c => c.2.residue)
       let lands (k : Option Nat) (full : Bool) : State := s.setTile t (x.drainFor (.landing k full x.seq.inFlight residues))
       (x.preempt = none →
         exec (.yield h) s = .next s ∧ exec (.ckpt h n) s = .next s ∧ exec .preemptLanding s = .next s ∧ exec .forcedSave s = .next s) ∧
       (x.killDue = false → exec (.killpt h) s = .next s ∧ exec (.quorumKillLanding t) s = .next s) ∧
       (∀ since, x.preempt = some (.requested since) → x.killDue = false →
         (s.cur.holds h = true → x.landingOpen false = true →
           exec (.yield h) s = .next (lands none true) ∧ exec (.ckpt h n) s = .next (lands (some n.toNat) false)) ∧
         (x.seq.boundary = true → x.landingOpen false = true →
           (s.ckptAt (.tile t) = none → exec .preemptLanding s = .next (lands none true)) ∧
           (∀ k, s.ckptAt (.tile t) = some k → exec .preemptLanding s = .next (lands (some k) false))) ∧
         (s.cycle < since + x.seq.ctl.pmax.toNat → exec .forcedSave s = .next s) ∧
         (since + x.seq.ctl.pmax.toNat ≤ s.cycle → x.landingOpen true = true →
           exec .forcedSave s = .next (s.setTile t (({ x with
             seq := { x.seq with ctl := { x.seq.ctl with preq := x.seq.ctl.preq ||| 2 } } } : Tile).drainFor
               (.landing none true x.seq.inFlight residues))))) ∧
       (x.killDue = true → x.inGang = false → x.preempt ≠ some .saved → x.seq.handlers = [] → x.seq.prefixes = [] → x.seq.noTrap = false →
         (s.cur.holds h = true → exec (.killpt h) s = .next ((s.landKill t).advance x.seq.pcNat [])) ∧
         (x.freeze.isSome ∨ (x.seq.boundary = true ∧ x.landing? = false) → exec (.quorumKillLanding t) s = .next (s.landKill t)) ∧
         (x.drains? = false → s.landKill t = s.finishKill t) ∧
         (x.drains? = true → x.preempt = none → s.landKill t = s.setTile t (x.drainFor (.killing none)))) ∧
       (∀ p, let y := x.drainFor p
         y.preempt = some p ∧ y.seq = x.seq ∧
         (x.drains? = false → y.fab = x.fab) ∧ (x.drains? = false → x.fab.draining = false → ∀ e ∈ y.str.cmds, e.2.paused = true) ∧
         (∀ k c, (k, c) ∈ x.str.cmds → c.paused = false → x.fab.draining = true → c.drains ≠ none ∨ c.kind = .recirc → (k, c) ∈ y.str.cmds) ∧
         (x.drains? = true → (∀ e ∈ y.str.cmds, e.2.paused = true ∨ e.2.kind = .recirc ∨ e.2.drains ≠ none) ∧
           (x.fab.draining = false → y.fab.draining = true ∧ y.fab.edges = x.fab.edges ∧
             ∀ k, k < 16 → (x.image.inPort k).isSome → x.portBroken k = false →
               (∀ e ∈ x.str.cmds, e.2.kind = .recirc → e.2.port ≠ k) → k ∈ y.fab.fed)))) ∧
     (∀ g since, s.focus = .seq g → (s.grove g).preempt = some (.requested since) → (s.grove g).seq.handlers = [] →
       (s.grove g).seq.prefixes = [] → (s.grove g).seq.noTrap = false →
       exec .preemptLanding s = .next (s.setGrove g { s.grove g with preempt := some .saved }))) ∧
  (∀ (s : State) (t : Nat),
     let x := s.tile t
     (∀ since, x.preempt = some .saved ∨ x.preempt = some (.requested since) ∨ (x.preempt = none ∧ x.fab.draining = false) →
       exec (.contextSave t) s = .next s) ∧
     (∀ k full fly held, x.preempt = some (.landing k full fly held) → x.killDue = false → s.regionTiles (dieOf (groveOf t)) (s.regionOf t) = [t] →
       (x.seq.run = .running → x.freeze = none → x.drained = false ∨ x.performed = false → exec (.contextSave t) s = .next s) ∧
       (x.freeze.isSome ∨ (x.drained = true ∧ x.performed = true) →
         (x.saveBad = true → exec (.contextSave t) s = .next (s.softError t)) ∧
         (x.saveBad = false →
           (full = true ∨ k = none → exec (.contextSave t) s = .next (s.setTile t { x with preempt := some .saved })) ∧
           (∀ n, full = false → k = some n →
             exec (.contextSave t) s = .next (s.setTile t { x.forget n fly held with preempt := some .saved }))))) ∧
     (∀ since, x.preempt = some (.killing since) →
       (x.drained = false → exec (.contextSave t) s = .next s) ∧
       (x.drained = true → exec (.contextSave t) s = .next (s.finishKill t))) ∧
     (∀ n fly held, let e := x.live.get 0 n
       let y := x.forget n fly held
       e.getLsbD 127 = true → (e.extractLsb' 116 11).toNat = (x.seq.pc % 2048).toNat →
         (∀ k v, k < 32 → (k, v) ∈ y.seq.s ↔ ((k, v) ∈ x.seq.s ∧ (e.getLsbD (80 + k) = true ∨ .s k ∈ fly))) ∧
         (∀ k v, k < 16 → (k, v) ∈ y.seq.a ↔ ((k, v) ∈ x.seq.a ∧ (e.getLsbD (64 + k) = true ∨ .a k ∈ fly))) ∧
         (∀ k v, k < 16 → (k, v) ∈ y.g ↔ ((k, v) ∈ x.g ∧ (e.getLsbD (48 + k) = true ∨ .g k ∈ fly))) ∧
         (∀ k v, k < 16 → (k, v) ∈ y.nz ↔ ((k, v) ∈ x.nz ∧ (e.getLsbD (32 + k) = true ∨ k ∈ held))) ∧
         y.seq.q = x.seq.q ∧ y.seq.loops = x.seq.loops ∧ y.seq.bars = x.seq.bars))

/-! ### Configurations and tasks -/

/-- `cfg.load` (R78, R191): it waits for a load of its slot, traps with 0x14 where its source lies in no space that it reads, and otherwise
empties the slot and starts the load; a load ends with its image: installed with an arrival of status 0 where it stands the checks, and
otherwise with its cause at the barrier, the slot unarmed, or with a trap where it names no barrier.

`cfg.run` (R133, R192, R304, R305): with its slot resident and not loading, no task open, its group 0 or one that the tile is in, no reply
outstanding and nothing in flight, it opens a task; a task aborted to be run again takes its slot again. It opens a task so: the record of R133 is taken, the slot is active with its array in its first state, and `tstamp`, `tgroup`, `treruns` and
`tstatus` begin anew.

What the rules leave open here is the model's choice (log entries 18, 33 and 34). -/
def Obligations.ConfigurationsLoadAndRun : Prop :=
  (∀ (s : State) (h : Hdr) (t : Nat) (l : BitVec 2) (g : BitVec 4) (b : BitVec 11), s.focus = .tile t →
     let x := s.tile t
     ((x.fab.loads.get? l.toNat).isSome → exec (.cfgLoad h l g b) s = .next s) ∧
     (x.fab.loads.get? l.toNat = none →
       (2 < gSpace s.ctx.g0 → exec (.cfgLoad h l g b) s = .next (s.refusing 0x14 0)) ∧
       (gSpace s.ctx.g0 ≤ 2 →
         exec (.cfgLoad h l g b) s = .next (s.accepted.setTile t { s.accepted.tile t with fab := { x.fab with
           slots := x.fab.slots.erase l.toNat, loads := x.fab.loads.put l.toNat ⟨s.ctx, l.toNat, b.toNat⟩ } }))) ∧
     (x.still = false → ∀ ld s' r, x.fab.loads.get? l.toNat = some ld → s.loadImage t ld = (s', some r) →
       exec (.cfgLoadCompletion t l.toNat) s = .next (s'.endLoad t l.toNat ld r)) ∧
     (∀ ld, let y := (s.tile t).fab
       (∀ im, ((s.endLoad t l.toNat ld (.ok im)).tile t).fab = { y with loads := y.loads.erase l.toNat, slots := y.slots.put l.toNat im } ∧
         (ld.bar ≠ 0 → ((s.endLoad t l.toNat ld (.ok im)).tile t).seq.bar ld.bar = ((s.tile t).seq.bar ld.bar).arrive 0 0 none)) ∧
       (∀ c i r, ((s.endLoad t l.toNat ld (.error (c, i, r))).tile t).fab = { y with loads := y.loads.erase l.toNat } ∧
         (ld.bar ≠ 0 → ((s.endLoad t l.toNat ld (.error (c, i, r))).tile t).seq.bar ld.bar =
           ((s.tile t).seq.bar ld.bar).arrive c (.ofNat 16 i) (if i = 0 then none else some r)) ∧
         (ld.bar = 0 → ((s.endLoad t l.toNat ld (.error (c, i, r))).tile t).seq.traps =
           (s.tile t).seq.traps ++ [⟨c, r, ld.entry.slot.index, none, none⟩]))) ∧
     (x.fab.loads.get? l.toNat = none → exec (.cfgLoadCompletion t l.toNat) s = .next s)) ∧
  (∀ (s : State) (h : Hdr) (t : Nat) (l : BitVec 2) (a : BitVec 6) (g : BitVec 8), s.focus = .tile t → s.cur.holds h = true → s.cur.lands = [] →
     (∀ r ∈ s.cur.reqs, r.dest = none) →
     let x := s.tile t
     (∀ k, x.task = some k → k.rerunning = true → x.seq.ctl.tended = false → g = 0 ∨ s.inGroup t g.toNat = true → (x.fab.slots.get? k.slot).isSome → x.fab.loads.get? k.slot = none →
       ∃ z, exec (.cfgRun h l a g) s = .next z ∧ z.mem = s.mem ∧ (z.tile t).fab.active = some k.slot ∧ (z.tile t).fab.edges = [] ∧
         (z.tile t).fab.carry = (x.fab.slots.get {} k.slot).preloads ∧ (z.tile t).task = some { k with rerunning := false } ∧
         (z.tile t).seq.ctl = x.seq.ctl ∧ (z.tile t).seq.s = x.seq.s) ∧
     (x.task = none → x.fab.decision = none → g = 0 ∨ s.inGroup t g.toNat = true → (x.fab.slots.get? l.toNat).isSome →
       x.fab.loads.get? l.toNat = none →
     ∃ z, exec (.cfgRun h l a g) s = .next z ∧ z.mem = s.mem ∧
       (z.tile t).fab.active = some l.toNat ∧ (z.tile t).fab.latch = false ∧ (z.tile t).fab.edges = [] ∧ (z.tile t).fab.elems = [] ∧
       (z.tile t).fab.carry = (x.fab.slots.get {} l.toNat).preloads ∧ (z.tile t).str.ixDue = [] ∧
       (z.tile t).seq.ctl.tstamp = (s.cur.opnd a).setWidth 48 ∧ (z.tile t).seq.ctl.tgroup = g ∧ (z.tile t).seq.ctl.treruns = 0 ∧
       (z.tile t).seq.ctl.tended = false ∧ (z.tile t).seq.ctl.topen = true ∧
       (∃ k, (z.tile t).task = some k ∧ k.pc = s.ctx.pc ∧ k.s = x.seq.s ∧ k.a = x.seq.a ∧ k.q = x.seq.q ∧ k.loops = x.seq.loops ∧ k.g = x.g ∧
         k.nz = x.nz ∧ k.bars = x.seq.bars ∧ k.slot = l.toNat ∧ k.boundary = x.seq.boundary ∧ k.log = [] ∧ k.signature = 0 ∧ k.committed = false ∧
         k.key = ((s.cur.opnd a).setWidth 48 : BitVec 48).toNat * 256 + s.dieTile t ∧
         (g = 0 ∨ (∀ f, (s.die (dieOf (groveOf t))).frontier.get? g.toNat = some f → f < k.key) → k.seen = 0) ∧
         (∀ f, g ≠ 0 → (s.die (dieOf (groveOf t))).frontier.get? g.toNat = some f → k.key ≤ f →
           ∀ e ∈ s.groupTasks (dieOf (groveOf t)) g.toNat, e.2.seen < k.seen)) ∧
       (z.tile t).g = x.g ∧ (z.tile t).seq.s = x.seq.s ∧ (z.tile t).seq.pc = x.seq.pc))

/-- `tsk.end` (R134, R193): a task whose work is done asks the die for commit; while it waits nothing changes; one that committed with every write
acknowledged, or ended, is closed, with trap 0x1F where its soft re-runs are exhausted; one with a
kill pending ends killed, one whose log covers part of a target word of its join ends with 0x09; without a task the word only leaves its queue.

A commit point (R318, R321, R323, R374): one in a cycle at a die, and with no request that may commit nothing happens; a task becomes
committed with its request gone: every byte of its log that lies outside its join's target is in memory, and every channel word that it
made present and whose channel is still allocated is present; no other byte changes. Its remote writes go to be sent, its key is the
frontier of its group, and every later task of the group that has read a granule it wrote is aborted to run again, in a tile or in a
saved context, and no other task is. A task whose channel words another writer has made present ends with 0x16, one whose target word
is uncorrectable with 0x13, one that writes part of a target word with 0x09, which R193 has `tsk.end` refuse before (log entry 52).

The order of commit points (R319, R374): a request may commit when every open task of its group that comes before its own has committed or
ended, and of those that may the first to arrive is taken, of one cycle that of the lowest key. A task comes before another by its key,
and one opened at or below the frontier before every other task, the later opened first.

What the rules leave open here is the model's choice (log entries 35 and 52). -/
def Obligations.TasksEndAndCommit : Prop :=
  (∀ (s : State) (h : Hdr) (t : Nat), s.focus = .tile t →
     let x := s.tile t
     let d := dieOf (groveOf t)
     (x.task = none → exec (.tskEnd h) s = .next s.accepted) ∧
     (∀ k, x.task = some k →
       (x.seq.ctl.tended = true → x.seq.ctl.tstat ≠ .fault ∨ x.seq.ctl.tcause ≠ 0x1f → exec (.tskEnd h) s = .next (s.setTile t x.closeTask).accepted) ∧
       (x.seq.ctl.tended = true → x.seq.ctl.tstat = .fault → x.seq.ctl.tcause = 0x1f → exec (.tskEnd h) s = .next
         ((s.setTile t x.closeTask).accepted.finding 0x1f (trapInfo s.ctx.word 0 s.ctx.slot.index) s.ctx.slot.index)) ∧
       (x.seq.ctl.tended = false → k.committed = true → k.acks = false → exec (.tskEnd h) s = .next (s.setTile t x.closeTask).accepted) ∧
       (x.seq.ctl.tended = false → k.committed = true → k.acks = true → exec (.tskEnd h) s = .next s) ∧
       (x.seq.ctl.tended = false → k.committed = false → k.requested = true ∨ x.taskDone = false → exec (.tskEnd h) s = .next s) ∧
       (x.seq.ctl.tended = false → k.committed = false → k.requested = false → x.taskDone = true → k.killPending = false →
         s.partial? t k = false → exec (.tskEnd h) s = .next ((s.setTile t { x with task := some { k with requested := true } }).setDie d { s.die d with
           commits := (s.die d).commits ++ [⟨t, x.seq.ctl.tgroup.toNat, k.key, s.cycle⟩] })) ∧
       (x.seq.ctl.tended = false → k.committed = false → k.requested = false → x.taskDone = true → k.killPending = true →
         exec (.tskEnd h) s = .next (s.abortTask t .quorum 0)) ∧
       (x.seq.ctl.tended = false → k.committed = false → k.requested = false → x.taskDone = true → k.killPending = false →
         s.partial? t k = true → exec (.tskEnd h) s = .next (s.abortTask t .fault 0x09)))) ∧
  (∀ (s : State) (d : Nat),
     (s.nextCommit d = none ∨ (s.die d).committed = some s.cycle → exec (.commitPoint d) s = .next s) ∧
     (∀ c k, s.nextCommit d = some c → (s.tile c.tile).task = some k → (s.die d).committed ≠ some s.cycle → s.joinOf c.tile c.group = none →
       s.taken k = false → KMap.sorted k.log = true →
       ∃ z, exec (.commitPoint d) s = .next z ∧
         (∀ a b, k.log.get? a = some b → z.mem.bytes.read a = b) ∧ (∀ a, k.log.get? a = none → z.mem.bytes.read a = s.mem.bytes.read a) ∧
         (∀ a g, a ∈ k.present → g = (a - gspAddr 0 0) / 0x1000000 → ((s.grove g).channelOf (a - gspAddr g 0)).isSome → z.present a = true) ∧
         (∃ y, (z.tile c.tile).task = some y ∧ y.committed = true ∧ y.acks = !k.remote.isEmpty) ∧ (z.tile c.tile).seq.ctl.tstat = .committed ∧
         (∀ e ∈ (z.die d).commits, e.tile ≠ c.tile) ∧ (z.die d).committed = some s.cycle ∧
         (z.die d).writeback = (s.die d).writeback ++ (if k.remote.isEmpty then [] else [⟨c.tile, byDest k.remote, 0, none, false⟩]) ∧
         (z.die d).frontier.get? c.group = (if c.group = 0 ∨ k.seen ≠ 0 then (s.die d).frontier.get? c.group else some k.key) ∧
         (∀ e, e ≠ c.group → (z.die d).frontier.get? e = (s.die d).frontier.get? e) ∧
         (KMap.sorted s.tiles = true → ∀ t k', t ≠ c.tile → dieOf (groveOf t) = d → s.dieTile t < 160 → (s.tile t).task = some k' →
           let hit := c.group ≠ 0 ∧ (s.tile t).seq.ctl.tgroup.toNat = c.group ∧ (s.tile t).seq.ctl.tended = false ∧ k'.committed = false ∧
             k.before k' = true ∧ ∃ a ∈ k.log, sigHas k'.signature (granuleKey (a.1 / 256 * 256)) = true
           (hit → (z.tile t).seq.ctl.tstat = .conflict ∧ ∃ y, (z.tile t).task = some y ∧ y.log = [] ∧ y.rerunning = true) ∧
           (¬ hit → (z.tile t).task = some k' ∧ (z.tile t).seq.ctl = (s.tile t).seq.ctl)) ∧
         (∀ g l y k', dieOf g = d → l < 16 → (s.grove g).savedTiles.get? l = some y → y.task = some k' → c.group ≠ 0 →
           y.seq.ctl.tgroup.toNat = c.group → y.seq.ctl.tended = false → k'.committed = false → k.before k' = true →
           (∃ a ∈ k.log, sigHas k'.signature (granuleKey (a.1 / 256 * 256)) = true) →
           ∃ y', (z.grove g).savedTiles.get? l = some y' ∧ y'.seq.ctl.tstat = .conflict ∧ ∃ k'', y'.task = some k'' ∧ k''.log = [])) ∧
     (∀ c k, s.nextCommit d = some c → (s.tile c.tile).task = some k → (s.die d).committed ≠ some s.cycle →
       (s.taken k = true → exec (.commitPoint d) s = .next (s.abortTask c.tile .fault 0x16)) ∧
       (s.taken k = false → s.targetBad c.tile k = true → exec (.commitPoint d) s = .next (s.abortTask c.tile .fault 0x13)) ∧
       (s.taken k = false → s.targetBad c.tile k = false → s.partial? c.tile k = true →
         exec (.commitPoint d) s = .next (s.abortTask c.tile .fault 0x09)))) ∧
  ((∀ (s : State) (d : Nat),
     let open_ (c : CommitReq) : Prop := ∃ k, (s.tile c.tile).task = some k ∧
       (c.group = 0 ∨ ∀ e ∈ s.groupTasks d c.group, e.1 = .tile c.tile ∨ e.2.before k = false)
     (s.nextCommit d = none ↔ ∀ c ∈ (s.die d).commits, ¬ open_ c) ∧
     (∀ c, s.nextCommit d = some c → c ∈ (s.die d).commits ∧ open_ c ∧ ∀ e ∈ (s.die d).commits, open_ e →
       c.cycle < e.cycle ∨ (c.cycle = e.cycle ∧ c.key ≤ e.key))) ∧
   (∀ a b : Task, (a.seen = 0 → b.seen = 0 → (a.before b = true ↔ a.key < b.key)) ∧
     (a.seen ≠ 0 ∨ b.seen ≠ 0 → (a.before b = true ↔ b.seen < a.seen))) ∧
   (∀ rs : List Remote, (byDest rs).Perm rs ∧ (∀ e, (byDest rs).filter (fun r => r.dest = e) = rs.filter (fun r => r.dest = e)) ∧
     (∀ (i j k : Nat) (x y z : Remote), i < j → j < k → (byDest rs)[i]? = some x → (byDest rs)[j]? = some y → (byDest rs)[k]? = some z → x.dest = z.dest →
       y.dest = x.dest)))

/-- Quorum joins (R340 to R343): a join open past its deadline is released, one before it or without one is not; a released join that is not filled
is filled: under NONE nothing else changes.

Contributions (R340): the commit point of a member of an open join whose target lies in one page combines each target word that its log writes
with the word of the log times the member's weight, leaves the target words that it does not write, and counts the member as arrived; the
join releases with its q-th arrival. The combination is the `f32` sum, maximum or minimum.

The fills RESCALE and SUBSTITUTE (R342) of a released join whose target lies in one page, with no word uncorrectable: RESCALE multiplies every
target word by the sum of all weights over the sum of those arrived, each sum in `f32` in the order of the members, and leaves the target
where none has arrived or their weights sum to zero; SUBSTITUTE combines into every target word, member by member, the substitute
word of each member that has not arrived times its weight.

The write-back of a committed log (R318): the first remote write goes out, one at a time, a peer word with its response awaited and stored bytes
at once, where the drive answers; the task of a log that is all acknowledged has nothing to wait for. A response awaited for `replylimit`
cycles, of a peer or of a drive that does not answer, is reported to firmware once and faults the partition with 0x12.

What the rules leave open here is the model's choice (log entries 35 and 46). -/
def Obligations.JoinsCloseAndLogsGoOut : Prop :=
  (∀ (s : State) (d n : Nat) (j : Join), (s.die d).joins.get? n = some j →
     (∀ c, j.released = false → j.deadline = some c →
       (s.cycle < c → exec (.quorumTimeout d n) s = .next s) ∧ (c ≤ s.cycle → exec (.quorumTimeout d n) s = .next (s.releaseJoin d n))) ∧
     (j.released = true ∨ j.deadline = none → exec (.quorumTimeout d n) s = .next s) ∧
     (j.released = false ∨ j.filled = true → exec (.quorumFill d n) s = .next s) ∧
     (j.released = true → j.filled = false → j.fill = 0 →
       exec (.quorumFill d n) s = .next (s.setDie d { s.die d with joins := (s.die d).joins.put n { j with filled := true } })) ∧
     (j.released = false →
       ((s.releaseJoin d n).die d).joins.get? n = some { j with released := true })) ∧
  ((∀ (s : State) (d : Nat) (c : CommitReq) (k : Task) (n i b : Nat) (j : Join), s.nextCommit d = some c → (s.tile c.tile).task = some k →
     (s.die d).committed ≠ some s.cycle → s.joinOf c.tile c.group = some (n, j, i) → j.pages = [(0, b)] → j.tlen % 4 = 0 →
     s.taken k = false → s.targetBad c.tile k = false → s.partial? c.tile k = false → KMap.sorted k.log = true →
     ∃ z, exec (.commitPoint d) s = .next z ∧
       (∀ a v, a < b ∨ b + j.tlen ≤ a → k.log.get? a = some v → z.mem.bytes.read a = v) ∧
       (∀ a, a < b ∨ b + j.tlen ≤ a → k.log.get? a = none → z.mem.bytes.read a = s.mem.bytes.read a) ∧
       (∀ w, 4 * w < j.tlen →
         (w ∈ j.targets k.log → z.readNat (b + 4 * w) 4 = joinOp j.op (decodeType 1 (s.readNat (b + 4 * w) 4))
           ((decodeType 1 ((j.weights[i]?).getD 0).toNat).mul
             (decodeType 1 (leNat ((List.range 4).map (fun o => (k.log.get? (b + 4 * w + o)).getD 0)))))) ∧
         (w ∉ j.targets k.log → z.readNat (b + 4 * w) 4 = s.readNat (b + 4 * w) 4)) ∧
       (∀ w, w ∈ j.targets k.log ↔ ∃ e ∈ k.log, b ≤ e.1 ∧ e.1 < b + j.tlen ∧ w = (e.1 - b) / 4) ∧
       (z.die d).joins.get? n = some { j with arrived := j.arrived ++ [i], released := decide (j.arrived.length + 1 = j.q) }) ∧
   (∀ x y : XVal,
     (∃ v, XVal.sums .rne [x, y] v ∧ joinOp 0 x y = quant 1 .rne v) ∧
     (x = .nan ∨ y = .nan → joinOp 1 x y = 0x7FC00000 ∧ joinOp 2 x y = 0x7FC00000) ∧
     (x.finite → y.finite → x.value < y.value →
       joinOp 1 x y = quant 1 .rne y ∧ joinOp 1 y x = quant 1 .rne y ∧ joinOp 2 x y = quant 1 .rne x ∧ joinOp 2 y x = quant 1 .rne x))) ∧
  ((∀ (s : State) (d n b : Nat) (j : Join), (s.die d).joins.get? n = some j → j.released = true → j.filled = false → j.pages = [(0, b)] →
     s.mem.poison = [] → ∃ z, exec (.quorumFill d n) s = .next z ∧ (z.die d).joins.get? n = some { j with filled := true } ∧
       (∀ a, a < b ∨ b + j.tlen ≤ a → z.mem.bytes.read a = s.mem.bytes.read a) ∧
       (j.fill = 1 → j.factor = none → z.mem = s.mem) ∧
       (∀ f k, j.fill = 1 → j.factor = some f → k < j.tlen / 4 →
         z.readNat (b + 4 * k) 4 = quant 1 .rne ((decodeType 1 (s.readNat (b + 4 * k) 4)).mul (decodeType 1 f))) ∧
       (∀ c k, j.fill = 2 → j.subPages = [(0, c)] → c + j.weights.length * j.tlen ≤ b ∨ b + j.tlen ≤ c → k < j.tlen / 4 →
         ∃ v : Nat → Nat, v 0 = s.readNat (b + 4 * k) 4 ∧ z.readNat (b + 4 * k) 4 = v j.weights.length ∧
           ∀ i w, j.weights[i]? = some w → v (i + 1) = if i ∈ j.arrived then v i else
             joinOp j.op (decodeType 1 (v i)) ((decodeType 1 w.toNat).mul (decodeType 1 (s.readNat (c + i * j.tlen + 4 * k) 4))))) ∧
   (∀ j : Join,
     let total (p : Nat → Bool) : Nat := (j.weights.zipIdx.filter (fun e => p e.2)).foldl (fun a e =>
       quant 1 .rne (XVal.add .rne (decodeType 1 a) (decodeType 1 e.1.toNat))) 0
     let here := total (fun i => j.arrived.contains i)
     (j.arrived = [] ∨ here % 2 ^ 31 = 0 → j.factor = none) ∧
     (j.arrived ≠ [] → here % 2 ^ 31 ≠ 0 → j.factor = some (divide (decodeType 1 (total (fun _ => true))) (decodeType 1 here)))) ∧
   (∀ x y v : XVal, x.finite → y.finite → v.finite → x.value ≠ 0 → v.value * y.value = x.value → divide x y = quant 1 .rne v)) ∧
  (∀ (s : State) (t : Nat) (o : Outgoing) (rest : List Outgoing), let d := dieOf (groveOf t)
     let kept (z : State) (y : Outgoing) : State := z.setDie d { z.die d with writeback := y :: rest }
     let closes (z : State) : State := (z.setDie d { z.die d with writeback := rest }).mapTile t
       (fun x => { x with task := x.task.map (fun k => { k with acks := false }) })
     (s.die d).writeback = o :: rest → o.tile = t →
     (o.awaited ≠ 0 → exec (.logWriteback t) s = .next s) ∧
     (o.awaited = 0 → o.items = [] → exec (.logWriteback t) s = .next (closes s)) ∧
     (∀ e a v k is, o.awaited = 0 → o.items = .peer e a v k :: is →
       exec (.logWriteback t) s = .next (kept (s.sendPeer d e { kind := k, addr := a, data := v, senders := [(t, 0, 0)] })
         { o with items := is, awaited := 1, since := some s.cycle, told := false })) ∧
     (∀ p n a bs is, o.awaited = 0 → o.items = .store p n a bs :: is →
       (s.hub.driveDown.get? p = none →
         (is = [] → exec (.logWriteback t) s = .next (closes (s.writeFlash p n a bs))) ∧
         (is ≠ [] → exec (.logWriteback t) s = .next (kept (s.writeFlash p n a bs) { o with items := is, since := none, told := false }))) ∧
       ((s.hub.driveDown.get? p).isSome →
         (o.since = none → exec (.logWriteback t) s = .next (kept s { o with since := some s.cycle })) ∧
         (o.since ≠ none → exec (.logWriteback t) s = .next s))) ∧
     (∀ c, o.since = some c → let limit := (s.grove (groveOf t)).replylimit.toNat
       let waits := o.awaited ≠ 0 ∨ ∃ p n a bs is, o.items = .store p n a bs :: is ∧ (s.hub.driveDown.get? p).isSome
       (s.cycle - c < limit ∨ o.told = true ∨ ¬ waits → exec (.remoteWritebackTimeout t) s = .next s) ∧
       (limit ≤ s.cycle - c → o.told = false → waits → exec (.remoteWritebackTimeout t) s = .next
         (((kept s { o with told := true }).report 0x12 (groveOf t)).faultPartition (groveOf t) 0x12))))

/-- A soft error (R38, R39, R273, R274): on every member of the region an open task is run again with its array reset, until as many reruns for
soft errors as `trerun` allows, and then ends with fault 0x1F, or killed where a kill is pending; where the tasks of the region have all ended
or committed the error is kept for the next activation; with none, the tile escalates with 0x13.

A re-run (R134): the registers, loops, barriers, geometries and residues of the record are back, the queues, the handlers and every result in flight are gone (a
store or atomic of no task goes on to its bank; of a barrier's waits only that of a `mu.wait` that goes on stays, over where its phase is not the recorded one), the array is in its first state, and dispatch stands at the `cfg.run` bundle; nothing of the log is left.

What stopping a kernel and aborting a task leave (R134, R347, R350): an idle tile as it was; any other idle, with no task, no handle in use,
nothing queued and no handler (a store or atomic of no task goes on to its bank); an aborted task stays open, ended with its status, and its log is gone. Memory keeps every byte.

What the rules leave open here is the model's choice (log entries 34, 52 and 58). -/
def Obligations.TasksAreRerunOrAborted : Prop :=
  (∀ (s : State) (t : Nat), (∀ m ∈ s.regionMates t, (s.die (dieOf (groveOf m))).gangs = []) →
     ((∀ m ∈ s.regionMates t, (s.tile m).task = none) → exec (.parityErrorAbort t) s = .next (s.takeEscalation t 0x13)) ∧
     ((∀ m ∈ s.regionMates t, (s.tile m).inTask = false) → (∃ m ∈ s.regionMates t, (s.tile m).task ≠ none) →
       exec (.parityErrorAbort t) s = .next (s.setTile t { s.tile t with parityDue := true })) ∧
     ((∃ m ∈ s.regionMates t, (s.tile m).inTask = true) →
       exec (.parityErrorAbort t) s = .next ((s.regionMates t).foldl State.softMember s)) ∧
     (∀ k, (s.tile t).task = some k → (s.tile t).inTask = true →
       let s1 := s.setTile t (s.tile t).reinstall
       (k.killPending = false → k.soft < (s.tile t).seq.ctl.trerun.toNat → s.softMember t = s1.retryTask t .softError) ∧
       (k.killPending = false → (s.tile t).seq.ctl.trerun.toNat ≤ k.soft → s.softMember t = s1.abortTask t .fault 0x1f) ∧
       (k.killPending = true → s.softMember t = s1.abortTask t .quorum 0))) ∧
  (∀ (s : State) (t : Nat) (st : TaskStatus) (k : Task), (s.tile t).task = some k → (s.tile t).seq.ctl.tended = false → k.committed = false →
     (s.tile t).freeze = none →
     let z := s.retryTask t st
     (z.tile t).seq.pc = k.pc ∧ (z.tile t).seq.s = k.s ∧ (z.tile t).seq.a = k.a ∧ (z.tile t).seq.q = k.q ∧ (z.tile t).seq.loops = k.loops ∧
     (∀ n, let c := (s.tile t).seq.bar n
       ∃ ws, (z.tile t).seq.bar n = { k.bars.get {} n with waits := ws } ∧ (∀ i, i ≠ microWait → ws.get? i = none) ∧
         ws.get? microWait = (if c.waits.get? microWait = some .pending ∧ (k.bars.get {} n).phase ≠ c.phase then some (.released 0 0 none)
           else c.waits.get? microWait)) ∧ (z.tile t).g = k.g ∧ (z.tile t).nz = k.nz ∧ (z.tile t).seq.queues = [] ∧ (z.tile t).seq.lands = [] ∧
     (z.tile t).seq.lates = [] ∧ (∀ r ∈ (z.tile t).seq.reqs, r.dest = none ∧ r.inTask = false) ∧
     (z.tile t).seq.handlers = [] ∧ (z.tile t).seq.boundary = k.boundary ∧ (z.tile t).fab.edges = [] ∧ (z.tile t).fab.elems = [] ∧
     (z.tile t).seq.ctl.tstat = st ∧ (∀ e ∈ (z.tile t).str.cmds, e.2.inTask = false) ∧ z.mem.bytes = s.mem.bytes ∧
     (∃ y, (z.tile t).task = some y ∧ y.log = [] ∧ y.signature = 0 ∧ y.remote = [] ∧ y.rerunning = true)) ∧
  (∀ (s : State) (t : Nat),
     ((s.tile t).seq.run = .idle → s.stopKernel t = s) ∧
     ((s.tile t).seq.run ≠ .idle → let z := s.stopKernel t
       (z.tile t).seq.run = .idle ∧ (z.tile t).task = none ∧ (z.tile t).seq.queues = [] ∧ (z.tile t).seq.handlers = [] ∧
       (z.tile t).seq.lands = [] ∧ (∀ r ∈ (z.tile t).seq.reqs, r.dest = none ∧ r.inTask = false) ∧
       ((s.tile t).freeze = none → (z.tile t).freeze = none) ∧ (z.tile t).preempt = none ∧
       (z.tile t).mx.tokens = [] ∧ z.mem.bytes = s.mem.bytes) ∧
     (∀ st c, (s.tile t).task = none ∨ (s.tile t).seq.ctl.tended = true → s.abortTask t st c = s) ∧
     (∀ st c k, (s.tile t).task = some k → (s.tile t).seq.ctl.tended = false → k.committed = false → let z := s.abortTask t st c
       (z.tile t).seq.ctl.tended = true ∧ (z.tile t).seq.ctl.tstat = st ∧ (z.tile t).seq.ctl.tcause = (if st = .fault then c else 0) ∧
       (z.tile t).seq.pc = (s.tile t).seq.pc ∧ (z.tile t).seq.s = (s.tile t).seq.s ∧ (∀ e ∈ (z.tile t).str.cmds, e.2.inTask = false) ∧
       (∃ y, (z.tile t).task = some y ∧ y.log = [] ∧ y.remote = [] ∧ y.signature = 0 ∧ y.requested = false) ∧ z.mem.bytes = s.mem.bytes))

/-! ### Words of a grove sequencer -/

/-- Words over tasks and kernels (R329, R347 to R351): in a tile kernel every word that only a sequencer may issue is a privilege trap; a mask
with a bit above bit 15 traps with 0x14; otherwise `cfg.dec` sets the pending decision of each masked tile, `tsk.abort` ends its task with
status software, `tk.stop` leaves it idle, `tk.start` starts it from the record, and `tk.stat` reads its state.

What the rules leave open here is the model's choice (log entries 42, 52, 53 and 62). -/
def Obligations.KernelAndTaskWords : Prop :=
  ∀ (s : State) (h : Hdr) (a : BitVec 6) (x v : BitVec 2) (m4 l4 : BitVec 4) (j d : BitVec 6) (n : BitVec 8),
    (∀ t, s.focus = .tile t → ∀ i ∈ [Instr.cfgDec h a x v, .tskAbort h a, .qOpen h j m4, .qWait h d j, .qClose h j, .grpLd h m4, .grpRd h d n,
      .tkStart h a m4, .tkStop h a, .tkStat h d l4, .rgResume h a, .chAlloc h a n, .chFree h n], exec i s = .next (s.refusing 0x0c 0)) ∧
    (∀ g, s.focus = .seq g →
      let m : Word := s.ctx.va.setWidth 64
      let hit := (List.range 16).filter (fun l => m.getLsbD l)
      let tile (l : Nat) : Nat := s.physOf g l
      (2 ^ 16 ≤ m.toNat → exec (.cfgDec h a x v) s = .next (s.refusing 0x14 0) ∧ exec (.tskAbort h a) s = .next (s.refusing 0x14 0) ∧
        exec (.tkStop h a) s = .next (s.refusing 0x14 0)) ∧
      (m.toNat < 2 ^ 16 →
        (∃ z, exec (.cfgDec h a x v) s = .next z ∧ z.mem = s.mem ∧ (∀ l ∈ hit, (z.tile (tile l)).fab.decision = some (x, v)) ∧
          (∀ k, (∀ l ∈ hit, k ≠ tile l) → z.tile k = s.tile k)) ∧
        exec (.tskAbort h a) s = .next (hit.foldl (fun z l => z.abortTask (tile l) .software 0) s.accepted) ∧
        exec (.tkStop h a) s = .next (hit.foldl (fun z l => z.stopKernel (tile l)) s.accepted)) ∧
      (let e := s.ctx.vb.toNat
       let b := s.mem.bytes.readList (gspAddr g e) 64
       (2 ^ 24 ≤ e → exec (.tkStart h a m4) s = .next (s.refusing 0x0b 0)) ∧
       (e < 2 ^ 24 → e % 64 ≠ 0 → exec (.tkStart h a m4) s = .next (s.refusing 0x09 0)) ∧
       (e < 2 ^ 24 → e % 64 = 0 → (s.grove g).channelOf e = none → s.mem.poisoned (gspAddr g e) 64 = false →
         (2 ^ 16 ≤ m.toNat ∨ m = 0 ∨ kernelOk b = false ∨ (∃ l ∈ hit, (s.tile (tile l)).seq.run = .running) →
           exec (.tkStart h a m4) s = .next (s.refusing 0x14 0)) ∧
         (m.toNat < 2 ^ 16 → m ≠ 0 → kernelOk b = true → (∀ l ∈ hit, (s.tile (tile l)).seq.run ≠ .running) → (s.grove g).migration = none →
           ∃ z, exec (.tkStart h a m4) s = .next z ∧ z.mem = s.mem ∧ (∀ k, (∀ l ∈ hit, k ≠ tile l) → z.tile k = s.tile k) ∧
             (∀ l ∈ hit, let q := (z.tile (tile l)).seq
               q.run = .running ∧ q.pc = (bytesAt b 0 2 : Nat) ∧ q.queues = [] ∧ q.handlers = [] ∧ q.loops = [] ∧
               (∀ k, q.readS k = if k = 1 then .ofNat 64 (bytesAt b 32 8) else 0) ∧
               (∀ k, q.readA k = if k = 0 then .ofNat 72 (bytesAt b 16 9) else 0) ∧
               q.ctl.codebase = .ofNat 11 (bytesAt b 2 2) ∧ q.ctl.codebound = .ofNat 12 (bytesAt b 4 2) ∧ q.ctl.tvec = 0 ∧ q.ctl.uivec = 0 ∧
               q.ctl.spillbase = .ofNat 8 (bytesAt b 6 1) ∧ q.ctl.spillpanes = .ofNat 9 (bytesAt b 8 2) ∧
               q.ctl.trerun = .ofNat 8 (bytesAt b 10 1) ∧ q.ctl.pmax = .ofNat 32 (bytesAt b 12 4) ∧ q.bars = (s.tile (tile l)).seq.bars ∧
               (z.tile (tile l)).task = none)))) ∧
      (∃ w : Word, exec (.tkStat h d l4) s = .next (s.holding d w).accepted ∧
        (let y := s.tile (tile l4.toNat)
         (w.extractLsb' 0 24).toNat = y.seq.ctl.tstatus.toNat % 2 ^ 24 ∧ w.extractLsb' 24 18 = 0 ∧
         (y.preempt = some .saved → (w.extractLsb' 61 3).toNat = 6) ∧
         (y.preempt ≠ some .saved → y.freeze = none → (s.grove g).migration = none →
           ((w.extractLsb' 61 3).toNat = match y.seq.run with
             | .idle => 0
             | .running => 1
             | .halted => 2
             | .escalated => 3) ∧
           (y.seq.run = .running → (w.extractLsb' 42 11).toNat = (y.seq.pc % 2048).toNat ∧ w.extractLsb' 53 8 = 0) ∧
           (y.seq.run = .escalated → w.extractLsb' 42 11 = y.seq.ctl.trappc ∧ w.extractLsb' 53 8 = y.seq.ctl.trapcause)))))

/-- Quorum joins (R338, R339, R342, R344, R345): `q.open` checks bounds and alignment of its descriptor, its fields and its ranges, in that order,
and opens the join for a target in the scratchpad; `q.wait` waits for the fill point and answers the arrival mask; `q.close` frees a released join
and releases an open one.

What the rules leave open here is the model's choice (log entry 62). -/
def Obligations.JoinWords : Prop :=
  ∀ (s : State) (h : Hdr) (j d : BitVec 6) (a : BitVec 4) (g : Nat), s.focus = .seq g →
    let k := dieOf g
    let e := s.ctx.va.toNat
    let b := s.mem.bytes.readList (gspAddr g e) 64
    let n := (groupMembers ((s.die k).groups.get 0 (bytesAt b 0 1))).length
    let ready (o len : Nat) : Prop := s.gspReady g o len = true ∧ s.mem.poisoned (gspAddr g o) len = false
    (2 ^ 24 ≤ e → exec (.qOpen h j a) s = .next (s.refusing 0x0b 0)) ∧
    (e < 2 ^ 24 → e % 64 ≠ 0 → exec (.qOpen h j a) s = .next (s.refusing 0x09 0)) ∧
    (e < 2 ^ 24 → e % 64 = 0 → ready e 64 →
      (s.descriptorOk k j.toNat b = false → exec (.qOpen h j a) s = .next (s.refusing 0x14 0)) ∧
      (s.descriptorOk k j.toNat b = true → e + 64 + 4 * n ≤ 2 ^ 24 → ready (e + 64) (4 * n) → bytesAt b 17 1 = 1 → bytesAt b 2 1 % 4 ≠ 2 →
        (2 ^ 24 < bytesAt b 8 9 + bytesAt b 20 4 → exec (.qOpen h j a) s = .next (s.refusing 0x0b 0)) ∧
        (bytesAt b 8 9 + bytesAt b 20 4 ≤ 2 ^ 24 → exec (.qOpen h j a) s = .next (s.accepted.setDie k { s.die k with
          joins := (s.die k).joins.put j.toNat { grove := g, group := bytesAt b 0 1, q := bytesAt b 1 1, fill := bytesAt b 2 1 % 4
                                                 op := bytesAt b 2 1 / 4 % 4
                                                 deadline := if bytesAt b 4 4 = 0 then none else some (s.cycle + bytesAt b 4 4)
                                                 pages := [(0, gspAddr g (bytesAt b 8 9))], tlen := bytesAt b 20 4, subPages := []
                                                 weights := (List.range n).map (fun i =>
                                                   BitVec.ofNat 32 (s.readNat (gspAddr g (e + 64 + 4 * i)) 4))
                                                 asid := (s.grove g).seq.ctl.asid } })))) ∧
    ((s.die k).joins.get? j.toNat = none → exec (.qWait h d j) s = .next (s.holding d 0).accepted ∧ exec (.qClose h j) s = .next s.accepted) ∧
    (∀ x, (s.die k).joins.get? j.toNat = some x →
      (x.filled = false → exec (.qWait h d j) s = .next s) ∧
      (x.filled = true → x.arrived.Nodup → ∃ w : Word, exec (.qWait h d j) s = .next (s.holding d w).accepted ∧
        ∀ i, i < 64 → w.getLsbD i = decide (i ∈ x.arrived)) ∧
      (x.released = true → ∃ z, exec (.qClose h j) s = .next z ∧ (z.die k).joins.get? j.toNat = none) ∧
      (x.released = false → x.fill = 0 → ∃ z, exec (.qClose h j) s = .next z ∧ z.mem.bytes = s.mem.bytes ∧
        (z.die k).joins.get? j.toNat = some { x with released := true, filled := true }))

/-- Groups, regions and channels (R292, R302, R353 to R357): `grp.ld` installs the records of an image that stands the checks, all or none; `grp.rd`
reads an entry's summary; `rg.resume` restarts a frozen region once it is scanned out, a parity error in what
is scanned back being a soft error; `ch.alloc` makes a channel valid with its words absent, or
traps; `ch.free` makes it invalid.

What the rules leave open here is the model's choice (log entry 43). -/
def Obligations.GroupRegionAndChannelWords : Prop :=
  ∀ (s : State) (h : Hdr) (a : BitVec 4) (r d : BitVec 6) (c : BitVec 8) (g : Nat), s.focus = .seq g →
    let k := dieOf g
    let v : Word := s.ctx.va.setWidth 64
    (∀ s1 e, s.seqRead g s.ctx.va 8 = (s1, .error e) → exec (.grpLd h a) s = .next (s1.refusing e 0)) ∧
    (∀ s1 b s2 x, s.seqRead g s.ctx.va 8 = (s1, .ok b) → let n := bytesAt b 0 2
      1 ≤ n → n ≤ 256 → zeroAt b 2 6 = true → s1.seqRead g (s.ctx.va + 8) (40 * n) = (s2, .ok x) →
      (List.range n).all (fun i => zeroAt x (40 * i + 1) 7) = true →
      let recs := (List.range n).map (fun i => (bytesAt x (40 * i) 1, BitVec.ofNat 256 (bytesAt x (40 * i + 8) 32)))
      let new := applyRecords (s2.die k).groups recs
      (s2.groupsOk k recs new = true → exec (.grpLd h a) s = .next (s2.accepted.setDie k { s2.die k with groups := new })) ∧
      (s2.groupsOk k recs new = false → exec (.grpLd h a) s = .next (s2.refusing 0x14 0))) ∧
    (∃ w : Word, exec (.grpRd h d c) s = .next (s.holding d w).accepted ∧
      (let e := (s.die k).groups.get 0 c.toNat
       w.getLsbD 63 = e.getLsbD 255 ∧ w.getLsbD 62 = e.getLsbD 254 ∧ (w.extractLsb' 48 8).toNat = (groupMembers e).length ∧
       w.extractLsb' 56 6 = 0 ∧ w.extractLsb' 26 22 = 0 ∧
       (∀ i, i < 10 → w.getLsbD (16 + i) = (groupMembers e).any (fun m => m / 16 = i)) ∧
       (∀ l, l < 16 → w.getLsbD l = e.getLsbD (16 * (g % 10) + l)))) ∧
    (let ts := s.regionNamed k (v.toNat % 512)
     (512 ≤ v.toNat ∨ (∀ t ∈ ts, groveOf t ≠ g) → exec (.rgResume h r) s = .next (s.refusing 0x14 0)) ∧
     (v.toNat < 512 → (∃ t ∈ ts, groveOf t = g) →
       ((∀ t ∈ ts, (s.tile t).freeze = none) → exec (.rgResume h r) s = .next s.accepted) ∧
       (∀ t f rest, ts = t :: rest → (s.tile t).freeze = some f →
         (f.scanned = false → exec (.rgResume h r) s = .next s) ∧
         (f.scanned = true → (∀ m ∈ ts, (s.tile m).preempt = none ∧ s.slotAltered m = false) →
           ((∀ m ∈ ts, (s.tile m).parityBad = false) → exec (.rgResume h r) s = .next (s.accepted.thaw t false)) ∧
           (∀ m, ts.find? (fun m => (s.tile m).parityBad) = some m →
             exec (.rgResume h r) s = .next ((s.accepted.thaw t false).softError m)))))) ∧
    (let old := (s.grove g).chans.get 0 c.toNat
     let legal := v.getLsbD 63 = false ∧ v.extractLsb' 42 20 = 0 ∧ v.extractLsb' 18 6 = 0 ∧ (v.extractLsb' 0 18 = 0 → v.extractLsb' 24 18 = 0) ∧
       old.getLsbD 63 = false ∧ (∀ e ∈ (s.grove g).chans, chanValid e.2 = true → chanMeets v e.2 = false)
     (¬ legal → exec (.chAlloc h r c) s = .next (s.refusing 0x14 0)) ∧
     (legal → 2 ^ 18 < chanBase v + chanSize v → exec (.chAlloc h r c) s = .next (s.refusing 0x0b 0)) ∧
     (legal → chanBase v + chanSize v ≤ 2 ^ 18 → ∃ z, exec (.chAlloc h r c) s = .next z ∧ z.mem.bytes = s.mem.bytes ∧ z.tiles = s.tiles ∧
       (∀ n, (z.grove g).chans.get 0 n = if n = c.toNat then v ||| BitVec.twoPow 64 63 else (s.grove g).chans.get 0 n) ∧
       (∀ x, x < 2 ^ 24 → z.present (gspAddr g x) =
         (s.present (gspAddr g x) && !(decide (chanBase v ≤ x / 64) && decide (x / 64 < chanBase v + chanSize v))))) ∧
     (old.getLsbD 63 = false → exec (.chFree h c) s = .next s.accepted) ∧
     (old.getLsbD 63 = true → (∀ u ∈ groveUnits g, (s.seqOf u).reqs = []) → (∀ p, p < 17 → (s.tile (tileAt g p)).str.cmds = []) →
       ∃ z, exec (.chFree h c) s = .next z ∧ z.mem = s.mem ∧
         (∀ n, (z.grove g).chans.get 0 n = if n = c.toNat then old &&& ~~~ BitVec.twoPow 64 63 else (s.grove g).chans.get 0 n)))

/-! ### The array -/

/-- Data firings of elements (R9 to R11, R14 to R19, R37, R84, R85): the element's group fires as one where data stands at every input, no member
has fired in this cycle and there is room at every output it may write; a fault of its heads ends the task, a parity error is met; otherwise
nothing happens. A lone element with one input edge and one output edge takes the head of the one, and its counter moves on and wraps at its
limit; its result, where `emit` lets it go, enters the pipeline and reaches the other edge when its cycles are over.

What the rules leave open here is the model's choice (log entry 6). -/
def Obligations.ElementsFire : Prop :=
  (∀ (s : State) (t n op : Nat) (mk : Nat → Nat → Instr), (op, mk) ∈ elementOps →
    let x := s.tile t
    let i := x.image
    let ms := i.group (cGroup (i.elem n))
    (x.inTask = false ∨ x.still = true ∨ cOp (i.elem n) ≠ op → exec (mk t n) s = .next s) ∧
    (x.inTask = true → x.still = false → cOp (i.elem n) = op →
      (x.ready i ms = .data → x.mayFire i ms = true → x.roomData i ms = true →
        (x.firingBad i ms = false → exec (mk t n) s = .next (s.setTile t { x.fireData i ms with moved := true })) ∧
        (x.firingBad i ms = true → exec (mk t n) s = .next (s.softError t))) ∧
      (x.ready i ms = .data → x.mayFire i ms = false ∨ x.roomData i ms = false → exec (mk t n) s = .next s) ∧
      (∀ c k, x.ready i ms = .fault c k → exec (mk t n) s = .next (s.elementFault t c k 0)) ∧
      (x.ready i ms = .wait ∨ x.ready i ms = .header ∨ x.ready i ms = .firebreak → exec (mk t n) s = .next s))) ∧
  (∀ (x : Tile) (i : CfgImage) (n k m : Nat) (e o : BitVec 64), i.boundary [n] = [(n, 0, k, e)] → i.outs n 0 = [(m, o)] →
    i.carriesIn n = [] → i.carriesOut n = [] → i.tokenSource n = 0 →
    let y := x.fireData i [n]
    let r := (x.opCtx i [] n).results.1
    let low := (x.opCtx i [] n).results.2
    y.fab.edges.get [] k = (x.fab.edges.get [] k).drop 1 ∧ (∀ j, j ≠ k → y.fab.edges.get [] j = x.fab.edges.get [] j) ∧
    (y.elemAt n).pipe = (x.elemAt n).pipe ++ [⟨7 + cAlign (i.elem n), if (x.elemAt n).emits (i.elem n) then [(m, ⟨0, r, 0⟩)] else [], [],
      ⟨0, r, 0⟩ :: (if isPair (cOp (i.elem n)) then [⟨0, low, 0⟩] else [])⟩] ∧
    y.fab.carry = x.fab.carry ∧ y.fab.ops = x.fab.ops ∧ (∀ j, j ≠ n → y.elemAt j = x.elemAt j) ∧ y.seq = x.seq ∧ y.str = x.str ∧
    (y.elemAt n).lc0 = (if (x.elemAt n).lc0.toNat + 1 = cLim0 (i.elem n) then 0 else (x.elemAt n).lc0 + 1)) ∧
  (∀ (x : Tile) (n m l : Nat) (w : Slot512) (rs : List Slot512) (rest : List Staged), (x.elemAt n).pipe = ⟨l, [(m, w)], [], rs⟩ :: rest →
    let y := x.flowElem n
    let later := rest.map (fun p => { p with left := p.left - 1 })
    y.seq = x.seq ∧ y.str = x.str ∧ (∀ j, j ≠ n → y.elemAt j = x.elemAt j) ∧
    (1 < l → (y.elemAt n).pipe = ⟨l - 1, [(m, w)], [], rs⟩ :: later ∧ y.fab.edges = x.fab.edges) ∧
    (l ≤ 1 → (y.elemAt n).pipe = later ∧ y.fab.edges.get [] m = x.fab.edges.get [] m ++ [w] ∧
      ∀ j, j ≠ m → y.fab.edges.get [] j = x.fab.edges.get [] j))

/-- The integer operations on lanes (R82, R86, R88): each lane of the result is what R86 computes from the lanes of the inputs as signed or unsigned
integers of the type: modulo the lane width, or clamped to the type's range under `saturate` where the class is W; always clamped in class V; the
pattern itself in class B; all ones or zeros in class M.

The floating operations on lanes (R46, R49, R82, R83, R88, R90): an input lane is decoded, flushed where `ftz` says so and scaled exactly;
`fadd`, `fsub`, `fmul`, `fma` and `fnma` form one exact sum or product with the zero sign of R52, `fmin` and `fmax` order −0 below
+0 and give NaN where an operand is, `fabs` and `fneg` set the sign; the exact value is rounded once, saturated first where `saturate`
says so, and flushed. `fcmp` gives all ones or zeros.

Conversions and lane moves (R87, R89, R92 to R98): `cvt` and `cvt.sc` take the part of the lanes that `mod` names, with the
immediate's power of two; `qrnd` rounds to a narrower grid first; `sel` tests a's pattern, `lperm` and `lbcast` move lanes; `lred` and
`lscan` combine lanes 0 to the last or to their own in one exact value; `racc` and `cnt` go on from the accumulator; `cmask` compares
positions; `idot4` adds four byte products; `iscale` rounds a product shifted down; the pair operations give a sum rounded, and what its
rounding leaves.

The transcendental operations (R100 to R105): the results of special operands; powers of two, whose reciprocal, square root's
reciprocal, exponential and logarithm are exact; the example of R103 and the value of `fsig` at 0; the steps of which `fsig`, `ftanh`
and `fsilu` are composed, and their values at the infinities. At 1 `flog2` has the zero sign of R52 (log entry 61).

What the rules leave open here is the model's choice (log entries 57 and 61). -/
def Obligations.LaneResults : Prop :=
  (∀ (x : OpCtx) (k : Nat), isInt x.ty = true → x.a.fmt = x.ty → x.b.fmt = x.ty → x.c.fmt = x.ty → x.a.num = none → x.b.num = none →
     x.c.num = none → k < laneCount x.ty →
     let n := laneBits x.ty
     let val (p : Nat) : Int := if isSignedInt x.ty then Int.bmod (p : Int) (2 ^ n) else p
     let pa := lanePat x.ty x.a.word k
     let pb := lanePat x.ty x.b.word k
     let pc := lanePat x.ty x.c.word k
     let r := lanePat x.ty x.results.1 k
     let wraps (v : Int) : Prop := if cSat x.w then val r = max (intMin x.ty) (min (intMax x.ty) v) else (r : Int) = v % (2 ^ n : Nat)
     let clamps (v : Int) : Prop := val r = max (intMin x.ty) (min (intMax x.ty) v)
     let flags (b : Bool) : Prop := r = if b then 2 ^ n - 1 else 0
     (cOp x.w = 0x01 → r = pa) ∧ (cOp x.w = 0x10 → wraps (val pa + val pb)) ∧ (cOp x.w = 0x11 → wraps (val pa - val pb)) ∧
     (cOp x.w = 0x12 → clamps (val pa + val pb)) ∧ (cOp x.w = 0x13 → clamps (val pa - val pb)) ∧ (cOp x.w = 0x14 → wraps (val pa * val pb)) ∧
     (cOp x.w = 0x15 → (r : Int) = val pa * val pb / (2 ^ n : Nat) % (2 ^ n : Nat)) ∧ (cOp x.w = 0x16 → wraps (val pa * val pb + val pc)) ∧
     (cOp x.w = 0x18 → val r = min (val pa) (val pb)) ∧ (cOp x.w = 0x19 → val r = max (val pa) (val pb)) ∧
     (cOp x.w = 0x1a → wraps (val pa).natAbs) ∧ (cOp x.w = 0x1b → wraps (-val pa)) ∧
     (cOp x.w = 0x1c → val r = min (max (val pa) (val pb)) (val pc)) ∧
     (cOp x.w = 0x1d → cSat x.w = false → r = if n ≤ pb then 0 else pa * 2 ^ pb % 2 ^ n) ∧
     (cOp x.w = 0x1d → cSat x.w = true → clamps (val pa * 2 ^ pb)) ∧
     (cOp x.w = 0x1e → r = if n ≤ pb then 0 else pa / 2 ^ pb) ∧
     (cOp x.w = 0x1f → Int.bmod (r : Int) (2 ^ n) = Int.bmod (pa : Int) (2 ^ n) / (2 ^ min pb n : Nat)) ∧
     (cOp x.w = 0x20 → r = pa &&& pb) ∧ (cOp x.w = 0x21 → r = pa ||| pb) ∧ (cOp x.w = 0x22 → r = pa ^^^ pb) ∧
     (cOp x.w = 0x23 → r = 2 ^ n - 1 - pa) ∧
     (cOp x.w = 0x24 → (cMod x.w = 0 → flags (decide (val pa = val pb))) ∧ (cMod x.w = 1 → flags (decide (val pa ≠ val pb))) ∧
       (cMod x.w = 2 → flags (decide (val pa < val pb))) ∧ (cMod x.w = 3 → flags (decide (val pa ≤ val pb))) ∧
       (cMod x.w = 4 → flags (decide (val pb < val pa))) ∧ (cMod x.w = 5 → flags (decide (val pb ≤ val pa))))) ∧
  (∀ (x : OpCtx) (k : Nat), isFloat x.ty = true → k < laneCount x.ty →
     let a := x.va k
     let b := x.vb k
     let c := x.vc k
     let r := lanePat x.ty x.results.1 k
     let gives (v : XVal) : Prop :=
       let p := quant x.ty (cRnd x.w) (if cSat x.w then sat x.ty v else v)
       r = if cFtz x.w then flush x.ty p else p
     let flags (z : Bool) : Prop := r = if z then 2 ^ laneBits x.ty - 1 else 0
     let least (p q z : XVal) : Prop := (p = .nan ∨ q = .nan → z = .nan) ∧ (p ≠ .nan → q ≠ .nan →
       (p.lt q = true → z = p) ∧ (q.lt p = true → z = q) ∧ (p.lt q = false → q.lt p = false → z = if p.isNeg then p else q))
     (x.a.num = none → isFloat x.a.fmt = true →
       a = (decodeType x.a.fmt (if cFtz x.w then flush x.a.fmt (lanePat x.a.fmt x.a.word k) else lanePat x.a.fmt x.a.word k)).scale x.a.scale) ∧
     (∀ p q : XVal, p.finite → q.finite → p.lt q = decide (p.value < q.value)) ∧
     (cOp x.w = 0x40 → ∃ v, XVal.sums (cRnd x.w) [a, b] v ∧ gives v) ∧ (cOp x.w = 0x41 → ∃ v, XVal.sums (cRnd x.w) [a, b.neg] v ∧ gives v) ∧
     (cOp x.w = 0x42 → ∃ v, XVal.multiplies a b v ∧ gives v) ∧
     (cOp x.w = 0x43 → ∃ p v, XVal.multiplies a b p ∧ XVal.sums (cRnd x.w) [p, c] v ∧ gives v) ∧
     (cOp x.w = 0x44 → ∃ p v, XVal.multiplies a b p ∧ XVal.sums (cRnd x.w) [c, p.neg] v ∧ gives v) ∧
     (cOp x.w = 0x45 → ∃ v, least a b v ∧ gives v) ∧ (cOp x.w = 0x46 → ∃ v, least a.neg b.neg v.neg ∧ gives v) ∧
     (cOp x.w = 0x47 → ∀ n m e, (a = .fin n m e → gives (.fin false m e)) ∧ (a = .inf n → gives (.inf false)) ∧ (a = .nan → gives .nan)) ∧
     (cOp x.w = 0x48 → ∀ n m e, (a = .fin n m e → gives (.fin (!n) m e)) ∧ (a = .inf n → gives (.inf (!n))) ∧ (a = .nan → gives .nan)) ∧
     (cOp x.w = 0x49 → (a = .nan ∨ b = .nan → cMod x.w = 0 ∨ cMod x.w = 2 ∨ cMod x.w = 3 ∨ cMod x.w = 4 ∨ cMod x.w = 5 ∨ cMod x.w = 6 → flags false) ∧
       (a.finite → b.finite → (cMod x.w = 0 → flags (decide (a.value = b.value))) ∧ (cMod x.w = 1 → flags (decide (a.value ≠ b.value))) ∧
         (cMod x.w = 2 → flags (decide (a.value < b.value))) ∧ (cMod x.w = 3 → flags (decide (a.value ≤ b.value))) ∧
         (cMod x.w = 4 → flags (decide (b.value < a.value))) ∧ (cMod x.w = 5 → flags (decide (b.value ≤ a.value))) ∧
         (c.finite → (cMod x.w = 6 → flags (decide (a.value < b.value ∨ c.value < a.value))) ∧
           (cMod x.w = 7 → flags (decide (b.value ≤ a.value ∧ a.value ≤ c.value)))) ∧
         (cMod x.w = 8 → flags false) ∧ (cMod x.w = 9 → flags true)) ∧
       (a = .nan ∨ b = .nan → (cMod x.w = 1 → flags true) ∧ (cMod x.w = 8 → flags true) ∧ (cMod x.w = 9 → flags false)))) ∧
  (∀ (x : OpCtx) (k : Nat), (isFloat x.ty = true ∨ isInt x.ty = true) → k < laneCount x.ty →
     let n := laneCount x.ty
     let bits := laneBits x.ty
     let r := lanePat x.ty x.results.1 k
     let m := cMod x.w
     let moves (v : XVal) : Prop := r = x.formV v
     let lanes (e : Nat) : List XVal := (List.range e).map x.va
     let joined (e : Nat) : Prop :=
       (m = 0 → isFloat x.ty = true → ∃ v, XVal.sums (cRnd x.w) (lanes e) v ∧ moves v) ∧
       (m = 0 → isFloat x.ty = false → r = x.formW ((List.range e).map x.ia).sum) ∧
       (m = 1 ∨ m = 2 → XVal.nan ∈ lanes e → moves .nan) ∧
       (m = 1 → XVal.nan ∉ lanes e → ∃ v ∈ lanes e, (∀ w ∈ lanes e, w.lt v = false) ∧ moves v) ∧
       (m = 2 → XVal.nan ∉ lanes e → ∃ v ∈ lanes e, (∀ w ∈ lanes e, v.lt w = false) ∧ moves v) ∧
       (isInt x.ty = true → x.a.fmt = x.ty → ∀ j, j < bits →
         (m = 3 → (r.testBit j = true ↔ ∀ i < e, (x.a.pat i).testBit j = true)) ∧
         (m = 4 → (r.testBit j = true ↔ ∃ i < e, (x.a.pat i).testBit j = true)) ∧
         (m = 5 → r.testBit j = decide (((List.range e).countP (fun i => (x.a.pat i).testBit j)) % 2 = 1)))
     let factor : Int := if cOp x.w = 0x61 then (BitVec.ofNat 8 (cImm x.w)).toInt else 0
     let width := laneCount x.a.fmt
     (cOp x.w = 0x60 ∨ cOp x.w = 0x61 → (width = n → moves ((x.va k).scale factor)) ∧ (n < width → moves ((x.va (m * n + k)).scale factor)) ∧
       (width < n → (k / width = m → moves ((x.va (k - m * width)).scale factor)) ∧ (k / width ≠ m → r = 0))) ∧
     (cOp x.w = 0x62 → isFloat x.ty = true → r = (let p := quant x.ty (cRnd x.w) (decodeType m (quant m (cRnd x.w) (if cSat x.w then sat m (x.va k) else x.va k))); if cFtz x.w then flush x.ty p else p)) ∧
     (cOp x.w = 0x70 → moves (if lanePat x.ty x.a.word k ≠ 0 then x.vb k else x.vc k)) ∧
     (cOp x.w = 0x71 → (m = 0 → moves (x.va (lanePat x.ty x.b.word k % n))) ∧ (m = 1 → moves (x.va ((k + cImm x.w) % n))) ∧
       (m = 2 → moves (x.va (n - 1 - k))) ∧ (m = 3 → moves (x.va (k ^^^ (cImm x.w % n))))) ∧
     (cOp x.w = 0x72 → moves (x.va (cImm x.w % n))) ∧ (cOp x.w = 0x84 ∨ cOp x.w = 0x85 → moves (x.va k)) ∧
     (cOp x.w = 0x73 → joined n) ∧ (cOp x.w = 0x74 → joined (k + 1)) ∧
     (cOp x.w = 0x80 → (x.acc = none → (m = 0 → isFloat x.ty = true → moves (x.va k)) ∧ (m = 0 → isFloat x.ty = false → r = x.formW (x.ia k)) ∧
         (m = 1 ∨ m = 2 → moves (x.va k)) ∧ (3 ≤ m → r = x.a.pat k % 2 ^ bits)) ∧
       (∀ w, x.acc = some w → let p := lanePat x.ty w k
         (m = 0 → isFloat x.ty = true → ∃ v, XVal.sums (cRnd x.w) [decodeType x.ty p, x.va k] v ∧ moves v) ∧
         (m = 0 → isFloat x.ty = false → r = x.formW ((decodeType x.ty p).int + x.ia k)) ∧
         (m = 1 → moves ((decodeType x.ty p).fmin (x.va k))) ∧ (m = 2 → moves ((decodeType x.ty p).fmax (x.va k))) ∧
         (m = 3 → r = (p &&& x.a.pat k) % 2 ^ bits) ∧ (m = 4 → r = (p ||| x.a.pat k) % 2 ^ bits) ∧
         (m = 5 → r = (p ^^^ x.a.pat k) % 2 ^ bits))) ∧
     (cOp x.w = 0x82 → isInt x.ty = true →
       let one : Int := if lanePat x.ty x.a.word k ≠ 0 then 1 else 0
       (x.acc = none → r = x.formW one) ∧ (∀ w, x.acc = some w → r = x.formW ((decodeType x.ty (lanePat x.ty w k)).int + one))) ∧
     (cOp x.w = 0x83 → r = if x.ia 0 ≤ x.ic 0 + k ∧ x.ic 0 + k < x.ib 0 then 2 ^ bits - 1 else 0) ∧
     (cOp x.w = 0x17 → x.ty = 9 → x.a.fmt = 7 ∨ x.a.fmt = 11 → x.b.fmt = 7 ∨ x.b.fmt = 11 →
       let byte (i : OpIn) (j : Nat) : Int := let p := lanePat 7 i.word j; if i.fmt = 7 then Int.bmod (p : Int) 256 else p
       r = x.formW (x.ic k + ((List.range 4).map (fun j => byte x.a (4 * k + j) * byte x.b (4 * k + j))).sum)) ∧
     (cOp x.w = 0x25 → isInt x.ty = true → x.a.fmt = x.ty → x.b.fmt = x.ty → x.a.num = none → x.b.num = none →
       ∃ v : XVal, v.finite ∧ v.value = x.ia k * x.ib k / 2 ^ (16 + m) ∧ r = quant x.ty (cRnd x.w) v) ∧
     (cOp x.w = 0x51 ∨ cOp x.w = 0x52 → x.ty = 1 →
       let hi := decodeType 1 (lanePat 1 x.a.word k)
       let lo := decodeType 1 (lanePat 1 x.lo k)
       let low := lanePat 1 x.results.2 k
       ∃ v, (cOp x.w = 0x51 → XVal.sums .rne [hi, lo, x.vb k] v) ∧
         (cOp x.w = 0x52 → ∃ h p, XVal.sums .rne [hi, lo] h ∧ XVal.multiplies (x.vb k) h p ∧ XVal.sums .rne [p, x.vc k] v) ∧
         r = rne32 v ∧ (v = .nan ∨ v.value = 0 ∨ (decodeType 1 r).isInf = true → low = 0) ∧
         (v.finite → v.value ≠ 0 → (decodeType 1 r).isInf = false → ∃ d, XVal.sums .rne [v, (decodeType 1 r).neg] d ∧ low = rne32 d))) ∧
  ((∀ (x : OpCtx) (k : Nat), isFloat x.ty = true → k < laneCount x.ty →
     let a := x.va k
     let r := lanePat x.ty x.results.1 k
     let gives (v : XVal) : Prop := r = x.formV v
     let exactly (q : ℚ) : Prop := ∃ v : XVal, v.finite ∧ v.value = q ∧ gives v
     (cOp x.w = 0x4a ∨ cOp x.w = 0x4b ∨ cOp x.w = 0x4c ∨ cOp x.w = 0x4d ∨ cOp x.w = 0x4e ∨ cOp x.w = 0x4f ∨ cOp x.w = 0x50 →
       a = .nan → gives .nan) ∧
     (∀ n e, a = .fin n 0 e → (cOp x.w = 0x4a → gives (.inf n)) ∧ (cOp x.w = 0x4b → gives (.inf n)) ∧ (cOp x.w = 0x4c → exactly 1) ∧
       (cOp x.w = 0x4d → gives (.inf true)) ∧ (cOp x.w = 0x4e → gives a)) ∧
     (∀ n, a = .inf n → (cOp x.w = 0x4a → gives (.fin n 0 0)) ∧ (cOp x.w = 0x4b → gives (if n then .nan else .fin false 0 0)) ∧
       (cOp x.w = 0x4c → gives (if n then .fin false 0 0 else .inf false)) ∧ (cOp x.w = 0x4d → gives (if n then .nan else .inf false)) ∧
       (cOp x.w = 0x4e → exactly (if n then -1 else 1)) ∧ (cOp x.w = 0x4f → if n then gives (.fin false 0 0) else exactly 1) ∧
       (cOp x.w = 0x50 → gives (if n then .fin true 0 0 else .inf false))) ∧
     (∀ n m e, a = .fin n m e → m ≠ 0 → n = true → (cOp x.w = 0x4b ∨ cOp x.w = 0x4d → gives .nan)) ∧
     (∀ n m e j, a = .fin n m e → a.value = (if n then -1 else 1) * (2 : ℚ) ^ (j : Int) → (cOp x.w = 0x4a → exactly ((if n then -1 else 1) * 2 ^ (-j)))) ∧
     (∀ m e j, a = .fin false m e → a.value = (2 : ℚ) ^ (2 * j : Int) → (cOp x.w = 0x4b → exactly (2 ^ (-j)))) ∧
     (∀ m e j, a = .fin false m e → a.value = (2 : ℚ) ^ (j : Int) → (cOp x.w = 0x4d → exactly j)) ∧
     (∀ n m e (j : Int), a = .fin n m e → a.value = j → -4096 ≤ j → j ≤ 4096 → (cOp x.w = 0x4c → exactly (2 ^ j))) ∧
     (∀ n m e, a = .fin n m e → a.value < 2 ^ (-12 : Int) → -(2 ^ (-12 : Int)) < a.value → (cOp x.w = 0x4e → gives a)) ∧
     (cOp x.w = 0x4f → a ≠ .nan →
       let t := decodeType 1 (rne32 (a.neg.mul (decodeType 1 0x3FB8AA3B)))
       let g := decodeType 1 (rne32 (exp2Value t))
       ∃ v, XVal.sums .rne [decodeType 1 0x3F800000, g] v ∧ gives (rcpValue (decodeType 1 (rne32 v)))) ∧
     (∀ n m e, cOp x.w = 0x4e → a = .fin n m e → 2 ^ (-12 : Int) ≤ |a.value| →
       let t := decodeType 1 (rne32 (a.mul (decodeType 1 0x4038AA3B)))
       let g := decodeType 1 (rne32 (exp2Value t))
       ∃ v w, XVal.sums .rne [decodeType 1 0x3F800000, g] v ∧
         XVal.sums (cRnd x.w) [decodeType 1 0x3F800000, ((decodeType 1 (rne32 (rcpValue (decodeType 1 (rne32 v))))).scale 1).neg] w ∧ gives w) ∧
     (∀ n m e, cOp x.w = 0x50 → a = .fin n m e → gives (a.mul (decodeType 1 (rne32 (sigValue a)))))) ∧
   rne32 (exp2Value (decodeType 1 0x40200000)) = 0x40B504F3 ∧ rne32 (sigValue (.fin false 0 0)) = 0x3F000000 ∧
   rne32 (rcpValue (decodeType 1 0x40000000)) = 0x3F000000 ∧ (∀ r, log2Value r (decodeType 1 0x3F800000) = .fin (decide (r = .rdn)) 0 0))

/-- Header firings and firebreaks of elements (R9, R31 to R34, R37, R81, R451): a lone element with a header of its edge's class and of a type that
agrees puts into its pipeline a header of its result type with the same length and tag, and decodes its input by the header's format and scale
from then on; one that does not agree ends the task with 0x15; a firebreak goes on once the pipeline is empty and freezes the element.

What the rules leave open here is the model's choice (log entry 6). -/
def Obligations.HeadersAndFirebreaksPass : Prop :=
  ∀ (s : State) (t n k m : Nat) (e o : BitVec 64) (w : Vec),
    let x := s.tile t
    let i := x.image
    let c := i.elem n
    x.inTask = true → x.still = false → cOp c ≠ 0 → i.group (cGroup c) = [n] → i.boundary [n] = [(n, 0, k, e)] → i.bad = [] →
    i.outs n 0 = [(m, o)] → k ≠ m → (x.elemAt n).frozen = false → x.edgeRoom m o = true →
    (x.headOf k = some ⟨1, w, 0⟩ → (x.elemAt n).mayFire c = true → cOp c ≠ 0x84 → cOp c ≠ 0x85 →
      (classHas (eClass e) (hFmt w).toNat = true → headerAgrees c 0 (hFmt w).toNat = true →
        ∃ (y : Tile) (v : Vec), exec (.headerFiring t n) s = .next (s.setTile t y) ∧
          y.fab.edges.get [] k = (x.fab.edges.get [] k).drop 1 ∧ (∀ j, j ≠ k → y.fab.edges.get [] j = x.fab.edges.get [] j) ∧
          (y.elemAt n).pipe = (x.elemAt n).pipe ++ [⟨7 + cAlign c, [(m, ⟨1, v, 0⟩)], [], [⟨1, v, 0⟩]⟩] ∧
          (hFmt v).toNat = resultType c ∧ hLen v = hLen w ∧ hTag v = hTag w ∧ hAxis v = hAxis w ∧ hAxpos v = hAxpos w ∧
          (y.elemAt n).decA = some ⟨hFmt w, hScale w⟩ ∧ y.seq = x.seq ∧ y.fab.carry = x.fab.carry) ∧
      (classHas (eClass e) (hFmt w).toNat = false ∨ headerAgrees c 0 (hFmt w).toNat = false →
        exec (.headerFiring t n) s = .next (s.elementFault t 0x15 n 0))) ∧
    (x.headOf k ≠ none → (∀ v b, x.headOf k ≠ some ⟨1, v, b⟩ ∧ x.headOf k ≠ some ⟨3, v, b⟩) → exec (.headerFiring t n) s = .next s) ∧
    (n < 64 → x.headOf k = some ⟨2, w, 0⟩ → i.outs n 2 = [] →
      ((x.elemAt n).pipe ≠ [] → exec (.firebreakForward t n) s = .next s) ∧
      ((x.elemAt n).pipe = [] → ∃ y : Tile, exec (.firebreakForward t n) s = .next (s.setTile t y) ∧ (y.elemAt n).frozen = true ∧
        y.fab.edges.get [] k = (x.fab.edges.get [] k).drop 1 ∧ y.fab.edges.get [] m = x.fab.edges.get [] m ++ [⟨2, 0, 0⟩] ∧
        (∀ j, j ≠ k → j ≠ m → y.fab.edges.get [] j = x.fab.edges.get [] j) ∧ y.seq = x.seq))

/-- The router operators (R23, R24, R36, R71): each acts where its configuration gives its node its code; a step changes the tile, or meets a parity error, a head of
the wrong kind ends the task with 0x15, and otherwise nothing happens. On data words: `steer` sends D to the output its token picks, `gate` lets it pass or
discards it, `merge` takes the input its token picks, `carry` takes its first input once and then its loop while the token says so, `repeat` sends
D, held as long as the token says so, and `sink` discards.

What the rules leave open here is the model's choice (log entry 50). -/
def Obligations.OperatorsAct : Prop :=
  (∀ (s : State) (t n code : Nat) (mk : Nat → Nat → Instr) (f : Tile → CfgImage → Nat → OpStep),
    (code, mk, f) ∈ [(1, Instr.opSteer, steerStep), (2, Instr.opMerge, mergeStep), (3, Instr.opCarry, carryStep), (4, Instr.opRepeat, repeatStep),
      (5, Instr.opSink, sinkStep), (6, Instr.opGate, gateStep)] →
    let x := s.tile t
    let i := x.image
    (x.inTask = false ∨ x.still = true ∨ i.opCode n ≠ code ∨ (x.opAt n).frozen = true → exec (mk t n) s = .next s) ∧
    (x.inTask = true → x.still = false → i.opCode n = code → (x.opAt n).frozen = false →
      (f x i n = .wait → exec (mk t n) s = .next s) ∧ (f x i n = .mismatch → exec (mk t n) s = .next (s.elementFault t 0x15 n 0)) ∧
      (∀ y, f x i n = .step y →
        (x.operBad i n = false → exec (mk t n) s = .next (s.setTile t { y with moved := true })) ∧
        (x.operBad i n = true → exec (mk t n) s = .next (s.softError t))))) ∧
  (∀ (x : Tile) (i : CfgImage) (n : Nat) (d l k : Vec),
    let data (j : Nat) (w : Vec) : Prop := x.opHead i n j = some ⟨0, w, 0⟩
    let o := x.opAt n
    (data 0 d → data 3 k → x.opRoom i n (if k.getLsbD 0 then 0 else 1) = true →
      steerStep x i n = .step (((x.opPop i n 0).opPop i n 3).opSend i n (if k.getLsbD 0 then 0 else 1) ⟨0, d, 0⟩)) ∧
    (data 0 d → data 3 k → k.getLsbD 0 = true → x.opRoom i n 0 = true →
      gateStep x i n = .step (((x.opPop i n 0).opPop i n 3).opSend i n 0 ⟨0, d, 0⟩)) ∧
    (data 0 d → data 3 k → k.getLsbD 0 = false → gateStep x i n = .step ((x.opPop i n 0).opPop i n 3)) ∧
    (data (if k.getLsbD 0 then 0 else 1) d → data 3 k → x.opRoom i n 0 = true →
      mergeStep x i n = .step (((x.opPop i n 3).opPop i n (if k.getLsbD 0 then 0 else 1)).opSend i n 0 ⟨0, d, 0⟩)) ∧
    (o.looping = false → data 0 d → data 1 l → x.breakAt i n 3 = false → x.opRoom i n 0 = true →
      carryStep x i n = .step (((x.opPop i n 0).opSend i n 0 ⟨0, d, 0⟩).setOp n { o with looping := true })) ∧
    (o.looping = true → data 1 l → data 3 k → k.getLsbD 0 = true → x.opRoom i n 0 = true →
      carryStep x i n = .step (((x.opPop i n 3).opPop i n 1).opSend i n 0 ⟨0, l, 0⟩)) ∧
    (o.looping = true → data 1 l → data 3 k → k.getLsbD 0 = false →
      carryStep x i n = .step ((x.opPop i n 3).setOp n { o with looping := false })) ∧
    (o.held = none → data 0 d → data 3 k → x.opRoom i n 0 = true →
      repeatStep x i n = .step ((((x.opPop i n 3).opPop i n 0).opSend i n 0 ⟨0, d, 0⟩).setOp n
        { o with held := if k.getLsbD 0 then some ⟨0, d, 0⟩ else none })) ∧
    (∀ v, o.held = some ⟨0, v, 0⟩ → x.opHead i n 0 = none → data 3 k → x.opRoom i n 0 = true →
      repeatStep x i n = .step (((x.opPop i n 3).opSend i n 0 ⟨0, v, 0⟩).setOp n
        { o with held := if k.getLsbD 0 then some ⟨0, v, 0⟩ else none })) ∧
    (data (if (x.opEdge i n 0).isSome then 0 else 3) d →
      sinkStep x i n = .step (x.opPop i n (if (x.opEdge i n 0).isSome then 0 else 3))))

/-! ### The die and its memories -/

/-- Walks, scan-out, stillness and reply timeouts (R223, R224, R366, R371, R373, R376 to R378): a walk fills the translation its command needs, or its
page fault freezes the region; scan-out writes the faulting tile's state and header to its save slot, marks it and posts kind 9; a region still for its limit
freezes with 0x19; a request out for `replylimit` cycles stops its command with 0x12.

Translation (R365 to R367): where no TLB holds the address, the four levels of the ASID's tables are read from the root on. An entry
that is not valid faults with 0x10, a malformed one with 0x11, a poisoned one with 0x13; the first leaf maps the address, if it permits
the access, and otherwise faults with 0x11. What has been found stands in the tile's TLB, whose entries translate without a walk under the
permissions that they hold.

What the rules leave open here is the model's choice (log entries 9 and 40). -/
def Obligations.DieEngines : Prop :=
  ((∀ (s : State) (t h : Nat) (c : Cmd), s.cmd? t h = some c →
     (c.active = false ∨ ((s.tile t).still = true ∧ s.faultsToo t = false) ∨ s.walksAt t c = [] → exec (.pageWalk t h) s = .next s) ∧
     (c.active = true → (s.tile t).still = false ∨ s.faultsToo t = true → ∀ a reads i rest, s.walksAt t c = (a, reads, i) :: rest →
       (∀ s' pa, s.translate t (s.tile t).seq.ctl.asid a reads (!reads) = (s', .ok pa) → rest = [] → exec (.pageWalk t h) s = .next s') ∧
       (∀ s', s.translate t (s.tile t).seq.ctl.asid a reads (!reads) = (s', .fault 0x10) →
         exec (.pageWalk t h) s = .next (s'.pageFault t h c a)) ∧
       (∀ s' e, s.translate t (s.tile t).seq.ctl.asid a reads (!reads) = (s', .fault e) → e ≠ 0x10 → (s.tile t).still = false →
         s.faultsToo t = false → exec (.pageWalk t h) s = .next (s'.stopCmd t h { c with pos := i } e))) ∧
     (c.cause = 0 → h ≠ 65 → let limit := (s.grove (groveOf t)).replylimit.toNat
       let stops (j : Nat) : Prop :=
         exec (.replyTimeout t h) s = .next (s.stopCmd t h { c with pos := j, unacked := [], resend := [] } 0x12)
       (∀ j u rest, c.unacked = (j, u) :: rest → limit ≤ s.cycle - u → stops j) ∧
       ((∀ u ∈ c.unacked, s.cycle - u.2 < limit) →
         let peer : Prop := c.awaitsReply = true ∧ c.asked ≠ none ∧ c.frozen = false ∧ limit ≤ s.cycle - c.waitSince
         (peer → stops c.readAt) ∧
         (¬ peer → (∀ n j, s.storeWaits t c = some (n, j) →
             (limit ≤ s.cycle - n → stops j) ∧ (s.cycle - n < limit → exec (.replyTimeout t h) s = .next s)) ∧
           (s.storeWaits t c = none → exec (.replyTimeout t h) s = .next s))))) ∧
   (∀ (s : State) (d r : Nat),
     ((∀ t ∈ s.regionNamed d r, (s.tile t).freeze = none) → exec (.scanOut d r) s = .next s) ∧
     (∀ t f h a, let g := groveOf t
       let slot := (s.die d).dsavebase.toNat + s.dieTile t * 131072
       s.regionNamed d r = [t] → dieOf g = d → (s.tile t).freeze = some f → f.scanned = false → f.ending = false → f.reason = 0x10 →
       f.faults = [(h, a)] → h < 256 → s.partOf g = none → (s.tile t).parityBad = false →
       ∃ z, exec (.scanOut d r) s = .next z ∧ (z.tile t).freeze = some { f with scanned := true, drawn := s.fresh } ∧
         z.mem.bytes.read (slot + 1024) = 0x10 ∧
         (∀ x, x < slot ∨ slot + 1088 + 64 * (s.tile t).scanItems.length ≤ x → z.mem.bytes.read x = s.mem.bytes.read x) ∧
         z.grove g = (s.grove g).pushEvent (s.logicalOf t)
           (evRecord 9 0x10 (s.logicalOf t) 0 (a.toNat / 2 ^ 64 % 256 * 2 ^ 24 + f.region) (.ofNat 64 a.toNat))) ∧
     (let ts := s.regionNamed d r
      let limit := s.stillLimit ts
      (ts = [] ∨ limit = 0 ∨ s.watched ts = false ∨ (s.die d).still.get 0 r < limit → exec (.stillnessFault d r) s = .next s) ∧
      (∀ t rest, ts = t :: rest → limit ≠ 0 → s.watched ts = true → limit ≤ (s.die d).still.get 0 r →
        exec (.stillnessFault d r) s = .next (s.freezeRegion t 0x19 none))))) ∧
  (∀ (s : State) (t : Nat) (asid : BitVec 9) (va : Addr) (reads writes : Bool),
     let v := va.toNat
     let word (table i : Nat) : Nat := s.readNat (table + 8 * i) 8
     let page (e : Nat) : Nat := e / 2 ^ 16 % 2 ^ 30 * 2 ^ 16
     let valid (e : Nat) : Prop := Nat.testBit e 0 = true
     let leaf (e : Nat) : Prop := Nat.testBit e 1 = true
     let bad (level e : Nat) : Prop := e / 2 ^ 46 ≠ 0 ∨ e / 2 ^ 4 % 2 ^ 12 ≠ 0 ∨ (leaf e ∧ 2 ≤ level) ∨ (¬ leaf e ∧ level = 0) ∨
       (leaf e ∧ level = 1 ∧ e / 2 ^ 16 % 2 ^ 14 ≠ 0) ∨ (¬ leaf e ∧ level = 1 ∧ e / 2 ^ 16 % 2 ≠ 0) ∨ 2 ^ 39 ≤ page e ∨
       (¬ leaf e ∧ (Nat.testBit e 2 = true ∨ Nat.testBit e 3 = true))
     let fails (c : BitVec 8) : Prop := s.translate t asid va reads writes = (s, .fault c)
     let refused (level e : Nat) : Prop := (¬ valid e → fails 0x10) ∧ (valid e → bad level e → fails 0x11)
     let uses (r w : Bool) (pa : Nat) : Prop := ∃ s', s'.mem = s.mem ∧ (∃ k ∈ (s'.tile t).tlb, k.hits asid v = true) ∧
       s.translate t asid va reads writes = (s', if (reads = true ∧ r = false) ∨ (writes = true ∧ w = false) then .fault 0x11 else .ok pa)
     let maps (e size : Nat) : Prop := uses (Nat.testBit e 2) (Nat.testBit e 3) (page e + v % size)
     (∀ e, (s.tile t).tlb.find? (fun k => k.hits asid v) = some e → uses e.r e.w (e.page + v % (if e.big then 2 ^ 30 else 2 ^ 16))) ∧
     ((∀ e ∈ (s.tile t).tlb, e.hits asid v = false) → (∀ k, ∀ e ∈ (s.die (dieOf (groveOf t))).tlb.get [] k, e.hits asid v = false) →
       (s.rootOf asid = none → fails 0x10) ∧
       (∀ root, s.rootOf asid = some root → s.mem.poisoned (root + 8 * (v / 2 ^ 56)) 8 = true → fails 0x13) ∧
       (∀ root e3 e2 e1 e0, s.rootOf asid = some root → s.mem.poison = [] → e3 = word root (v / 2 ^ 56) →
         e2 = word (page e3) (v / 2 ^ 43 % 2 ^ 13) → e1 = word (page e2) (v / 2 ^ 30 % 2 ^ 13) → e0 = word (page e1) (v / 2 ^ 16 % 2 ^ 14) →
         refused 3 e3 ∧
         (valid e3 → ¬ bad 3 e3 → refused 2 e2 ∧
           (valid e2 → ¬ bad 2 e2 → refused 1 e1 ∧
             (valid e1 → ¬ bad 1 e1 → (leaf e1 → maps e1 (2 ^ 30)) ∧
               (¬ leaf e1 → refused 0 e0 ∧ (valid e0 → ¬ bad 0 e0 → maps e0 (2 ^ 16)))))))))

/-- The die registers and shootdowns (R368, R369): `dlogbase` and `dsavebase` keep the bits of their fields and ignore an area that passes the end of
HBM; `dscrub` takes 32 to 44 and otherwise 40; a shootdown starts, or waits for the one under way, and once done no matching translation is left in
the die's slices or in its tiles.

Errors and spares of the memories (R290, R363, R368, R382, R383): a corrected error of HBM is counted for its stack up to all ones, one that is not
poisons its unit alone and is told to management firmware, and no scrub changes a byte; an address that does not exist stops the machine; repairs and the retirement of a channel change no
contents, and each block of the channel moves to its new home node by an event of its own; a second failed channel is told to firmware and
faults the partitions mapped onto its stack.

What the rules leave open here is the model's choice (log entries 7 and 47). -/
def Obligations.DieRegistersAndMemoryErrors : Prop :=
  (∀ (s : State) (d : Nat) (v : Word),
     let x := s.die d
     let log := v &&& 0x00003ffff0000000
     let save := v &&& 0x00003fffffc00000
     let k := v.toNat % 256
     (log.toNat + 160 * 2 ^ 24 ≤ 2 ^ 39 → exec (.dlogbaseWrite d v) s = .next (s.setDie d { x with dlogbase := log })) ∧
     (2 ^ 39 < log.toNat + 160 * 2 ^ 24 → exec (.dlogbaseWrite d v) s = .next s) ∧
     (save.toNat + 160 * 2 ^ 17 ≤ 2 ^ 39 → exec (.dsavebaseWrite d v) s = .next (s.setDie d { x with dsavebase := save })) ∧
     (2 ^ 39 < save.toNat + 160 * 2 ^ 17 → exec (.dsavebaseWrite d v) s = .next s) ∧
     exec (.dscrubWrite d v) s = .next (s.setDie d { x with dscrub := if 32 ≤ k ∧ k ≤ 44 then .ofNat 8 k else 40 }) ∧
     (x.dshoot = none → exec (.dshootWrite d v) s = .next (s.setDie d { x with
         dshootLast := v.setWidth 10, dshoot := some (v.setWidth 10, x.dshva) }) ∧
       exec (.shootdownDone d) s = .next s) ∧
     (x.dshoot ≠ none → exec (.dshootWrite d v) s = .next (s.setDie d { x with
       dshootLast := v.setWidth 10, shootWaiting := x.shootWaiting ++ [v.setWidth 10] })) ∧
     (s.dieRead d 0x00 = x.dlogbase ∧ s.dieRead d 0x08 = x.dsavebase ∧ s.dieRead d 0x10 = x.dscrub.setWidth 64 ∧
       s.dieRead d 0x18 = x.dshva.setWidth 64 ∧ (s.dieRead d 0x20).getLsbD 63 = x.dshoot.isSome ∧
       (s.dieRead d 0x20).extractLsb' 0 10 = x.dshootLast) ∧
     (∀ y page, x.dshoot = some (y, page) → (∀ j ∈ x.joins, j.2.filled = true) → ∃ z, exec (.shootdownDone d) s = .next z ∧ z.mem = s.mem ∧
       (∀ t, (z.tile t).tlb = if dieOf (groveOf t) = d then (s.tile t).tlb.filter (fun e => !e.shot y page) else (s.tile t).tlb) ∧
       (∀ sl ∈ (z.die d).tlb, ∀ e ∈ sl.2, e.shot y page = false) ∧
       (x.shootWaiting = [] → (z.die d).dshoot = none) ∧
       (∀ w rest, x.shootWaiting = w :: rest → (z.die d).dshoot = some (w, x.dshva) ∧ (z.die d).shootWaiting = rest))) ∧
  (∀ (s : State) (a e g k c r : Nat),
     (2 ^ 39 ≤ a → exec (.hbmPatrolScrub a e) s = .fault .noSuchAddress) ∧ (2 ^ 24 ≤ a → exec (.gspPatrolScrub g a e) s = .fault .noSuchAddress) ∧
     (a < 2 ^ 39 →
       exec (.hbmPatrolScrub a 0) s = .next s ∧
       (let d := a / 2 ^ 37
        let n := a / 2 ^ 36 % 2
        let old := (s.die d).dcerr.get 0 n
        exec (.hbmPatrolScrub a 1) s = .next (s.setDie d { s.die d with
          dcerr := (s.die d).dcerr.set 0 n (if old = 0xffffffff then old else old + 1) })) ∧
       (2 ≤ e → ∃ m : Mem, exec (.hbmPatrolScrub a e) s = .next (({ s with mem := m } : State).report 0x13 (a / 2 ^ 36)) ∧ m.bytes = s.mem.bytes ∧
         ∀ u, u ∈ m.poison ↔ u ∈ s.mem.poison ∨ u = a / 32 * 32)) ∧
     (a < 2 ^ 24 → (e ≤ 1 → exec (.gspPatrolScrub g a e) s = .next s) ∧
       (2 ≤ e → ∃ m : Mem, exec (.gspPatrolScrub g a e) s = .next { s with mem := m } ∧ m.bytes = s.mem.bytes ∧
         ∀ u, u ∈ m.poison ↔ u ∈ s.mem.poison ∨ u = gspAddr g a / 8 * 8)) ∧
     exec (.hbmRowRepair k r) s = .next s ∧
     (s.mem.retired.get? k = none →
       (c < 32 → exec (.hbmChannelRetire k c) s = .next { s with mem := { s.mem with retired := s.mem.retired.put k c } }) ∧
       (32 ≤ c → exec (.hbmChannelRetire k c) s = .next s) ∧
       exec (.secondChannelFailure k) s = .next s) ∧
     (∀ y, s.mem.retired.get? k = some y →
       (c < 32 → exec (.hbmChannelRetire k c) s = .next s) ∧
       (∀ b, c = 32 + b → let block := k * 2 ^ 28 + b
         (2 ^ 28 ≤ b ∨ hbmChannel (256 * block) ≠ y → exec (.hbmChannelRetire k c) s = .next s) ∧
         (b < 2 ^ 28 → hbmChannel (256 * block) = y → ∃ l, exec (.hbmChannelRetire k c) s = .next { s with mem := { s.mem with moved := l } } ∧
           ∀ i, i ∈ l ↔ i ∈ s.mem.moved ∨ i = block)) ∧
       ∃ z, exec (.secondChannelFailure k) s = .next z ∧ z.mem.bytes = s.mem.bytes ∧ k ∈ z.mem.failed ∧ (0, k) ∈ z.hub.reports ∧
         (∀ p b, s.hub.parts = [(p, b)] → partValid b = true →
           (s.mapsStack k 3 (partRoot b) = true → (z.hub.partRuns.get {} p).faulted = some 0) ∧
           (s.mapsStack k 3 (partRoot b) = false → z.hub.partRuns = s.hub.partRuns))))

/-- Buckets, power, events and placement (R288, R297, R298, R306, R308, R405): a cycle ends with every bucket refilled, a rate higher but within its
depth; at the end of an interval above the cap every rate is scaled down, below nine tenths of it raised; a popped event makes room for one that waits;
`place` refuses what it may not take, and moves at once where the tile it leaves runs no kernel; a migration completes when every member of the
region is saved or runs no kernel, and the context of the old tile stands in the new one.

What the rules leave open here is the model's choice (log entries 15, 29 and 53). -/
def Obligations.GroveRegistersAndPower : Prop :=
  ∀ (s : State) (g : Nat) (v : Word),
    let x := s.grove g
    (∃ z, exec .bucketRefill s = .next z ∧ ((∀ e ∈ s.tiles, e.2.flowBad = false ∧ e.2.parityDue = false) →
      z.cycle = s.cycle + 1 ∧ z.mem = s.mem ∧
      (∀ k y, s.groves.get? k = some y →
        (z.grove k).bklevel = min (y.bkdepth.toNat * 256) (y.bklevel + y.bkrate.toNat % 2 ^ 16) ∧ (z.grove k).events = y.events) ∧
      (∀ k y, s.tiles.get? k = some y → (z.tile k).fab = y.flow.fab ∧ (z.tile k).moved = false ∧ (z.tile k).seq.s = y.seq.s))) ∧
    (∀ w : Nat, w < 2 ^ 16 →
      (s.cycle / 2 ^ 16 ≤ s.hub.interval → exec (.powerControlInterval w) s = .next s) ∧
      (s.hub.interval < s.cycle / 2 ^ 16 → ∃ z, exec (.powerControlInterval w) s = .next z ∧ z.hub.pwrnow = .ofNat 16 w ∧ z.mem = s.mem ∧
        (g < 40 →
          let cap := if s.hub.coolant then 600 else s.hub.pwrcap.toNat
          let old := x.bkrate.toNat % 2 ^ 16
          let rate := (z.grove g).bkrate.toNat % 2 ^ 16
          (cap < w → rate = max 16 (old * cap / w)) ∧ (w ≤ cap → 9 * cap ≤ 10 * w → rate = old) ∧
          (10 * w < 9 * cap → rate = min x.rateLimit (old + old / 8)) ∧ (z.grove g).bkrate.getLsbD 16 = x.bkrate.getLsbD 16))) ∧
    exec .coolantFault s = .next { s with hub := { s.hub with coolant := true } } ∧
    exec .coolantFaultClear s = .next { s with hub := { s.hub with coolant := false } } ∧
    (∃ y : Grove, exec (.bkdepthWrite g v) s = .next (s.setGrove g y) ∧ y.bkdepth = (if v.setWidth 16 = (0 : BitVec 16) then 1 else v.setWidth 16) ∧
      y.bklevel = min x.bklevel (y.bkdepth.toNat * 256)) ∧
    (x.waiting = [] ∨ x.events = [] → exec (.evpopWrite g) s = .next (s.setGrove g { x with events := x.events.drop 1 })) ∧
    (∀ e rest, x.waiting = e :: rest → x.events ≠ [] →
      exec (.evpopWrite g) s = .next (s.setGrove g { x with events := x.events.drop 1 ++ [e], waiting := rest })) ∧
    (32 ≤ v.toNat ∨ (16 ≤ v.toNat ∧ v.toNat ≤ 30) ∨ (v.toNat < 16 ∧ x.place.toNat < 16 ∧ v.toNat ≠ x.place.toNat) ∨ x.migration ≠ none →
      exec (.placeWrite g v) s = .next s) ∧
    (x.migration = none → v = x.place.setWidth 64 → exec (.placeWrite g v) s = .next s) ∧
    (∀ l : Nat, g < 40 → l < 16 → s.memOk → x.migration = none → x.place = 31 → v = .ofNat 64 l → (s.tile (tileAt g l)).seq.run ≠ .running →
      (s.tile (tileAt g l)).inGang = false →
      ∃ z, exec (.placeWrite g v) s = .next z ∧ (z.grove g).place = .ofNat 5 l ∧ z.physOf g l = tileAt g 16 ∧
        (z.tile (tileAt g 16)).seq.run = (s.tile (tileAt g l)).seq.run ∧ (z.tile (tileAt g 16)).seq.ctl = (s.tile (tileAt g l)).seq.ctl ∧
        (z.tile (tileAt g 16)).mx.store = (s.tile (tileAt g l)).mx.store ∧ (z.tile (tileAt g 16)).live = (s.tile (tileAt g l)).live ∧
        (z.tile (tileAt g 16)).fab.slots = (s.tile (tileAt g l)).fab.slots ∧ (z.tile (tileAt g 16)).own = (s.tile (tileAt g 16)).own ∧
        (∀ a, a < 2 ^ 20 → z.mem.bytes.read (tspAddr (tileAt g 16) a) = s.mem.bytes.read (tspAddr (tileAt g l) a))) ∧
    (x.migration = none → exec (.migrationComplete g) s = .next s) ∧
    (∀ m, x.migration = some m → let ts := s.regionTiles (dieOf g) (s.regionOf m.src)
      ((∃ k ∈ ts, (s.tile k).inGang = true ∨ ((s.tile k).seq.run = .running ∧ (s.tile k).preempt ≠ some .saved)) →
        exec (.migrationComplete g) s = .next s) ∧
      (ts = [m.src] → (s.tile m.src).inGang = false → m.src ≠ m.dst → groveOf m.src = g →
        (∀ g', dieOf g' = dieOf g → g' ≠ g → ∀ m', (s.grove g').migration = some m' → m'.src ≠ m.src) →
        ((s.tile m.src).seq.run ≠ .running → (s.tile m.src).preempt = none →
          ∃ z, exec (.migrationComplete g) s = .next z ∧ (z.grove g).migration = none ∧ (z.grove g).place = m.newRet ∧
            (z.tile m.dst).seq.run = (s.tile m.src).seq.run ∧ (z.tile m.dst).seq.ctl = (s.tile m.src).seq.ctl) ∧
        ((s.tile m.src).seq.run = .running → (s.tile m.src).preempt = some .saved → s.preempted g = true →
          ∃ z, exec (.migrationComplete g) s = .next z ∧ (z.grove g).migration = none ∧ (z.grove g).place = m.newRet ∧
            (z.tile m.dst).seq = (s.tile m.src).seq ∧ (z.tile m.dst).task = (s.tile m.src).task ∧ (z.tile m.dst).fab = (s.tile m.src).fab ∧
            (z.tile m.dst).str = (s.tile m.src).str ∧ (z.tile m.dst).g = (s.tile m.src).g ∧ (z.tile m.dst).nz = (s.tile m.src).nz ∧
            (z.tile m.dst).own = (s.tile m.dst).own ∧ (z.tile m.dst).tlb = (s.tile m.dst).tlb)))

/-! ### The hub and the fabric -/

/-- Writes of the host window and of the registers of management firmware (R389 to R398, R405, R406, R408): with the window open and the link up, a
queue's tail and base take writes of its owner and refuse the other port's with kind 3; a tail that asks for more than the ring holds disables the
queue; a ring size outside 4 to 16 is not enabled; a free semaphore goes to its reader and back by its holder's 0, and of two ports in one
cycle to port 0, whichever has acted first in the model; a partition entry is written by the holder of semaphore 0 alone, and taken whole
with its fourth word, its groves taking its ASID; a write of word 0 takes a slot's registration; with the window closed no write changes anything.

What the rules leave open here is the model's choice (log entries 45 and 47). -/
def Obligations.HostWindowWrites : Prop :=
  ∀ (s : State) (p q i : Nat) (v : Word), p < 2 → q < 64 → i < 64 →
    let x := s.queue q
    let puts (y : LaunchQueue) : State := { s with hub := { s.hub with queues := s.hub.queues.put q y } }
    let answers (t : State) (w : Word) : State := { t with window := { t.window with reads := t.window.reads.put p w } }
    let turns (k : Option SemTurn) (t : State) : State := { t with hub := { t.hub with semTurn := k } }
    let first : Prop := p = 1 ∨ ∀ k, s.hub.semTurn = some k → k.cycle ≠ s.cycle
    (s.window.isOpen = false ∨ (s.hub.linkDown.get? p).isSome → ∀ y ∈ [Instr.qtailWrite p q v, .qcfgWrite p q v, .qbaseWrite p q v, .semWrite p i v,
      .partWrite p i 3 v, .pwrcapWrite p v, .imgRegister p i v], exec y s = .next s) ∧
    (s.window.isOpen = false → s.hub.linkDown.get? p = none → exec (.semRead p i) s = .next (answers s 0)) ∧
    (s.window.isOpen = true → s.hub.linkDown.get? p = none →
      (x.owner ≠ p → exec (.qtailWrite p q v) s = .next (s.refuse p (32 * q + 16)) ∧ exec (.qbaseWrite p q v) s = .next (s.refuse p (32 * q))) ∧
      (x.owner = p →
        exec (.qbaseWrite p q v) s = .next (puts { x with base := .ofNat 46 (v.toNat % 2 ^ 46 / 2 ^ 12 * 2 ^ 12) }) ∧
        (let y : LaunchQueue := { x with tail := v.setWidth 32, since := if x.tail = x.head then s.cycle else x.since }
         ((v.setWidth 32 - x.head).toNat ≤ 2 ^ (x.cfg.toNat % 32) → exec (.qtailWrite p q v) s = .next (puts y)) ∧
         (2 ^ (x.cfg.toNat % 32) < (v.setWidth 32 - x.head).toNat →
           exec (.qtailWrite p q v) s = .next ((puts { y with cfg := y.cfg &&& 0x7fffffffffffffff }).refuse p (32 * q + 16))))) ∧
      (v.getLsbD 63 = false ∨ (4 ≤ v.toNat % 32 ∧ v.toNat % 32 ≤ 16) →
        exec (.qcfgWrite p q v) s = .next (puts { x with cfg := v &&& 0x800000000000011f })) ∧
      (v.getLsbD 63 = true → v.toNat % 32 < 4 ∨ 16 < v.toNat % 32 → exec (.qcfgWrite p q v) s = .next (s.refuse p (32 * q + 8))) ∧
      (first → ∃ k,
        (s.hub.sems.get? i = none →
          exec (.semRead p i) s = .next (answers (turns k { s with hub := { s.hub with sems := s.hub.sems.put i (.ofNat 1 p) } }) 0)) ∧
        (∀ o, s.hub.sems.get? i = some o → exec (.semRead p i) s = .next (answers (turns k s) (if o = 0 then 1 else 3)))) ∧
      (first → ∃ k,
        (s.hub.sems.get? i = none → exec (.semWrite p i v) s = .next (turns k s)) ∧
        (∀ o, s.hub.sems.get? i = some o →
          (o.toNat = p → v = 0 → exec (.semWrite p i v) s = .next (turns k { s with hub := { s.hub with sems := s.hub.sems.erase i } })) ∧
          (o.toNat ≠ p ∨ v ≠ 0 → exec (.semWrite p i v) s = .next (turns k s)))) ∧
      (∀ was, p = 0 → s.hub.semTurn = some ⟨s.cycle, was, [(i, none)]⟩ → was.get? i = none → ∃ z, exec (.semRead 0 i) s = .next z ∧
        z.hub.sems.get? i = some 0 ∧ z.window.reads.get? 0 = some 0 ∧ z.window.reads.get? 1 = some 1) ∧
      (s.hub.sems.get? 0 ≠ some (.ofNat 1 p) → ∀ w, w < 4 → exec (.partWrite p i w v) s = .next (s.refuse p (0x2000 + 32 * i + 8 * w))) ∧
      (s.hub.sems.get? 0 = some (.ofNat 1 p) →
        (∀ w, w < 3 → exec (.partWrite p i w v) s = .next { s with hub := { s.hub with partStage := s.hub.partStage.put (4 * i + w) v } }) ∧
        (let stage : Hub := { s.hub with partStage := s.hub.partStage.put (4 * i + 3) v }
         let e : BitVec 256 := v ++ stage.partStage.get 0 (4 * i + 2) ++ stage.partStage.get 0 (4 * i + 1) ++ stage.partStage.get 0 (4 * i)
         (s.partRefused i e = true → exec (.partWrite p i 3 v) s = .next (({ s with hub := stage } : State).refuse p (0x2000 + 32 * i + 24))) ∧
         (s.partRefused i e = false → ∃ z, exec (.partWrite p i 3 v) s = .next z ∧ z.mem = s.mem ∧
           z.hub.parts.get? i = some e ∧ (∀ k, k ≠ i → z.hub.parts.get? k = s.hub.parts.get? k) ∧
           (e.getLsbD 255 = true → (s.hub.parts.get 0 i).getLsbD 255 = true → z.hub.partRuns.get {} i = s.hub.partRuns.get {} i) ∧
           (e.getLsbD 255 = true → ∀ g, g < 40 → (e.extractLsb' 128 40).getLsbD g = true → ∀ u ∈ groveUnits g,
             (z.seqOf u).ctl.asid = e.extractLsb' 192 9)))) ∧
      (let w := v.toNat % 2 ^ 16
       exec (.pwrcapWrite p v) s = .next { s with hub := { s.hub with pwrcap := if 600 ≤ w ∧ w ≤ 2400 then .ofNat 16 w else 2400 } }) ∧
      (let y := s.hub.imgs.get {} i
       (y.running = false → exec (.imgRegister p i v) s = .next { s with hub := { s.hub with imgs := s.hub.imgs.put i { y with
         offset := v, running := true, ready := false, outcome := 0, port := p, tags := [] } } }) ∧
       (y.running = true → exec (.imgRegister p i v) s = .next { s with hub := { s.hub with imgs := s.hub.imgs.put i { y with
         again := y.again ++ [(p, v)] } } }) ∧
       exec (.registerWrite p (0x4000 + 16 * i) v) s = .next { s with hub := { s.hub with imgs := s.hub.imgs.put i { y with
         w0 := v &&& 0xfff, ready := false } } }) ∧
      (∀ n, n < 2 → let r := (s.hub.rings.get {} n).writeWord 0 v
        exec (.registerWrite p (0x3000 + 32 * n) v) s = .next { s with hub := { s.hub with rings := s.hub.rings.put n r } })) ∧
    (∀ n : Nat, n < 256 →
      let e : Namespace := ⟨v.toNat / 2 ^ 32 % 2, v.toNat % 2 ^ 32, if v.getLsbD 33 then 4096 else 512⟩
      let m := if v.getLsbD 63 then s.hub.spaces.put (256 * i + n) e else s.hub.spaces.erase (256 * i + n)
      exec (.namespaceEntryWrite i n v) s = .next { s with hub := { s.hub with spaces := m } }) ∧
    (∀ d, d < 4 → exec (.registerWrite p (0x10000 + 0x100 * d + 0x18) v) s = .next (s.setDie d { s.die d with dshva := v.setWidth 56 })) ∧
    (∀ g, g < 40 → exec (.registerWrite p (0x20000 + 0x1000 * g + 0x103) v) s = .next (s.setGrove g { s.grove g with
      bkrate := v.setWidth 17, bkLimit := v.setWidth 17 }))

/-- Links, images, store commands and reset (R392, R406, R408 to R410, R412): a link that goes down gives kind 4 to the other port, and 100 ms later its
semaphores are free and kind 5 follows, whether the link is back or not; a registration ends with its outcome and kind 7; flushes and deallocations reach the store ports; a reset keeps
the fuses and what is not volatile, and everything else is as at reset.

What the rules leave open here is the model's choice (log entries 5, 15 and 45). -/
def Obligations.HubEvents : Prop :=
  ∀ (s : State) (p i n a l : Nat), p < 2 →
    (s.hub.linkDown.get? p = none → exec (.hostLinkDown p) s = .next (({ s with hub := { s.hub with
      linkDown := s.hub.linkDown.put p s.cycle, lost := s.hub.lost ++ [(p, s.cycle)] } } : State).host (1 - p) 4 0 0)) ∧
    (s.hub.linkDown.get? p ≠ none → exec (.hostLinkDown p) s = .next s) ∧
    ((∀ e ∈ s.hub.lost, e.1 ≠ p) → exec (.semaphoreFailover p) s = .next s) ∧
    (∀ e, s.hub.lost.find? (fun k => k.1 = p) = some e →
      (s.cycle < e.2 + 110000000 → exec (.semaphoreFailover p) s = .next s) ∧
      (e.2 + 110000000 ≤ s.cycle → exec (.semaphoreFailover p) s = .next (({ s with hub := { s.hub with
        sems := s.hub.sems.filter (fun k => decide (k.2.toNat ≠ p)), lost := s.hub.lost.erase e, semTurn := none } } : State).host (1 - p) 5 0 0))) ∧
    exec (.hostLinkReturn p) s = .next { s with hub := { s.hub with linkDown := s.hub.linkDown.erase p } } ∧
    (let y := s.hub.imgs.get {} i
     (y.running = false → exec (.imageRegistrationDone i) s = .next s) ∧
     (y.running = true → y.again = [] → ∃ x : Staging, exec (.imageRegistrationDone i) s = .next (({ s with hub := { s.hub with
       imgs := s.hub.imgs.put i x } } : State).host y.port 7 x.outcome.toNat i) ∧ x.running = false ∧ x.offset = y.offset ∧
       (x.outcome = 0 ∨ x.outcome = 0x1e ∨ x.outcome = 0x1d) ∧ (s.imageSpace y = none → x.outcome = 0x1e) ∧
       (∀ ns, s.imageSpace y = some ns → y.offset.toNat % 65536 ≠ 0 → x.outcome = 0x1e))) ∧
    (s.space i n = none → exec (.storeFlush i n) s = .next s ∧ exec (.storeDeallocate i n a l) s = .next s) ∧
    (∀ y, s.space i n = some y →
      exec (.storeFlush i n) s = .next { s with window := { s.window with nvme := s.window.nvme ++ [⟨0x00, y.port, y.nsid, 0, 0⟩] } } ∧
      (∃ m : Mem, exec (.storeDeallocate i n a l) s = .next { s with
        mem := m, fresh := s.fresh + l * y.block, window := { s.window with nvme := s.window.nvme ++ [⟨0x09, y.port, y.nsid, a, l⟩] } } ∧
        m.bytes = s.mem.bytes ∧ m.poison = s.mem.poison ∧ m.present = s.mem.present)) ∧
    (∃ z, exec .deviceReset s = .next z ∧ z.hub.fusever = s.hub.fusever ∧ z.hub.banks = s.hub.banks ∧ z.hub.keys = s.hub.keys ∧
      z.hub.parts = [] ∧ z.hub.sems = [] ∧ z.hub.seeds = [] ∧ z.hub.queues = [] ∧ z.tiles = [] ∧ z.groves = [] ∧ z.ports = [] ∧ z.mem.bytes = [] ∧
      z.cycle = 0 ∧ z.mem.flash = s.mem.flash ∧
      (z.hub.recovery = true ↔ imageOk s.hub.fusever (s.hub.banks.get [] s.hub.bank) = false ∧
        imageOk s.hub.fusever (s.hub.banks.get [] (1 - s.hub.bank)) = false) ∧
      (z.window.isOpen = true ↔ z.hub.recovery = false))

/-- Requests of `fwctl` (R391, R409 to R415, R424): a write is accepted where no request is under way, its fields are legal and the port holds the
semaphore the request needs, and otherwise refused with kind 3; the request under way reads its block, has its effect and ends with its cause in the
block and in `lcause`.

What the rules leave open here is the model's choice (log entries 10, 20 and 45). -/
def Obligations.FirmwareRequests : Prop :=
  ∀ (s : State) (p : Nat) (v : Word), s.linkUp p = true →
    let code := v.toNat / 2 ^ 56
    let blk := v.toNat % 2 ^ 46
    let mine : FwRequest := ⟨p, .ofNat 8 code, blk⟩
    let needs (k : Nat) : Prop := s.hub.sems.get? k = some (.ofNat 1 p)
    (∀ (y : Instr) (size : Nat), (code, size, y) ∈ [(1, 24, Instr.firmwareUpdate p v), (2, 2, .fuseRaise p v), (3, 64, .attestation p v),
        (4, 128, .codeLoad p v), (5, 24, .graftTableLoad p v), (6, 1328, .producerKeyWrite p v)] →
      (s.hub.request ≠ some mine →
        let legal := s.hub.request = none ∧ v.toNat / 2 ^ 46 % 2 ^ 10 = 0 ∧ v.toNat % 64 = 0 ∧
          (code = 1 → needs 1) ∧ (code = 2 → needs 2) ∧ (code = 5 → needs 3) ∧ (code = 6 → needs 4)
        (legal → exec y s = .next { s with hub := { s.hub with request := some mine } }) ∧
        (¬ legal → exec y s = .next (s.refuse p 0x7000))) ∧
      (s.hub.request = some mine → blk + size ≤ 2 ^ 39 → s.mem.poisoned blk size = true →
        exec y s = .next (if code = 4 then s.endLoadRequest blk 0x13 0xffff else s.endRequest 0x13))) ∧
    (∀ c, s.hub.request = some mine →
      (s.endRequest c).hub = { s.hub with request := none, lcause := c, lcode := .ofNat 8 code } ∧
      (s.endRequest c).mem.bytes.read blk = c ∧ (s.endRequest c).mem.bytes.read (blk + 1) = 1 ∧
      (∀ x, x ≠ blk → x ≠ blk + 1 → (s.endRequest c).mem.bytes.read x = s.mem.bytes.read x)) ∧
    (∀ b, s.hub.request = some mine → b = s.mem.bytes.readList blk 1328 → blk + 1328 ≤ 2 ^ 39 → s.mem.poisoned blk 1328 = false →
      let a := bytesAt b 8 8
      let n := bytesAt b 16 8
      let im := s.mem.bytes.readList a n
      let does (y : Instr) (h : Hub) (c : BitVec 8) : Prop := exec y s = .next (({ s with hub := h } : State).endRequest c)
      (code = 2 → let f : BitVec 8 := if s.hub.fusever = 255 then 255 else s.hub.fusever + 1
        does (.fuseRaise p v) { s.hub with
          fusever := f, bankReady := s.hub.bankReady && decide (f.toNat ≤ (Config.bankVersion (s.hub.banks.get [] (1 - s.hub.bank))).toNat)
          seeds := s.hub.seeds.filter (fun e => decide (f.toNat ≤ e.secver.toNat)) } 0) ∧
      (code = 6 → let k := (b.drop 16).take 1312
        (bytesAt b 8 1 ≤ 15 → zeroAt b 9 7 = true → does (.producerKeyWrite p v) { s.hub with
          keys := if k.all (· == 0) then s.hub.keys.erase (bytesAt b 8 1) else s.hub.keys.put (bytesAt b 8 1) k } 0) ∧
        (15 < bytesAt b 8 1 ∨ zeroAt b 9 7 = false → does (.producerKeyWrite p v) s.hub 0x14)) ∧
      (a + n ≤ 2 ^ 39 → s.mem.poisoned a n = false →
        (code = 1 → let ok := imageOk s.hub.fusever im
          does (.firmwareUpdate p v) { s.hub with banks := s.hub.banks.put (1 - s.hub.bank) im, bankReady := ok } (if ok then 0 else 0x1e)) ∧
        (code = 5 → 64 + 2420 ≤ n →
          let signed := Config.mldsaVerify Config.vendorKey (Config.sha3 (im.take (n - 2420))) (im.drop (n - 2420))
          exec (.graftTableLoad p v) s = .next (if signed = false ∨ bytesAt im 6 1 < s.hub.fusever.toNat then s.endRequest 0x1e
            else if graftFieldsOk im = false then s.endRequest 0x14
            else ({ s with hub := { s.hub with graft := im, graftver := Config.sha3 im } } : State).endRequest 0)) ∧
        (code = 4 → s.loadBlockOk (b.take 128) = true → let k := s.hub.keys.get [] (bytesAt im 7 1 % 16)
          let signed := Config.mldsaVerify k (Config.sha3 (im.take (n - 2420))) (im.drop (n - 2420))
          (objectOk im n = false → exec (.codeLoad p v) s = .next (s.endLoadRequest blk 0x1e 0xffff)) ∧
          (objectOk im n = true → (∀ i, badSection im n = some i → exec (.codeLoad p v) s = .next (s.endLoadRequest blk 0x1e i)) ∧
            (badSection im n = none → exec (.codeLoad p v) s = .next (if k ≠ [] ∧ signed = true ∧ s.hub.fusever.toNat ≤ bytesAt im 6 1
              then s.loadObject blk (b.take 128) im else s.endLoadRequest blk 0x1e 0xffff))))) ∧
      (code = 4 → s.loadBlockOk (b.take 128) = true →
        (2 ^ 39 < a + n → exec (.codeLoad p v) s = .next (s.endLoadRequest blk 0x1e 0xffff)) ∧
        (a + n ≤ 2 ^ 39 → s.mem.poisoned a n = true → exec (.codeLoad p v) s = .next (s.endLoadRequest blk 0x13 0xffff))) ∧
      (code = 4 → s.loadBlockOk (b.take 128) = false → exec (.codeLoad p v) s = .next (s.endLoadRequest blk 0x14 0xffff)) ∧
      (code = 3 → let part := bytesAt b 40 1
        let items := s.reportItems ((b.drop 8).take 32) part
        let report := Config.reportBytes items (Config.mldsaSign (Config.sha3 items.flatten))
        (64 ≤ part ∨ partValid (s.hub.parts.get 0 part) = false → does (.attestation p v) s.hub 0x14) ∧
        (part < 64 → partValid (s.hub.parts.get 0 part) = true → bytesAt b 56 8 < report.length → does (.attestation p v) s.hub 0x0b) ∧
        (part < 64 → partValid (s.hub.parts.get 0 part) = true → report.length ≤ bytesAt b 56 8 → bytesAt b 48 8 + report.length ≤ 2 ^ 39 →
          exec (.attestation p v) s = .next ((s.write (bytesAt b 48 8) report).endRequest 0)))) ∧
    exec .firmwareBankSwitch s = .next (if s.hub.bankReady then { s with hub := { s.hub with bank := 1 - s.hub.bank, bankReady := false } } else s)

/-- Launches (R396, R397, R399 to R404): with no record pending the dispatcher does nothing; a record that is bad is consumed and refused with kind 2; one
that is eligible for a partition with nothing running is placed in every mailbox, starts every sequencer and posts kind 10 to it; one that a
pre-emptible launch of lower priority keeps out asks it to make way, unless that launch has been resumed since the head came; a launch with every sequencer
halted and every tile finished retires with kind 1; a partition whose groves have saved gives way to the launch that waits, and takes its saved launch
up again.

What the rules leave open here is the model's choice (log entries 7, 9, 17, 41 and 45). -/
def Obligations.LaunchesRun : Prop :=
  ∀ (s : State) (q i : Nat),
    let l := s.headLaunch q
    let b := s.headRecord q
    let gs := s.partGroveList l.partn
    let run := s.hub.partRuns.get {} i
    let started (z : State) (l : Launch) (b : List Byte) (gs : List Nat) : Prop :=
      (∀ g ∈ gs, (z.grove g).seq.run = .running ∧ (z.grove g).seq.pc = (bytesAt b 20 2 % 2048 : Nat) ∧ (z.grove g).seq.queues = [] ∧
        (z.grove g).seq.readS 1 = .ofNat 64 (bytesAt b 24 8) ∧ (z.grove g).seq.readS 2 = .ofNat 64 (bytesAt b 56 6) ∧
        (z.grove g).seq.readS 3 = (launchId l.queue l.num).setWidth 64 ∧ (z.grove g).seq.readA 1 = .ofNat 72 (bytesAt b 24 9) ∧
        (z.grove g).seq.readA 2 = .ofNat 72 (bytesAt b 40 9) ∧ (z.grove g).seq.ctl.codebase = 0 ∧ (z.grove g).seq.ctl.codebound = 2048 ∧
        (z.grove g).seq.ctl.tvec = 0 ∧
        evRecord 10 0 0xff l.queue 0 ((launchId l.queue l.num).setWidth 64) ∈ (z.grove g).events ++ (z.grove g).waiting ∧
        (∀ j x, b[j]? = some x → z.mem.bytes.read (gspAddr g (partMbox (s.hub.parts.get 0 l.partn) / 128 * 128) + j) = x)) ∧
      (z.hub.partRuns.get {} l.partn).running = some l ∧ (z.queue l.queue).head = (s.queue l.queue).head + 1 ∧ z.hub.lastServed = some l.queue
    (s.heads = [] → exec .launchDispatch s = .next s) ∧
    (s.headOutside = true → exec .launchDispatch s = .fault .noSuchAddress) ∧
    (∀ c off, s.heads = [q] → s.headOutside = false → s.headBad q = some (c, off) → (s.queue q).pending = 1 →
      exec .launchDispatch s = .next (s.refuseRecord q c off)) ∧
    (s.heads = [q] → s.headOutside = false → s.headBad q = none → s.eligibleHead q = true →
      ((s.hub.partRuns.get {} l.partn).running = none → ∃ z, exec .launchDispatch s = .next z ∧ started z l b gs) ∧
      (∀ o, (s.hub.partRuns.get {} l.partn).running = some o → ∃ z, exec .launchDispatch s = .next z ∧ z.mem = s.mem ∧
        (z.hub.partRuns.get {} l.partn).waiting = some l ∧ (z.hub.partRuns.get {} l.partn).running = some o ∧
        (∀ g ∈ gs, (s.grove g).seq.run = .running → (s.grove g).preempt = none → (z.grove g).preempt = some (.requested s.cycle)) ∧
        (∀ g ∈ gs, ∀ k, k < 16 → (s.tile (s.physOf g k)).preempt = none → (z.tile (s.physOf g k)).preempt = some (.requested s.cycle)))) ∧
    (∀ part prio since, let r := s.hub.partRuns.get {} part
      s.takes part prio since = true ↔ r.saved = none ∧ r.waiting = none ∧ ∀ o, r.running = some o →
        (s.hub.parts.get 0 part).getLsbD 254 = true ∧ o.prio < prio ∧ ∀ c, r.resumed = some c → c < since) ∧
    (run.running = none → exec (.launchRetire i) s = .next s) ∧
    (∀ o, run.running = some o → run.faulted = none →
      (s.launchDone i = false → exec (.launchRetire i) s = .next s) ∧
      (s.launchDone i = true → run.waiting = none → ∃ z, exec (.launchRetire i) s = .next z ∧ z.mem = s.mem ∧
        (z.hub.partRuns.get {} i).running = none ∧ z.tiles = s.tiles ∧ z.groves = s.groves ∧
        ((s.queue o.queue).retired = [] → (s.queue o.queue).done.toNat = o.num → (z.queue o.queue).done = (s.queue o.queue).done + 1))) ∧
    (run.waiting = none ∨ run.running = none → exec (.partitionSaveDone i) s = .next s) ∧
    (∀ o w, run.running = some o → run.waiting = some w →
      ((∃ g ∈ s.partGroveList i, s.groveSaved g = false) → exec (.partitionSaveDone i) s = .next s) ∧
      ((∀ g ∈ s.partGroveList i, s.groveSaved g = true) → w.partn = i → ∃ z, exec (.partitionSaveDone i) s = .next z ∧
        started z w (s.headRecord w.queue) (s.partGroveList i) ∧ (z.hub.partRuns.get {} i).saved = some o ∧
        (∀ g ∈ s.partGroveList i, (z.grove g).savedSeq = some (s.grove g).seq))) ∧
    (run.saved = none ∨ run.running ≠ none → exec (.launchResume i) s = .next s) ∧
    (∀ o, run.saved = some o → run.running = none → ∃ z, exec (.launchResume i) s = .next z ∧
      (z.hub.partRuns.get {} i).running = some o ∧ (z.hub.partRuns.get {} i).saved = none ∧ (z.hub.partRuns.get {} i).resumed = some s.cycle ∧
      (∀ g ∈ s.partGroveList i, (z.grove g).savedTiles = [] ∧ ∀ y, (s.grove g).savedSeq = some y → (z.grove g).seq.s = y.s ∧ (z.grove g).seq.pc = y.pc))

/-- Tables and links of the fabric (R379, R427, R430, R436 to R438, R444): a port counts unsupported requests, takes a spare lane once and goes down; an
edge entry is stored with its reserved bits zero, unless it names no port; a routing entry that stands the checks is stored but for `cur`, which stays;
one with a reserved bit, a used set without source or destination or of a reserved act, a set that reduces into a context which is not valid or
counts other contributions than it has sources, one that counts for a tile outside the ASID's partition, or an unused set that is not zero, is
refused; so is, with a report of decode fault, a context entry without contributions, with reserved bits, with a format its operation does
not have, or made invalid or changed while a routing entry names it.

What the rules leave open here is the model's choice (log entries 22, 46 and 47). -/
def Obligations.FabricTables : Prop :=
  ∀ (s : State) (i n l d : Nat) (v : BitVec 256) (w : Word),
    let x := s.port i
    (12 ≤ i → ∀ y ∈ [Instr.unsupportedRequest i, .laneSpare i l, .fabricLinkDown i, .routingEntryWrite i n v, .contextTableWrite i n w],
      exec y s = .next s) ∧
    (i < 12 →
      exec (.unsupportedRequest i) s = .next (s.setPort i { x with unsupported := x.unsupported + 1 }) ∧
      exec (.fabricLinkDown i) s = .next (s.setPort i { x with down := true }) ∧
      (l < 4 → x.spare = none → exec (.laneSpare i l) s = .next (s.setPort i { x with spare := some l })) ∧
      (x.spare ≠ none → exec (.laneSpare i l) s = .next s) ∧
      (n < 4096 →
        (v.extractLsb' 249 2 ≠ 0 ∨
          (∃ k, k < 4 ∧ (v.extractLsb' 253 2).toNat < k ∧ v.extractLsb' (60 * k) 60 ≠ 0) ∨
          (∃ k, k ≤ (v.extractLsb' 253 2).toNat ∧ let r := v.extractLsb' (60 * k) 60
            3 < (r.extractLsb' 57 3).toNat ∨ r.extractLsb' 44 13 = 0 ∨ r.extractLsb' 31 13 = 0 ∨ r.extractLsb' 23 2 = 3 ∨
            (r.extractLsb' 57 3 = 1 ∧ r.getLsbD 43 = false) ∨ (r.extractLsb' 57 3 = 3 ∧ r.getLsbD 43 = false) ∨
            (r.extractLsb' 57 3 = 0 ∧ r.getLsbD 43 = true) ∨
            (r.extractLsb' 57 3 = 2 ∧ let c := x.contexts.get 0 (r.extractLsb' 25 6).toNat
              c.getLsbD 63 = false ∨ (c.extractLsb' 49 8).toNat ≠ (bits13 (r.extractLsb' 44 13)).length) ∨
            (r.extractLsb' 23 2 ≠ 0 ∧ (10 ≤ (r.extractLsb' 17 4).toNat ∨
              ∀ p, s.partOf (10 * (r.extractLsb' 21 2).toNat + (r.extractLsb' 17 4).toNat) = some p → partAsid p.2 ≠ v.extractLsb' 240 9))) →
          exec (.routingEntryWrite i n v) s = .next s) ∧
        (s.routeBad i v = false → ∃ z, exec (.routingEntryWrite i n v) s = .next z ∧ z.mem = s.mem ∧
          (∀ k, k ≠ n → z.route i k = s.route i k) ∧
          (∀ b, b < 256 → (z.route i n).getLsbD b = if b = 251 ∨ b = 252 then (s.route i n).getLsbD b else v.getLsbD b) ∧
          (z.port i).marked = x.marked ∧ (z.port i).contexts = x.contexts)) ∧
      (n < 64 →
        (w.extractLsb' 49 8 = 0 ∨ w.extractLsb' 0 49 ≠ 0 ∨ (w.extractLsb' 61 2 = 3 ∧ w.extractLsb' 57 4 ≠ 0) ∨
          (w.extractLsb' 61 2 ≠ 3 ∧ w.extractLsb' 57 4 ≠ 1 ∧ w.extractLsb' 57 4 ≠ 2) ∨
          (x.named n = true ∧ (w.getLsbD 63 = false ∨ w.extractLsb' 49 14 ≠ (x.contexts.get 0 n).extractLsb' 49 14)) → exec (.contextTableWrite i n w) s = .next (s.report 0x14 i)) ∧
        (ccBad w = false → x.named n = false ∨ (w.getLsbD 63 = true ∧ w.extractLsb' 49 14 = (x.contexts.get 0 n).extractLsb' 49 14) → ∃ z, exec (.contextTableWrite i n w) s = .next z ∧
          (∀ k, (z.port i).contexts.get 0 k = if k = n then w else x.contexts.get 0 k) ∧ (z.port i).routes = x.routes ∧
          n ∉ (z.port i).stopped))) ∧
    (d < 4 → n < 4096 →
      ((w.extractLsb' 56 4).toNat < 12 → ∃ z, exec (.edgeTableWrite d n w) s = .next z ∧ z.mem = s.mem ∧
        (∀ k, (z.die d).edges.get 0 k = if k = n then .ofNat 64 (w.toNat / 2 ^ 35 * 2 ^ 35) else (s.die d).edges.get 0 k)) ∧
      (12 ≤ (w.extractLsb' 56 4).toNat → exec (.edgeTableWrite d n w) s = .next s))

/-- Words on their way (R379, R432 to R434, R439, R444): for a source n mod 16 of entry n div 16 with words held, an entry that is not live
discards the first and answers 0x14; a live one with act 0 passes it to every destination's entry, in order, or out on its link, and a
sender is then due an answer for each; with act 1 it writes a data word at its address, answers its sender, and under `cnt` 1 counts the
packet with its last word; a word that faults is kept for when it is sent again, and one may be left on its way; a marker is taken once and
answered; with every marker taken the next set becomes current, a marker goes to every destination, and under `cnt` 2 it counts
once every earlier delivery has performed. A response goes to the sender, or to the package that sent the word.

Contributions (R380, R381, R439, R440): into a valid context the first header of a tag opens a packet and the header of its output goes on
at once; a data word is the first partial of its position, or is combined into it lane by lane; with the last contribution the
output word goes on with the common address, owing its answer to every sender; one of another address, or beyond its packet, stops the
context; a stopped context answers 0x15, one that is not valid 0x14.

What the rules leave open here is the model's choice (log entries 21, 22 and 46). -/
def Obligations.RoutedWords : Prop :=
  (∀ (s : State) (i n : Nat) (w : FabricWord) (rest : List FabricWord), n < 65536 →
     let x := s.port i
     let vsn := n / 16
     let e := s.route i vsn
     let r := curSet e
     let src := n % 16
     let outs := bits13 (setOut r)
     let live : Prop := s.routeLive e = true ∧ (setIn r).getLsbD src = true ∧ (x.marked.get 0 vsn).getLsbD src = false ∧ s.routeOpen i r = true
     let taken : State := s.setPort i { x with held := x.held.set [] n rest }
     let counter (z : State) : BitVec 32 := (z.tile (s.physOf (rGrove r) (rTile r))).ac.get 0 (setAc r)
     let here : Prop := (s.grove (groveOf (s.physOf (rGrove r) (rTile r)))).savedTiles = []
     (x.held.get [] n = [] → ∀ y ∈ [Instr.routeForward i n, .routeDeliver i n, .routeReduce i n], exec y s = .next s) ∧
     (x.held.get [] n = w :: rest →
       (s.routeLive e = false → exec (.routeForward i n) s = .next (taken.respond w 0x14 vsn) ∧ exec (.routeDeliver i n) s = .next s ∧
         exec (.routeReduce i n) s = .next s) ∧
       (live → w.kind = 2 →
         (∀ y, (y = .routeForward i n ∧ setAct r = 0) ∨ (y = .routeDeliver i n ∧ (setAct r = 1 ∨ setAct r = 3)) ∨
             (y = .routeReduce i n ∧ s.reduces i r = true) →
           exec y s = .next ((taken.setPort i { taken.port i with
             marked := x.marked.set 0 vsn (x.marked.get 0 vsn ||| BitVec.twoPow 13 src) }).respond w 0 vsn))) ∧
       (live → setAct r = 0 → w.kind ≠ 2 → 12 ∉ outs → ∃ z, exec (.routeForward i n) s = .next z ∧ z.mem = s.mem ∧
         (∀ j, j ≠ i → j ≠ 12 → (z.port j).held.get [] (16 * vsn + i) = (s.port j).held.get [] (16 * vsn + i) ++
           if j ∈ outs then [w] else []) ∧
         (z.port i).sent = x.sent ++ (if i ∈ outs then [(vsn, w)] else []) ∧
         (i ∉ outs → ∀ t k l, w.senders = [(t, k, l)] → k ≠ 0 → (z.tile t).str.responses = (s.tile t).str.responses ∧
           ∀ h c, (s.tile t).str.cmds.get? h = some c → c.num + 1 = k →
             (z.tile t).str.cmds.get? h = some { c with unacked := c.unacked ++ List.replicate (outs.length - 1) (l, s.cycle) })) ∧
       (live → setAct r = 1 → w.kind = 0 → w.packet = none → x.landing = [] → x.refused = [] → x.counts = [] →
         let left := (x.arriving.get {} n).left.get? (x.arriving.get {} n).num
         let kept : Landing := ⟨vsn, src, (x.arriving.get {} n).num, x.steps.get 0 vsn, r, w⟩
         (∀ pa, w.poison = false → (taken.wordPages (i / 3) (rAsid e) w.addr false true).2 = .ok [(pa, 64)] →
           ∃ z, exec (.routeDeliver i n) s = .next z ∧ (∀ k, k < 64 → z.mem.bytes.read (pa + k) = w.data.extractLsb' (8 * k) 8) ∧
             (∀ a, a < pa ∨ pa + 64 ≤ a → z.mem.bytes.read a = s.mem.bytes.read a) ∧
             (∀ t k l, w.senders = [(t, k, l)] → (z.tile t).str.responses = (s.tile t).str.responses ++ [⟨k, l, 0, none⟩]) ∧
             (here → (setCnt r = 1 → left = some 1 → counter z = counter s + 1) ∧
               (setCnt r ≠ 1 ∨ left = none ∨ (∃ m, left = some (m + 2)) → counter z = counter s)) ∧
             (∀ m, left = some (m + 2) → ((z.port i).arriving.get {} n).left.get? (x.arriving.get {} n).num = some (m + 1))) ∧
         (∀ c, w.reduced = false → c ≠ 0 → (taken.wordPages (i / 3) (rAsid e) w.addr false true).2 = .error c →
           ∃ z, exec (.routeDeliver i n) s = .next z ∧ z.mem = s.mem ∧ (z.port i).refused = [kept] ∧
             (∀ t k l, w.senders = [(t, k, l)] → (z.tile t).str.responses = (s.tile t).str.responses ++
               [⟨k, l, c, if c = 0x10 then some { w with packet := some kept.packet } else none⟩])) ∧
         (∃ z, exec (.routeDeliver i (65536 + n)) s = .next z ∧ z.mem = s.mem ∧ (z.port i).landing = [kept]))) ∧
     (s.routeLive e = false ∨ x.marked.get 0 vsn &&& setIn r ≠ setIn r → exec (.routeStep i n) s = .next s) ∧
     (s.routeLive e = true → setIn r ≠ 0 → x.marked.get 0 vsn &&& setIn r = setIn r → s.routeOpen i r = true → setAct r ≠ 2 → x.counts = [] →
       ∃ z, exec (.routeStep i n) s = .next z ∧ z.mem = s.mem ∧ (z.port i).marked.get 0 vsn = 0 ∧
         rCur (z.route i vsn) = (rCur e + 1) % rSets e ∧ (∀ k, k < 4 → rSet (z.route i vsn) k = rSet e k) ∧
         (∀ j, j ≠ i → j ≠ 12 → (setOut r).getLsbD j = true → (z.port j).held.get [] (16 * vsn + i) =
           (s.port j).held.get [] (16 * vsn + i) ++ [{ kind := 2, addr := 0, data := 0, src := Config.package }]) ∧
         (let counts := (setOut r).getLsbD 12 = true ∧ setCnt r = 2
           let earlier := ∃ l ∈ x.landing ++ x.refused, l.vsn = vsn ∧ l.epoch ≤ x.steps.get 0 vsn
           (here → counts → ¬ earlier → counter z = counter s + 1) ∧ (here → ¬ counts ∨ earlier → counter z = counter s) ∧
           (counts → earlier → (z.port i).counts = [(vsn, x.steps.get 0 vsn, r)]))) ∧
     (∀ c v, (w.senders = [] → w.back = none → s.respond w c v = s) ∧
       (∀ t k l, w.senders = [(t, k, l)] → w.back = none → s.respond w c v = s.setTile t { s.tile t with str := { (s.tile t).str with
         responses := (s.tile t).str.responses ++ [⟨k, l, c, if c = 0x10 then some w else none⟩] } }) ∧
       (∀ p, w.senders = [] → w.back = some p → s.respond w c v = s.setPort p { s.port p with
         answers := (s.port p).answers ++ [⟨w.header v, c, 0⟩] }))) ∧
  (∀ (s : State) (i n : Nat) (w : FabricWord) (rest : List FabricWord), n < 65536 →
     let x := s.port i
     let e := s.route i (n / 16)
     let r := curSet e
     let outs := bits13 (setOut r)
     let taken : State := s.setPort i { x with held := x.held.set [] n rest }
     let c := setCc r
     let entry := x.contexts.get 0 c
     let out := 16 * (n / 16) + i
     x.held.get [] n = w :: rest → s.routeLive e = true → (setIn r).getLsbD (n % 16) = true → (x.marked.get 0 (n / 16)).getLsbD (n % 16) = false →
     s.routeOpen i r = true → setAct r = 2 → ccOp entry ≠ 3 → i < 12 →
     (c ∈ x.stopped → w.kind ≠ 2 → exec (.routeReduce i n) s = .next (taken.respond w 0x15 (n / 16))) ∧
     (c ∉ x.stopped → w.kind ≠ 2 → ccValid entry = false → exec (.routeReduce i n) s = .next (taken.respond w 0x14 (n / 16))) ∧
     (c ∉ x.stopped → ccValid entry = true → i ∉ outs →
       (∀ o : FabricWord, w.kind = 1 → isFloat (hFmt w.data).toNat = true → x.packets.get [] c = [] →
         o = { kind := 1, addr := w.addr, reduced := true, src := Config.package
               data := headerWord (ccFmt entry) 0 (hLen w.data) (hTag w.data).toNat (hAxpos w.data) (hAxis w.data) } →
         ∃ z, exec (.routeReduce i n) s = .next z ∧ z.mem = s.mem ∧ (z.port i).current.get? n = some (w.data, 0) ∧
           (z.port i).held.get [] n = rest ∧
           (z.port i).packets.get [] c = [((hTag w.data).toNat, { num := 0, header := w.data, out := o, begun := true })] ∧
           (∀ j, j ≠ i → j ≠ 12 → (z.port j).held.get [] out = (s.port j).held.get [] out ++ if j ∈ outs then [o] else [])) ∧
       (∀ h pos p, w.kind = 0 → x.current.get? n = some (h, pos) → x.packets.get [] c = [((hTag h).toNat, p)] → p.begun = true →
         let ls := contribution h w.data
         (pos < hLen p.header → p.words.get? pos = none → x.partials < 4096 → 1 < ccCount entry →
           (∀ q, p.words.get? p.sent = some q → q.count < ccCount entry) →
           ∃ z, exec (.routeReduce i n) s = .next z ∧ z.mem = s.mem ∧ (z.port i).current.get? n = some (h, pos + 1) ∧
             (z.port i).packets.get [] c = [((hTag h).toNat,
               { p with words := p.words.put pos ⟨w.addr, ls.map XVal.round32, 1, w.poison, w.senders⟩ })]) ∧
         (pos < hLen p.header → p.words.get? pos = none → 4096 ≤ x.partials → exec (.routeReduce i n) s = .next s) ∧
         (∀ q, pos < hLen p.header → p.words.get? pos = some q → q.addr = w.addr →
           let lanes := List.zipWith (combineLane (ccOp entry)) q.lanes ls
           (q.count + 1 < ccCount entry → (∀ q', p.sent ≠ pos → p.words.get? p.sent = some q' → q'.count < ccCount entry) →
             ∃ z, exec (.routeReduce i n) s = .next z ∧ z.mem = s.mem ∧ (z.port i).packets.get [] c = [((hTag h).toNat,
               { p with words := p.words.put pos ⟨q.addr, lanes, q.count + 1, q.poison || w.poison, q.senders ++ w.senders⟩ })]) ∧
           (q.count + 1 = ccCount entry → p.sent = pos → p.words = [(pos, q)] → ∀ j, outs = [j] → j ≠ 12 →
             ∃ z o, exec (.routeReduce i n) s = .next z ∧ (z.port j).held.get [] out = (s.port j).held.get [] out ++ [o] ∧
               o.kind = 0 ∧ o.addr = w.addr ∧ o.senders = q.senders ++ w.senders ∧ o.poison = (q.poison || w.poison) ∧ o.reduced = true ∧
               (∀ k v, k < laneCount (ccFmt entry) → lanes[k]? = some v →
                 lanePat (ccFmt entry) o.data k = quant (ccFmt entry) .rne v % 2 ^ laneBits (ccFmt entry)))) ∧
         (hLen p.header ≤ pos ∨ (∃ q, p.words.get? pos = some q ∧ q.addr ≠ w.addr) →
           ∃ z, exec (.routeReduce i n) s = .next z ∧ z.mem = s.mem ∧ c ∈ (z.port i).stopped ∧ (z.port i).packets.get [] c = []))) ∧
     (∀ a b : XVal, (∃ v, XVal.sums .rne [a, b] v ∧ combineLane 0 a b = decodeType 1 (quant 1 .rne v)) ∧
       (a.finite → b.finite → a.value < b.value → combineLane 1 a b = b ∧ combineLane 1 b a = b ∧ combineLane 2 a b = a ∧ combineLane 2 b a = a)))

/-- Requests, replies and responses (R223, R318, R433, R434): a command asks for the word it reads next at its edge's entry; an entry that
delivers answers a request with the 64 bytes at its address or the cause that meets it, one that forwards passes it to its lowest
destination, any other answers 0x14; the reply gives its command the word, or stops it, or freezes its region. A write response acknowledges its word, or stops its
command; at a stopped region replies and responses are held.

What the rules leave open here is the model's choice (log entries 21 and 46). -/
def Obligations.RepliesReachTheirSenders : Prop :=
  ∀ (s : State) (t h : Nat),
    (h < 64 →
      (s.cmd? t h = none → exec (.peerReadServe t h) s = .next s) ∧
      (∀ c, s.cmd? t h = some c →
        ((s.tile t).still = true → exec (.peerReadServe t h) s = .next s) ∧
        ((s.tile t).still = false → (∀ r ∈ (s.tile t).str.replies, r.key ≠ c.num + 1) →
          (c.active = false ∨ c.awaitsReply = false ∨ c.asked = some c.readAt → exec (.peerReadServe t h) s = .next s) ∧
          (c.active = true → c.awaitsReply = true → c.asked ≠ some c.readAt → c.indexed = false → c.single = false →
            let g := c.readGeo
            let j := c.readAt
            let edge := (s.die (dieOf (groveOf t))).edges.get 0 (gId g % 4096)
            ∀ s1 row, s.rowOf t c j = (s1, .ok row) →
              exec (.peerReadServe t h) s = .next ((s1.setCmd t h { c with asked := some j, waitSince := s1.cycle }).holdRead
                (edgePort edge) (edgeVsn edge) 12
                { kind := 3, addr := gAddr g j, data := 0, senders := [(t, c.num + 1, j)], src := Config.package }))) ∧
        (∀ r rest, (s.tile t).still = false → (s.tile t).str.replies = r :: rest → r.key = c.num + 1 →
          let z := s.setTile t { s.tile t with str := { (s.tile t).str with replies := rest } }
          (c.asked ≠ some r.elem ∨ c.done = true → exec (.peerReadServe t h) s = .next z) ∧
          (c.asked = some r.elem → c.done = false →
            (r.cause = 0 → c.single = false → exec (.peerReadServe t h) s = .next (z.setCmd t h { c with asked := none, reply := r.data })) ∧
            (r.cause = 0x10 → exec (.peerReadServe t h) s = .next (z.pageFault t h { c with asked := none } r.addr)) ∧
            (r.cause ≠ 0 → r.cause ≠ 0x10 →
              exec (.peerReadServe t h) s = .next (z.stopCmd t h { c with pos := r.elem, asked := none } r.cause)))))) ∧
    (∀ n w rest, let vsn := n / 16
      let e := s.route t vsn
      let r := curSet e
      let took (z : State) : State := z.setPort t { z.port t with reads := (z.port t).reads.set [] n rest }
      ((s.port t).reads.get [] n = [] → exec (.peerReadServe t (64 + n)) s = .next s) ∧
      ((s.port t).reads.get [] n = w :: rest →
        (s.routeLive e = false ∨ setAct r = 2 → exec (.peerReadServe t (64 + n)) s = .next ((took s).replyRead w vsn 0x14 [])) ∧
        (s.routeLive e = true → setAct r = 1 ∨ setAct r = 3 →
          (∀ s1 pa, s.wordPages (t / 3) (rAsid e) w.addr true false = (s1, .ok [(pa, 64)]) →
            exec (.peerReadServe t (64 + n)) s = .next (if s1.mem.poisoned pa 64 then (took s1).replyRead w vsn 0x13 []
              else (took s1).replyRead w vsn 0 (s1.mem.bytes.readList pa 64))) ∧
          (∀ s1 c, s.wordPages (t / 3) (rAsid e) w.addr true false = (s1, .error c) →
            exec (.peerReadServe t (64 + n)) s = .next ((took s1).replyRead w vsn c []))) ∧
        (s.routeLive e = true → setAct r = 0 → ∀ j js, bits13 (setOut r) = j :: js → j ≠ t →
          exec (.peerReadServe t (64 + n)) s = .next ((took s).holdRead j vsn t w)))) ∧
    (∀ w v c bs, (∀ k l, w.senders = [(t, k, l)] → w.back = none → s.replyRead w v c bs = s.setTile t { s.tile t with str := { (s.tile t).str with
        replies := (s.tile t).str.replies ++ [⟨k, l, c, w.addr, bs⟩] } }) ∧
      (∀ p, w.senders = [] → w.back = some p → s.replyRead w v c bs = s.setPort p { s.port p with
        answers := (s.port p).answers ++ [⟨w.header v, c, .ofNat 512 (leNat bs)⟩] })) ∧
    ((∀ r ∈ (s.tile t).str.responses, r.key ≠ h) → exec (.writeResponse t h) s = .next s) ∧
    (∀ r rest, (s.tile t).str.responses = r :: rest → r.key = h →
      (h ≠ 0 → (s.tile t).freeze ≠ none → r.word = none → exec (.writeResponse t h) s = .next s) ∧
      (h = 0 → (s.die (dieOf (groveOf t))).writeback = [] → exec (.writeResponse t h) s = .next (s.setTile t { s.tile t with
        str := { (s.tile t).str with responses := rest } })) ∧
      (h ≠ 0 → (s.tile t).freeze = none → ∀ n c, (s.tile t).str.cmds = [(n, c)] → c.num + 1 = h → c.cause = 0 → r.word = none →
        (r.cause = 0 → (s.mx t).tokens = [] → exec (.writeResponse t h) s = .next (s.setTile t { s.tile t with str := { (s.tile t).str with
          responses := rest, cmds := [(n, { c with unacked := dropElem r.elem c.unacked })] } })) ∧
        (r.cause ≠ 0 → exec (.writeResponse t h) s = .next (s.setTile t { s.tile t with str := { (s.tile t).str with
          responses := rest, cmds := [(n, { c with pos := r.elem, unacked := [], resend := [], cause := r.cause, done := true })] } }))))

/-! ### Invariants and reset -/

/-- Every step that goes on keeps the memory's canonical form: addresses rise, and no byte that reads as an unlisted one is listed (log entry 4). -/
def Obligations.MemoryFormIsKept : Prop :=
  ∀ (s t : State), s.memOk → step s = .next t → t.memOk

/-- The machine right after reset (R109, R121, R123, R126, R128, R185, R293, R297, R353, R389, R390, R410): every scalar, address register, geometry,
counter and presence bit reads 0, `q0` reads 1, no barrier is set up and no table entry is valid, the control registers hold the values of R121 and R297, the window
is closed; and memory is in canonical form. What the rules leave open at reset is the model's choice (log entries 4 and 5). -/
def Obligations.ResetState : Prop :=
  let s := State.reset
  s.memOk ∧ s.window.isOpen = false ∧ s.cycle = 0 ∧ s.hub.sems = [] ∧ (∀ i, (s.hub.parts.get 0 i).getLsbD 255 = false) ∧ s.hub.pwrcap = 2400 ∧
  (∀ d i, ((s.die d).groups.get 0 i).getLsbD 255 = false) ∧ (∀ d, (s.die d).dscrub = 40) ∧ (∀ a, s.present a = false) ∧
  (∀ a n, s.mem.poisoned a n = false) ∧
  (∀ u : Agent, let q := s.seqOf u
    q.run = .idle ∧ (∀ n, q.readS n = 0 ∧ q.readA n = 0 ∧ q.readK n = 0 ∧ q.readQ n = if n = 0 then 1 else 0) ∧
    (∀ n, (q.bar n).init = false ∧ (q.bar n).phase = 0) ∧ q.loops = [] ∧ q.handlers = [] ∧ q.queues = [] ∧
    q.ctl.tvec = 0 ∧ q.ctl.uivec = 0 ∧ q.ctl.uipend = 0 ∧ q.ctl.uimask = BitVec.allOnes 64 ∧ q.ctl.tstatus = 0x06 ∧ q.ctl.trerun = 4 ∧
    q.ctl.pmax = 0x00100000 ∧ q.ctl.gangwait = 0x00010000 ∧ q.ctl.mclag = 256) ∧
  (∀ t, (s.tile t).task = none ∧ (s.tile t).str.cmds = [] ∧ (s.tile t).mx.running = none ∧
    ∀ n, (s.tile t).g.get 0 n = 0 ∧ (s.tile t).ac.get 0 n = 0 ∧ (s.tile t).own.get 0 n = 0) ∧
  (∀ g, (s.grove g).stilllimit = 0x01000000 ∧ (s.grove g).replylimit = 0x00100000 ∧ (s.grove g).place = 31 ∧ (s.grove g).bkrate = 0x10000 ∧
    (s.grove g).bkdepth = 4096 ∧ (s.grove g).events = [])
end

