-- ==== Sys2Proof/Laws/Table.lean ====
section
/-!
SUPPORT. Laws of the sparse tables: an entry read back after a write, other entries left alone, and the canonical form kept.
-/
namespace Sys2Proof.Machine

variable {α : Type}

@[simp] theorem KMap.get_nil (d : α) (k : Nat) : KMap.get d [] k = d := rfl
@[simp] theorem KMap.get?_nil (k : Nat) : KMap.get? ([] : KMap α) k = none := rfl

theorem KMap.get_eq_get? (d : α) (m : KMap α) (k : Nat) : KMap.get d m k = (KMap.get? m k).getD d := by
  induction m with
  | nil => rfl
  | cons e t ih => obtain ⟨k', v⟩ := e; simp only [KMap.get, KMap.get?]; split <;> simp_all

theorem KMap.get?_put (m : KMap α) (k j : Nat) (v : α) :
    KMap.get? (m.put k v) j = if j = k then some v else KMap.get? m j := by
  induction m with
  | nil => by_cases h : j = k <;> simp [KMap.put, KMap.get?, h]
  | cons e t ih =>
    obtain ⟨k', v'⟩ := e
    simp only [KMap.put]
    split
    · simp only [KMap.get?]
    · split
      · subst_vars; simp only [KMap.get?]; split <;> simp_all
      · simp only [KMap.get?, ih]
        by_cases hj : j = k'
        · subst hj; have hk : ¬j = k := fun e => by simp_all
          simp [hk]
        · simp [hj]

@[simp] theorem KMap.get?_put_same (m : KMap α) (k : Nat) (v : α) : KMap.get? (m.put k v) k = some v := by
  simp [KMap.get?_put]

theorem KMap.get?_put_ne (m : KMap α) {k j : Nat} (v : α) (h : j ≠ k) : KMap.get? (m.put k v) j = KMap.get? m j := by
  simp [KMap.get?_put, h]

@[simp] theorem KMap.get_put_same (d : α) (m : KMap α) (k : Nat) (v : α) : KMap.get d (m.put k v) k = v := by
  simp [KMap.get_eq_get?]

theorem KMap.get_put_ne (d : α) (m : KMap α) {k j : Nat} (v : α) (h : j ≠ k) : KMap.get d (m.put k v) j = KMap.get d m j := by
  simp [KMap.get_eq_get?, KMap.get?_put_ne m v h]

theorem KMap.get_put (d : α) (m : KMap α) (k j : Nat) (v : α) :
    KMap.get d (m.put k v) j = if j = k then v else KMap.get d m j := by
  by_cases h : j = k <;> simp [h, KMap.get_put_ne]

/-- The later of two writes of one entry stands. -/
@[simp] theorem KMap.put_put (m : KMap α) (k : Nat) (v w : α) : (m.put k v).put k w = m.put k w := by
  induction m with
  | nil => simp [KMap.put]
  | cons e t ih =>
    obtain ⟨k', v'⟩ := e
    simp only [KMap.put]
    by_cases h1 : k < k'
    · simp [h1, KMap.put]
    · by_cases h2 : k = k'
      · subst h2; simp [KMap.put]
      · simp [h1, h2, KMap.put, ih]

theorem KMap.get?_erase (m : KMap α) (k j : Nat) : KMap.get? (m.erase k) j = if j = k then none else KMap.get? m j := by
  induction m with
  | nil => simp [KMap.erase, KMap.get?]
  | cons e t ih =>
    obtain ⟨k', v⟩ := e
    simp only [KMap.erase, List.filter_cons] at ih ⊢
    by_cases h : k' = k
    · subst h; simp only [bne_self_eq_false, Bool.false_eq_true, if_false, ih, KMap.get?]
      split <;> simp_all
    · have : (k' != k) = true := by simpa using h
      simp only [this, if_true, KMap.get?, ih]
      split
      · split <;> simp_all
      · rfl

theorem KMap.get_set [DecidableEq α] (d : α) (m : KMap α) (k j : Nat) (v : α) :
    KMap.get d (m.set d k v) j = if j = k then v else KMap.get d m j := by
  unfold KMap.set
  split
  · rename_i h; subst h
    simp only [KMap.get_eq_get?, KMap.get?_erase]; split <;> simp
  · exact KMap.get_put d m k j v

@[simp] theorem KMap.get_set_same [DecidableEq α] (d : α) (m : KMap α) (k : Nat) (v : α) : KMap.get d (m.set d k v) k = v := by
  simp [KMap.get_set]

theorem KMap.get_set_ne [DecidableEq α] (d : α) (m : KMap α) {k j : Nat} (v : α) (h : j ≠ k) :
    KMap.get d (m.set d k v) j = KMap.get d m j := by
  simp [KMap.get_set, h]

/-! ### The canonical form -/

theorem KMap.sorted_iff (m : KMap α) : KMap.sorted m = true ↔ List.Pairwise (fun a b : Nat × α => a.1 < b.1) m := by
  induction m with
  | nil => simp [KMap.sorted]
  | cons e t ih =>
    cases t with
    | nil => simp [KMap.sorted]
    | cons f u =>
      simp only [KMap.sorted, Bool.and_eq_true, decide_eq_true_eq, ih, List.pairwise_cons]
      constructor
      · rintro ⟨h1, h2, h3⟩
        refine ⟨fun x hx => ?_, h2, h3⟩
        rcases List.mem_cons.mp hx with h | h
        · exact h ▸ h1
        · exact Nat.lt_trans h1 (h2 x h)
      · rintro ⟨h1, h2, h3⟩; exact ⟨h1 f (by simp), h2, h3⟩

theorem KMap.mem_put {m : KMap α} {k : Nat} {v : α} {e : Nat × α} (h : e ∈ m.put k v) : e = (k, v) ∨ e ∈ m := by
  induction m with
  | nil => simpa [KMap.put] using h
  | cons f t ih =>
    obtain ⟨k', v'⟩ := f
    simp only [KMap.put] at h
    split at h
    · simpa using h
    · split at h
      · rcases List.mem_cons.mp h with h | h
        · exact .inl h
        · exact .inr (List.mem_cons_of_mem _ h)
      · rcases List.mem_cons.mp h with h | h
        · exact .inr (h ▸ List.mem_cons_self)
        · exact (ih h).imp id (List.mem_cons_of_mem _)

theorem KMap.sorted_put {m : KMap α} (h : KMap.sorted m = true) (k : Nat) (v : α) : KMap.sorted (m.put k v) = true := by
  rw [KMap.sorted_iff] at h ⊢
  induction m with
  | nil => simp [KMap.put]
  | cons e t ih =>
    obtain ⟨k', v'⟩ := e
    obtain ⟨h1, h2⟩ := List.pairwise_cons.mp h
    simp only [KMap.put]
    split
    · rename_i hk
      refine List.pairwise_cons.mpr ⟨fun x hx => ?_, h⟩
      rcases List.mem_cons.mp hx with hx | hx
      · exact hx ▸ hk
      · exact Nat.lt_trans hk (h1 x hx)
    · split
      · rename_i hk; subst hk; exact List.pairwise_cons.mpr ⟨h1, h2⟩
      · rename_i hk hn
        refine List.pairwise_cons.mpr ⟨fun x hx => ?_, ih h2⟩
        rcases KMap.mem_put hx with hx | hx
        · subst hx; exact Nat.lt_of_le_of_ne (Nat.not_lt.mp hk) (fun e => hn e.symm)
        · exact h1 x hx

theorem KMap.canonical_filter [DecidableEq α] {d : α} {m : KMap α} (h : KMap.canonical d m = true) (p : Nat × α → Bool) :
    KMap.canonical d (m.filter p) = true := by
  simp only [KMap.canonical, Bool.and_eq_true, KMap.sorted_iff, List.all_eq_true] at h ⊢
  exact ⟨h.1.filter p, fun e he => h.2 e (List.mem_filter.mp he).1⟩

/-- A write keeps the canonical form. -/
theorem KMap.canonical_set [DecidableEq α] {d : α} {m : KMap α} (h : KMap.canonical d m = true) (k : Nat) (v : α) :
    KMap.canonical d (m.set d k v) = true := by
  unfold KMap.set
  split
  · exact KMap.canonical_filter h _
  · rename_i hv
    simp only [KMap.canonical, Bool.and_eq_true, List.all_eq_true] at h ⊢
    refine ⟨KMap.sorted_put h.1 k v, fun e he => ?_⟩
    rcases KMap.mem_put he with he | he
    · subst he; simpa using hv
    · exact h.2 e he

end Sys2Proof.Machine
end

