-- ==== Sys2Proof/Laws/Memory.lean ====
section
/-!
SUPPORT. Laws of memory: what a read finds after a write, and that every memory operation keeps the canonical form.
-/
namespace Sys2Proof.Machine

/-! ### Reads and writes -/

theorem Memory.read_write (m : Memory) (a x : Nat) (b : Byte) : (m.write a b).read x = if x = a then b else m.read x :=
  KMap.get_set _ _ _ _ _

theorem Memory.read_writeList (bs : List Byte) : ∀ (m : Memory) (a x : Nat),
    (m.writeList a bs).read x = if a ≤ x ∧ x < a + bs.length then (bs[x - a]?).getD 0 else m.read x := by
  induction bs with
  | nil => intro m a x; simp [Memory.writeList]
  | cons b t ih =>
    intro m a x
    simp only [Memory.writeList, ih, Memory.read_write, List.length_cons]
    by_cases h : x = a
    · subst h
      have h1 : ¬(x + 1 ≤ x ∧ x < x + 1 + t.length) := by omega
      have h2 : x ≤ x ∧ x < x + (t.length + 1) := by omega
      simp [h1, h2]
    · by_cases h3 : a + 1 ≤ x ∧ x < a + 1 + t.length
      · have h4 : a ≤ x ∧ x < a + (t.length + 1) := by omega
        obtain ⟨j, rfl⟩ : ∃ j, x = a + 1 + j := ⟨x - (a + 1), by omega⟩
        have h5 : a + 1 + j - (a + 1) = j := by omega
        have h6 : a + 1 + j - a = j + 1 := by omega
        rw [if_pos h3, if_pos h4, h5, h6]; simp
      · have h4 : ¬(a ≤ x ∧ x < a + (t.length + 1)) := by omega
        rw [if_neg h3, if_neg h4, if_neg h]

@[simp] theorem leBytes_length (n v : Nat) : (leBytes n v).length = n := by simp [leBytes]

theorem leBytes_get (n v j : Nat) (h : j < n) : (leBytes n v)[j]? = some (BitVec.ofNat 8 (v / 256 ^ j)) := by
  simp [leBytes, h]

theorem mem_clean (m : Mem) (a n u : Nat) : u ∈ m.clean a n ↔ u ∈ m.poison ∧ ¬(a ≤ u ∧ u + poisonUnit u ≤ a + n) := by
  simp [Mem.clean]; intro _; omega

/-- A write of a number leaves what `State.stored` says. -/
theorem State.stored_writeNat (s : State) (a n v : Nat) : s.stored (s.writeNat a n v).mem a n v := by
  refine ⟨fun j hj => ?_, fun x hx => ?_, rfl, fun u => ?_⟩
  · simp [State.writeNat, State.write, Mem.write, Memory.read_writeList, hj]; simp [leBytes]
  · have : ¬(a ≤ x ∧ x < a + n) := by omega
    simp [State.writeNat, State.write, Mem.write, Memory.read_writeList, this]
  · simp [State.writeNat, State.write, Mem.write, mem_clean]

theorem State.writeNat_eq (s : State) (a n v : Nat) : s.writeNat a n v = { s with mem := (s.writeNat a n v).mem } := rfl

/-! ### The canonical form -/

theorem Memory.wf_write {m : Memory} (h : m.wf = true) (a : Nat) (b : Byte) : (m.write a b).wf = true := KMap.canonical_set h a b

theorem Memory.wf_writeList (bs : List Byte) : ∀ {m : Memory} (a : Nat), m.wf = true → (m.writeList a bs).wf = true := by
  induction bs with
  | nil => intro m a h; exact h
  | cons b t ih => intro m a h; exact ih (a + 1) (Memory.wf_write h a b)

theorem Memory.wf_filter {m : Memory} (h : m.wf = true) (p : Nat × Byte → Bool) : Memory.wf (List.filter p m) = true :=
  KMap.canonical_filter h p

theorem Mem.wf_write {m : Mem} (h : m.bytes.wf = true) (a : Nat) (bs : List Byte) : (m.write a bs).bytes.wf = true :=
  Memory.wf_writeList bs a h

theorem Mem.wf_copy {m : Mem} (h : m.bytes.wf = true) (a b n : Nat) : (m.copy a b n).bytes.wf = true := by
  have aux : ∀ (cs : List (Nat × Byte)) (f : Nat × Byte → Nat) (acc : Memory), acc.wf = true →
      (cs.foldl (fun (acc : Memory) c => acc.write (f c) c.2) acc).wf = true := by
    intro cs f
    induction cs with
    | nil => intro acc h; exact h
    | cons c t ih => intro acc h; exact ih _ (Memory.wf_write h _ _)
  exact aux _ _ _ (Memory.wf_filter h _)

theorem State.memOk_write {s : State} (h : s.memOk) (a : Nat) (bs : List Byte) : (s.write a bs).memOk := Mem.wf_write h a bs
theorem State.memOk_writeNat {s : State} (h : s.memOk) (a n v : Nat) : (s.writeNat a n v).memOk := Mem.wf_write h a _

/-- Code that is installed keeps the form. -/
theorem State.memOk_installCode {s : State} (h : s.memOk) (u : Agent) (code : List Byte) (ins : List Nat) :
    (s.installCode u code ins).memOk := by
  have key := Memory.wf_writeList code (codeAddr u.codeUnit 0) (Memory.wf_filter h
    (fun c => !(decide (codeAddr u.codeUnit 0 ≤ c.1) && decide (c.1 < codeAddr u.codeUnit 0 + 0x10000))))
  cases u <;> exact key

end Sys2Proof.Machine
end

