-- ==== Sys2Proof/Laws/State.lean ====
section
/-!
SUPPORT. Laws of the state: what each update of a part leaves of the others, field by field, and what it is read back as.
-/
namespace Sys2Proof.Machine

@[simp] theorem State.setTile_mem (s : State) (t : Nat) (x : Tile) : (s.setTile t x).mem = s.mem := rfl
@[simp] theorem State.setTile_groves (s : State) (t : Nat) (x : Tile) : (s.setTile t x).groves = s.groves := rfl
@[simp] theorem State.setTile_dies (s : State) (t : Nat) (x : Tile) : (s.setTile t x).dies = s.dies := rfl
@[simp] theorem State.setTile_hub (s : State) (t : Nat) (x : Tile) : (s.setTile t x).hub = s.hub := rfl
@[simp] theorem State.setTile_window (s : State) (t : Nat) (x : Tile) : (s.setTile t x).window = s.window := rfl
@[simp] theorem State.setTile_ports (s : State) (t : Nat) (x : Tile) : (s.setTile t x).ports = s.ports := rfl
@[simp] theorem State.setTile_cycle (s : State) (t : Nat) (x : Tile) : (s.setTile t x).cycle = s.cycle := rfl
@[simp] theorem State.setTile_focus (s : State) (t : Nat) (x : Tile) : (s.setTile t x).focus = s.focus := rfl
@[simp] theorem State.setTile_agenda (s : State) (t : Nat) (x : Tile) : (s.setTile t x).agenda = s.agenda := rfl
@[simp] theorem State.setTile_turn (s : State) (t : Nat) (x : Tile) : (s.setTile t x).turn = s.turn := rfl
@[simp] theorem State.setTile_ctx (s : State) (t : Nat) (x : Tile) : (s.setTile t x).ctx = s.ctx := rfl
@[simp] theorem State.setTile_fresh (s : State) (t : Nat) (x : Tile) : (s.setTile t x).fresh = s.fresh := rfl

@[simp] theorem State.setGrove_mem (s : State) (g : Nat) (x : Grove) : (s.setGrove g x).mem = s.mem := rfl
@[simp] theorem State.setGrove_tiles (s : State) (g : Nat) (x : Grove) : (s.setGrove g x).tiles = s.tiles := rfl
@[simp] theorem State.setGrove_dies (s : State) (g : Nat) (x : Grove) : (s.setGrove g x).dies = s.dies := rfl
@[simp] theorem State.setGrove_hub (s : State) (g : Nat) (x : Grove) : (s.setGrove g x).hub = s.hub := rfl
@[simp] theorem State.setGrove_window (s : State) (g : Nat) (x : Grove) : (s.setGrove g x).window = s.window := rfl
@[simp] theorem State.setGrove_ports (s : State) (g : Nat) (x : Grove) : (s.setGrove g x).ports = s.ports := rfl
@[simp] theorem State.setGrove_cycle (s : State) (g : Nat) (x : Grove) : (s.setGrove g x).cycle = s.cycle := rfl
@[simp] theorem State.setGrove_focus (s : State) (g : Nat) (x : Grove) : (s.setGrove g x).focus = s.focus := rfl
@[simp] theorem State.setGrove_agenda (s : State) (g : Nat) (x : Grove) : (s.setGrove g x).agenda = s.agenda := rfl
@[simp] theorem State.setGrove_turn (s : State) (g : Nat) (x : Grove) : (s.setGrove g x).turn = s.turn := rfl
@[simp] theorem State.setGrove_ctx (s : State) (g : Nat) (x : Grove) : (s.setGrove g x).ctx = s.ctx := rfl
@[simp] theorem State.setGrove_fresh (s : State) (g : Nat) (x : Grove) : (s.setGrove g x).fresh = s.fresh := rfl

@[simp] theorem State.setDie_mem (s : State) (d : Nat) (x : Die) : (s.setDie d x).mem = s.mem := rfl
@[simp] theorem State.setDie_tiles (s : State) (d : Nat) (x : Die) : (s.setDie d x).tiles = s.tiles := rfl
@[simp] theorem State.setDie_groves (s : State) (d : Nat) (x : Die) : (s.setDie d x).groves = s.groves := rfl
@[simp] theorem State.setDie_hub (s : State) (d : Nat) (x : Die) : (s.setDie d x).hub = s.hub := rfl
@[simp] theorem State.setDie_window (s : State) (d : Nat) (x : Die) : (s.setDie d x).window = s.window := rfl
@[simp] theorem State.setDie_ports (s : State) (d : Nat) (x : Die) : (s.setDie d x).ports = s.ports := rfl
@[simp] theorem State.setDie_cycle (s : State) (d : Nat) (x : Die) : (s.setDie d x).cycle = s.cycle := rfl
@[simp] theorem State.setDie_focus (s : State) (d : Nat) (x : Die) : (s.setDie d x).focus = s.focus := rfl
@[simp] theorem State.setDie_agenda (s : State) (d : Nat) (x : Die) : (s.setDie d x).agenda = s.agenda := rfl
@[simp] theorem State.setDie_turn (s : State) (d : Nat) (x : Die) : (s.setDie d x).turn = s.turn := rfl
@[simp] theorem State.setDie_ctx (s : State) (d : Nat) (x : Die) : (s.setDie d x).ctx = s.ctx := rfl
@[simp] theorem State.setDie_fresh (s : State) (d : Nat) (x : Die) : (s.setDie d x).fresh = s.fresh := rfl

@[simp] theorem State.setPort_mem (s : State) (p : Nat) (x : Port) : (s.setPort p x).mem = s.mem := rfl
@[simp] theorem State.setPort_tiles (s : State) (p : Nat) (x : Port) : (s.setPort p x).tiles = s.tiles := rfl
@[simp] theorem State.setPort_groves (s : State) (p : Nat) (x : Port) : (s.setPort p x).groves = s.groves := rfl
@[simp] theorem State.setPort_dies (s : State) (p : Nat) (x : Port) : (s.setPort p x).dies = s.dies := rfl
@[simp] theorem State.setPort_hub (s : State) (p : Nat) (x : Port) : (s.setPort p x).hub = s.hub := rfl
@[simp] theorem State.setPort_window (s : State) (p : Nat) (x : Port) : (s.setPort p x).window = s.window := rfl
@[simp] theorem State.setPort_cycle (s : State) (p : Nat) (x : Port) : (s.setPort p x).cycle = s.cycle := rfl
@[simp] theorem State.setPort_focus (s : State) (p : Nat) (x : Port) : (s.setPort p x).focus = s.focus := rfl
@[simp] theorem State.setPort_agenda (s : State) (p : Nat) (x : Port) : (s.setPort p x).agenda = s.agenda := rfl
@[simp] theorem State.setPort_turn (s : State) (p : Nat) (x : Port) : (s.setPort p x).turn = s.turn := rfl
@[simp] theorem State.setPort_ctx (s : State) (p : Nat) (x : Port) : (s.setPort p x).ctx = s.ctx := rfl
@[simp] theorem State.setPort_fresh (s : State) (p : Nat) (x : Port) : (s.setPort p x).fresh = s.fresh := rfl

@[simp] theorem State.mapTile_mem (s : State) (t : Nat) (f : Tile → Tile) : (s.mapTile t f).mem = s.mem := rfl
@[simp] theorem State.mapTile_groves (s : State) (t : Nat) (f : Tile → Tile) : (s.mapTile t f).groves = s.groves := rfl
@[simp] theorem State.mapTile_dies (s : State) (t : Nat) (f : Tile → Tile) : (s.mapTile t f).dies = s.dies := rfl
@[simp] theorem State.mapTile_hub (s : State) (t : Nat) (f : Tile → Tile) : (s.mapTile t f).hub = s.hub := rfl
@[simp] theorem State.mapTile_window (s : State) (t : Nat) (f : Tile → Tile) : (s.mapTile t f).window = s.window := rfl
@[simp] theorem State.mapTile_ports (s : State) (t : Nat) (f : Tile → Tile) : (s.mapTile t f).ports = s.ports := rfl
@[simp] theorem State.mapTile_cycle (s : State) (t : Nat) (f : Tile → Tile) : (s.mapTile t f).cycle = s.cycle := rfl
@[simp] theorem State.mapTile_focus (s : State) (t : Nat) (f : Tile → Tile) : (s.mapTile t f).focus = s.focus := rfl
@[simp] theorem State.mapTile_agenda (s : State) (t : Nat) (f : Tile → Tile) : (s.mapTile t f).agenda = s.agenda := rfl
@[simp] theorem State.mapTile_turn (s : State) (t : Nat) (f : Tile → Tile) : (s.mapTile t f).turn = s.turn := rfl
@[simp] theorem State.mapTile_ctx (s : State) (t : Nat) (f : Tile → Tile) : (s.mapTile t f).ctx = s.ctx := rfl
@[simp] theorem State.mapTile_fresh (s : State) (t : Nat) (f : Tile → Tile) : (s.mapTile t f).fresh = s.fresh := rfl

@[simp] theorem State.mapGrove_mem (s : State) (g : Nat) (f : Grove → Grove) : (s.mapGrove g f).mem = s.mem := rfl
@[simp] theorem State.mapGrove_tiles (s : State) (g : Nat) (f : Grove → Grove) : (s.mapGrove g f).tiles = s.tiles := rfl
@[simp] theorem State.mapGrove_dies (s : State) (g : Nat) (f : Grove → Grove) : (s.mapGrove g f).dies = s.dies := rfl
@[simp] theorem State.mapGrove_hub (s : State) (g : Nat) (f : Grove → Grove) : (s.mapGrove g f).hub = s.hub := rfl
@[simp] theorem State.mapGrove_window (s : State) (g : Nat) (f : Grove → Grove) : (s.mapGrove g f).window = s.window := rfl
@[simp] theorem State.mapGrove_ports (s : State) (g : Nat) (f : Grove → Grove) : (s.mapGrove g f).ports = s.ports := rfl
@[simp] theorem State.mapGrove_cycle (s : State) (g : Nat) (f : Grove → Grove) : (s.mapGrove g f).cycle = s.cycle := rfl
@[simp] theorem State.mapGrove_focus (s : State) (g : Nat) (f : Grove → Grove) : (s.mapGrove g f).focus = s.focus := rfl
@[simp] theorem State.mapGrove_agenda (s : State) (g : Nat) (f : Grove → Grove) : (s.mapGrove g f).agenda = s.agenda := rfl
@[simp] theorem State.mapGrove_turn (s : State) (g : Nat) (f : Grove → Grove) : (s.mapGrove g f).turn = s.turn := rfl
@[simp] theorem State.mapGrove_ctx (s : State) (g : Nat) (f : Grove → Grove) : (s.mapGrove g f).ctx = s.ctx := rfl
@[simp] theorem State.mapGrove_fresh (s : State) (g : Nat) (f : Grove → Grove) : (s.mapGrove g f).fresh = s.fresh := rfl

@[simp] theorem State.mapDie_mem (s : State) (d : Nat) (f : Die → Die) : (s.mapDie d f).mem = s.mem := rfl
@[simp] theorem State.mapDie_tiles (s : State) (d : Nat) (f : Die → Die) : (s.mapDie d f).tiles = s.tiles := rfl
@[simp] theorem State.mapDie_groves (s : State) (d : Nat) (f : Die → Die) : (s.mapDie d f).groves = s.groves := rfl
@[simp] theorem State.mapDie_hub (s : State) (d : Nat) (f : Die → Die) : (s.mapDie d f).hub = s.hub := rfl
@[simp] theorem State.mapDie_window (s : State) (d : Nat) (f : Die → Die) : (s.mapDie d f).window = s.window := rfl
@[simp] theorem State.mapDie_ports (s : State) (d : Nat) (f : Die → Die) : (s.mapDie d f).ports = s.ports := rfl
@[simp] theorem State.mapDie_cycle (s : State) (d : Nat) (f : Die → Die) : (s.mapDie d f).cycle = s.cycle := rfl
@[simp] theorem State.mapDie_focus (s : State) (d : Nat) (f : Die → Die) : (s.mapDie d f).focus = s.focus := rfl
@[simp] theorem State.mapDie_agenda (s : State) (d : Nat) (f : Die → Die) : (s.mapDie d f).agenda = s.agenda := rfl
@[simp] theorem State.mapDie_turn (s : State) (d : Nat) (f : Die → Die) : (s.mapDie d f).turn = s.turn := rfl
@[simp] theorem State.mapDie_ctx (s : State) (d : Nat) (f : Die → Die) : (s.mapDie d f).ctx = s.ctx := rfl
@[simp] theorem State.mapDie_fresh (s : State) (d : Nat) (f : Die → Die) : (s.mapDie d f).fresh = s.fresh := rfl

@[simp] theorem State.setSeq_mem (s : State) (u : Agent) (q : Seq) : (s.setSeq u q).mem = s.mem := by cases u <;> rfl
@[simp] theorem State.setSeq_dies (s : State) (u : Agent) (q : Seq) : (s.setSeq u q).dies = s.dies := by cases u <;> rfl
@[simp] theorem State.setSeq_hub (s : State) (u : Agent) (q : Seq) : (s.setSeq u q).hub = s.hub := by cases u <;> rfl
@[simp] theorem State.setSeq_window (s : State) (u : Agent) (q : Seq) : (s.setSeq u q).window = s.window := by cases u <;> rfl
@[simp] theorem State.setSeq_ports (s : State) (u : Agent) (q : Seq) : (s.setSeq u q).ports = s.ports := by cases u <;> rfl
@[simp] theorem State.setSeq_cycle (s : State) (u : Agent) (q : Seq) : (s.setSeq u q).cycle = s.cycle := by cases u <;> rfl
@[simp] theorem State.setSeq_focus (s : State) (u : Agent) (q : Seq) : (s.setSeq u q).focus = s.focus := by cases u <;> rfl
@[simp] theorem State.setSeq_agenda (s : State) (u : Agent) (q : Seq) : (s.setSeq u q).agenda = s.agenda := by cases u <;> rfl
@[simp] theorem State.setSeq_turn (s : State) (u : Agent) (q : Seq) : (s.setSeq u q).turn = s.turn := by cases u <;> rfl
@[simp] theorem State.setSeq_ctx (s : State) (u : Agent) (q : Seq) : (s.setSeq u q).ctx = s.ctx := by cases u <;> rfl
@[simp] theorem State.setSeq_fresh (s : State) (u : Agent) (q : Seq) : (s.setSeq u q).fresh = s.fresh := by cases u <;> rfl

@[simp] theorem State.mapSeq_mem (s : State) (u : Agent) (f : Seq → Seq) : (s.mapSeq u f).mem = s.mem := by cases u <;> rfl
@[simp] theorem State.mapSeq_dies (s : State) (u : Agent) (f : Seq → Seq) : (s.mapSeq u f).dies = s.dies := by cases u <;> rfl
@[simp] theorem State.mapSeq_hub (s : State) (u : Agent) (f : Seq → Seq) : (s.mapSeq u f).hub = s.hub := by cases u <;> rfl
@[simp] theorem State.mapSeq_window (s : State) (u : Agent) (f : Seq → Seq) : (s.mapSeq u f).window = s.window := by cases u <;> rfl
@[simp] theorem State.mapSeq_ports (s : State) (u : Agent) (f : Seq → Seq) : (s.mapSeq u f).ports = s.ports := by cases u <;> rfl
@[simp] theorem State.mapSeq_cycle (s : State) (u : Agent) (f : Seq → Seq) : (s.mapSeq u f).cycle = s.cycle := by cases u <;> rfl
@[simp] theorem State.mapSeq_focus (s : State) (u : Agent) (f : Seq → Seq) : (s.mapSeq u f).focus = s.focus := by cases u <;> rfl
@[simp] theorem State.mapSeq_agenda (s : State) (u : Agent) (f : Seq → Seq) : (s.mapSeq u f).agenda = s.agenda := by cases u <;> rfl
@[simp] theorem State.mapSeq_turn (s : State) (u : Agent) (f : Seq → Seq) : (s.mapSeq u f).turn = s.turn := by cases u <;> rfl
@[simp] theorem State.mapSeq_ctx (s : State) (u : Agent) (f : Seq → Seq) : (s.mapSeq u f).ctx = s.ctx := by cases u <;> rfl
@[simp] theorem State.mapSeq_fresh (s : State) (u : Agent) (f : Seq → Seq) : (s.mapSeq u f).fresh = s.fresh := by cases u <;> rfl

@[simp] theorem State.markMoved_mem (s : State) (u : Agent) : (s.markMoved u).mem = s.mem := by cases u <;> rfl
@[simp] theorem State.markMoved_groves (s : State) (u : Agent) : (s.markMoved u).groves = s.groves := by cases u <;> rfl
@[simp] theorem State.markMoved_dies (s : State) (u : Agent) : (s.markMoved u).dies = s.dies := by cases u <;> rfl
@[simp] theorem State.markMoved_hub (s : State) (u : Agent) : (s.markMoved u).hub = s.hub := by cases u <;> rfl
@[simp] theorem State.markMoved_window (s : State) (u : Agent) : (s.markMoved u).window = s.window := by cases u <;> rfl
@[simp] theorem State.markMoved_ports (s : State) (u : Agent) : (s.markMoved u).ports = s.ports := by cases u <;> rfl
@[simp] theorem State.markMoved_cycle (s : State) (u : Agent) : (s.markMoved u).cycle = s.cycle := by cases u <;> rfl
@[simp] theorem State.markMoved_focus (s : State) (u : Agent) : (s.markMoved u).focus = s.focus := by cases u <;> rfl
@[simp] theorem State.markMoved_agenda (s : State) (u : Agent) : (s.markMoved u).agenda = s.agenda := by cases u <;> rfl
@[simp] theorem State.markMoved_turn (s : State) (u : Agent) : (s.markMoved u).turn = s.turn := by cases u <;> rfl
@[simp] theorem State.markMoved_ctx (s : State) (u : Agent) : (s.markMoved u).ctx = s.ctx := by cases u <;> rfl
@[simp] theorem State.markMoved_fresh (s : State) (u : Agent) : (s.markMoved u).fresh = s.fresh := by cases u <;> rfl

@[simp] theorem State.mapMx_mem (s : State) (t : Nat) (f : Matrix → Matrix) : (s.mapMx t f).mem = s.mem := rfl
@[simp] theorem State.mapMx_groves (s : State) (t : Nat) (f : Matrix → Matrix) : (s.mapMx t f).groves = s.groves := rfl
@[simp] theorem State.mapMx_dies (s : State) (t : Nat) (f : Matrix → Matrix) : (s.mapMx t f).dies = s.dies := rfl
@[simp] theorem State.mapMx_hub (s : State) (t : Nat) (f : Matrix → Matrix) : (s.mapMx t f).hub = s.hub := rfl
@[simp] theorem State.mapMx_window (s : State) (t : Nat) (f : Matrix → Matrix) : (s.mapMx t f).window = s.window := rfl
@[simp] theorem State.mapMx_ports (s : State) (t : Nat) (f : Matrix → Matrix) : (s.mapMx t f).ports = s.ports := rfl
@[simp] theorem State.mapMx_cycle (s : State) (t : Nat) (f : Matrix → Matrix) : (s.mapMx t f).cycle = s.cycle := rfl
@[simp] theorem State.mapMx_focus (s : State) (t : Nat) (f : Matrix → Matrix) : (s.mapMx t f).focus = s.focus := rfl
@[simp] theorem State.mapMx_agenda (s : State) (t : Nat) (f : Matrix → Matrix) : (s.mapMx t f).agenda = s.agenda := rfl
@[simp] theorem State.mapMx_turn (s : State) (t : Nat) (f : Matrix → Matrix) : (s.mapMx t f).turn = s.turn := rfl
@[simp] theorem State.mapMx_ctx (s : State) (t : Nat) (f : Matrix → Matrix) : (s.mapMx t f).ctx = s.ctx := rfl
@[simp] theorem State.mapMx_fresh (s : State) (t : Nat) (f : Matrix → Matrix) : (s.mapMx t f).fresh = s.fresh := rfl

@[simp] theorem State.mapHub_mem (s : State) (f : Hub → Hub) : (s.mapHub f).mem = s.mem := rfl
@[simp] theorem State.mapHub_tiles (s : State) (f : Hub → Hub) : (s.mapHub f).tiles = s.tiles := rfl
@[simp] theorem State.mapHub_groves (s : State) (f : Hub → Hub) : (s.mapHub f).groves = s.groves := rfl
@[simp] theorem State.mapHub_dies (s : State) (f : Hub → Hub) : (s.mapHub f).dies = s.dies := rfl
@[simp] theorem State.mapHub_window (s : State) (f : Hub → Hub) : (s.mapHub f).window = s.window := rfl
@[simp] theorem State.mapHub_ports (s : State) (f : Hub → Hub) : (s.mapHub f).ports = s.ports := rfl
@[simp] theorem State.mapHub_cycle (s : State) (f : Hub → Hub) : (s.mapHub f).cycle = s.cycle := rfl
@[simp] theorem State.mapHub_focus (s : State) (f : Hub → Hub) : (s.mapHub f).focus = s.focus := rfl
@[simp] theorem State.mapHub_agenda (s : State) (f : Hub → Hub) : (s.mapHub f).agenda = s.agenda := rfl
@[simp] theorem State.mapHub_turn (s : State) (f : Hub → Hub) : (s.mapHub f).turn = s.turn := rfl
@[simp] theorem State.mapHub_ctx (s : State) (f : Hub → Hub) : (s.mapHub f).ctx = s.ctx := rfl
@[simp] theorem State.mapHub_fresh (s : State) (f : Hub → Hub) : (s.mapHub f).fresh = s.fresh := rfl

@[simp] theorem State.write_tiles (s : State) (a : Nat) (bs : List Byte) : (s.write a bs).tiles = s.tiles := rfl
@[simp] theorem State.write_groves (s : State) (a : Nat) (bs : List Byte) : (s.write a bs).groves = s.groves := rfl
@[simp] theorem State.write_dies (s : State) (a : Nat) (bs : List Byte) : (s.write a bs).dies = s.dies := rfl
@[simp] theorem State.write_hub (s : State) (a : Nat) (bs : List Byte) : (s.write a bs).hub = s.hub := rfl
@[simp] theorem State.write_window (s : State) (a : Nat) (bs : List Byte) : (s.write a bs).window = s.window := rfl
@[simp] theorem State.write_ports (s : State) (a : Nat) (bs : List Byte) : (s.write a bs).ports = s.ports := rfl
@[simp] theorem State.write_cycle (s : State) (a : Nat) (bs : List Byte) : (s.write a bs).cycle = s.cycle := rfl
@[simp] theorem State.write_focus (s : State) (a : Nat) (bs : List Byte) : (s.write a bs).focus = s.focus := rfl
@[simp] theorem State.write_agenda (s : State) (a : Nat) (bs : List Byte) : (s.write a bs).agenda = s.agenda := rfl
@[simp] theorem State.write_turn (s : State) (a : Nat) (bs : List Byte) : (s.write a bs).turn = s.turn := rfl
@[simp] theorem State.write_ctx (s : State) (a : Nat) (bs : List Byte) : (s.write a bs).ctx = s.ctx := rfl
@[simp] theorem State.write_fresh (s : State) (a : Nat) (bs : List Byte) : (s.write a bs).fresh = s.fresh := rfl

@[simp] theorem State.writeNat_tiles (s : State) (a n v : Nat) : (s.writeNat a n v).tiles = s.tiles := rfl
@[simp] theorem State.writeNat_groves (s : State) (a n v : Nat) : (s.writeNat a n v).groves = s.groves := rfl
@[simp] theorem State.writeNat_dies (s : State) (a n v : Nat) : (s.writeNat a n v).dies = s.dies := rfl
@[simp] theorem State.writeNat_hub (s : State) (a n v : Nat) : (s.writeNat a n v).hub = s.hub := rfl
@[simp] theorem State.writeNat_window (s : State) (a n v : Nat) : (s.writeNat a n v).window = s.window := rfl
@[simp] theorem State.writeNat_ports (s : State) (a n v : Nat) : (s.writeNat a n v).ports = s.ports := rfl
@[simp] theorem State.writeNat_cycle (s : State) (a n v : Nat) : (s.writeNat a n v).cycle = s.cycle := rfl
@[simp] theorem State.writeNat_focus (s : State) (a n v : Nat) : (s.writeNat a n v).focus = s.focus := rfl
@[simp] theorem State.writeNat_agenda (s : State) (a n v : Nat) : (s.writeNat a n v).agenda = s.agenda := rfl
@[simp] theorem State.writeNat_turn (s : State) (a n v : Nat) : (s.writeNat a n v).turn = s.turn := rfl
@[simp] theorem State.writeNat_ctx (s : State) (a n v : Nat) : (s.writeNat a n v).ctx = s.ctx := rfl
@[simp] theorem State.writeNat_fresh (s : State) (a n v : Nat) : (s.writeNat a n v).fresh = s.fresh := rfl

@[simp] theorem State.setPresent_tiles (s : State) (a : Nat) : (s.setPresent a).tiles = s.tiles := rfl
@[simp] theorem State.setPresent_groves (s : State) (a : Nat) : (s.setPresent a).groves = s.groves := rfl
@[simp] theorem State.setPresent_dies (s : State) (a : Nat) : (s.setPresent a).dies = s.dies := rfl
@[simp] theorem State.setPresent_hub (s : State) (a : Nat) : (s.setPresent a).hub = s.hub := rfl
@[simp] theorem State.setPresent_window (s : State) (a : Nat) : (s.setPresent a).window = s.window := rfl
@[simp] theorem State.setPresent_ports (s : State) (a : Nat) : (s.setPresent a).ports = s.ports := rfl
@[simp] theorem State.setPresent_cycle (s : State) (a : Nat) : (s.setPresent a).cycle = s.cycle := rfl
@[simp] theorem State.setPresent_focus (s : State) (a : Nat) : (s.setPresent a).focus = s.focus := rfl
@[simp] theorem State.setPresent_agenda (s : State) (a : Nat) : (s.setPresent a).agenda = s.agenda := rfl
@[simp] theorem State.setPresent_turn (s : State) (a : Nat) : (s.setPresent a).turn = s.turn := rfl
@[simp] theorem State.setPresent_ctx (s : State) (a : Nat) : (s.setPresent a).ctx = s.ctx := rfl
@[simp] theorem State.setPresent_fresh (s : State) (a : Nat) : (s.setPresent a).fresh = s.fresh := rfl

@[simp] theorem State.clearPresent_tiles (s : State) (as : List Nat) : (s.clearPresent as).tiles = s.tiles := rfl
@[simp] theorem State.clearPresent_groves (s : State) (as : List Nat) : (s.clearPresent as).groves = s.groves := rfl
@[simp] theorem State.clearPresent_dies (s : State) (as : List Nat) : (s.clearPresent as).dies = s.dies := rfl
@[simp] theorem State.clearPresent_hub (s : State) (as : List Nat) : (s.clearPresent as).hub = s.hub := rfl
@[simp] theorem State.clearPresent_window (s : State) (as : List Nat) : (s.clearPresent as).window = s.window := rfl
@[simp] theorem State.clearPresent_ports (s : State) (as : List Nat) : (s.clearPresent as).ports = s.ports := rfl
@[simp] theorem State.clearPresent_cycle (s : State) (as : List Nat) : (s.clearPresent as).cycle = s.cycle := rfl
@[simp] theorem State.clearPresent_focus (s : State) (as : List Nat) : (s.clearPresent as).focus = s.focus := rfl
@[simp] theorem State.clearPresent_agenda (s : State) (as : List Nat) : (s.clearPresent as).agenda = s.agenda := rfl
@[simp] theorem State.clearPresent_turn (s : State) (as : List Nat) : (s.clearPresent as).turn = s.turn := rfl
@[simp] theorem State.clearPresent_ctx (s : State) (as : List Nat) : (s.clearPresent as).ctx = s.ctx := rfl
@[simp] theorem State.clearPresent_fresh (s : State) (as : List Nat) : (s.clearPresent as).fresh = s.fresh := rfl

@[simp] theorem State.draw_mem (s : State) : (s.draw).mem = s.mem := rfl
@[simp] theorem State.draw_tiles (s : State) : (s.draw).tiles = s.tiles := rfl
@[simp] theorem State.draw_groves (s : State) : (s.draw).groves = s.groves := rfl
@[simp] theorem State.draw_dies (s : State) : (s.draw).dies = s.dies := rfl
@[simp] theorem State.draw_hub (s : State) : (s.draw).hub = s.hub := rfl
@[simp] theorem State.draw_window (s : State) : (s.draw).window = s.window := rfl
@[simp] theorem State.draw_ports (s : State) : (s.draw).ports = s.ports := rfl
@[simp] theorem State.draw_cycle (s : State) : (s.draw).cycle = s.cycle := rfl
@[simp] theorem State.draw_focus (s : State) : (s.draw).focus = s.focus := rfl
@[simp] theorem State.draw_agenda (s : State) : (s.draw).agenda = s.agenda := rfl
@[simp] theorem State.draw_turn (s : State) : (s.draw).turn = s.turn := rfl
@[simp] theorem State.draw_ctx (s : State) : (s.draw).ctx = s.ctx := rfl

@[simp] theorem State.accept_mem (s : State) : (s.accept).mem = s.mem := State.mapSeq_mem _ _ _
@[simp] theorem State.accept_dies (s : State) : (s.accept).dies = s.dies := State.mapSeq_dies _ _ _
@[simp] theorem State.accept_hub (s : State) : (s.accept).hub = s.hub := State.mapSeq_hub _ _ _
@[simp] theorem State.accept_window (s : State) : (s.accept).window = s.window := State.mapSeq_window _ _ _
@[simp] theorem State.accept_ports (s : State) : (s.accept).ports = s.ports := State.mapSeq_ports _ _ _
@[simp] theorem State.accept_cycle (s : State) : (s.accept).cycle = s.cycle := State.mapSeq_cycle _ _ _
@[simp] theorem State.accept_focus (s : State) : (s.accept).focus = s.focus := State.mapSeq_focus _ _ _
@[simp] theorem State.accept_agenda (s : State) : (s.accept).agenda = s.agenda := State.mapSeq_agenda _ _ _
@[simp] theorem State.accept_turn (s : State) : (s.accept).turn = s.turn := State.mapSeq_turn _ _ _
@[simp] theorem State.accept_ctx (s : State) : (s.accept).ctx = s.ctx := State.mapSeq_ctx _ _ _
@[simp] theorem State.accept_fresh (s : State) : (s.accept).fresh = s.fresh := State.mapSeq_fresh _ _ _

@[simp] theorem State.raise_mem (s : State) (u : Agent) (c : BitVec 8) (i : Word) (k : Nat) : (s.raise u c i k).mem = s.mem := State.mapSeq_mem _ _ _
@[simp] theorem State.raise_dies (s : State) (u : Agent) (c : BitVec 8) (i : Word) (k : Nat) : (s.raise u c i k).dies = s.dies := State.mapSeq_dies _ _ _
@[simp] theorem State.raise_hub (s : State) (u : Agent) (c : BitVec 8) (i : Word) (k : Nat) : (s.raise u c i k).hub = s.hub := State.mapSeq_hub _ _ _
@[simp] theorem State.raise_window (s : State) (u : Agent) (c : BitVec 8) (i : Word) (k : Nat) : (s.raise u c i k).window = s.window := State.mapSeq_window _ _ _
@[simp] theorem State.raise_ports (s : State) (u : Agent) (c : BitVec 8) (i : Word) (k : Nat) : (s.raise u c i k).ports = s.ports := State.mapSeq_ports _ _ _
@[simp] theorem State.raise_cycle (s : State) (u : Agent) (c : BitVec 8) (i : Word) (k : Nat) : (s.raise u c i k).cycle = s.cycle := State.mapSeq_cycle _ _ _
@[simp] theorem State.raise_focus (s : State) (u : Agent) (c : BitVec 8) (i : Word) (k : Nat) : (s.raise u c i k).focus = s.focus := State.mapSeq_focus _ _ _
@[simp] theorem State.raise_agenda (s : State) (u : Agent) (c : BitVec 8) (i : Word) (k : Nat) : (s.raise u c i k).agenda = s.agenda := State.mapSeq_agenda _ _ _
@[simp] theorem State.raise_turn (s : State) (u : Agent) (c : BitVec 8) (i : Word) (k : Nat) : (s.raise u c i k).turn = s.turn := State.mapSeq_turn _ _ _
@[simp] theorem State.raise_ctx (s : State) (u : Agent) (c : BitVec 8) (i : Word) (k : Nat) : (s.raise u c i k).ctx = s.ctx := State.mapSeq_ctx _ _ _
@[simp] theorem State.raise_fresh (s : State) (u : Agent) (c : BitVec 8) (i : Word) (k : Nat) : (s.raise u c i k).fresh = s.fresh := State.mapSeq_fresh _ _ _

@[simp] theorem State.arrive_mem (s : State) (t n : Nat) (c : BitVec 8) (i : BitVec 16) : (s.arrive t n c i).mem = s.mem := rfl
@[simp] theorem State.arrive_groves (s : State) (t n : Nat) (c : BitVec 8) (i : BitVec 16) : (s.arrive t n c i).groves = s.groves := rfl
@[simp] theorem State.arrive_dies (s : State) (t n : Nat) (c : BitVec 8) (i : BitVec 16) : (s.arrive t n c i).dies = s.dies := rfl
@[simp] theorem State.arrive_hub (s : State) (t n : Nat) (c : BitVec 8) (i : BitVec 16) : (s.arrive t n c i).hub = s.hub := rfl
@[simp] theorem State.arrive_window (s : State) (t n : Nat) (c : BitVec 8) (i : BitVec 16) : (s.arrive t n c i).window = s.window := rfl
@[simp] theorem State.arrive_ports (s : State) (t n : Nat) (c : BitVec 8) (i : BitVec 16) : (s.arrive t n c i).ports = s.ports := rfl
@[simp] theorem State.arrive_cycle (s : State) (t n : Nat) (c : BitVec 8) (i : BitVec 16) : (s.arrive t n c i).cycle = s.cycle := rfl
@[simp] theorem State.arrive_focus (s : State) (t n : Nat) (c : BitVec 8) (i : BitVec 16) : (s.arrive t n c i).focus = s.focus := rfl
@[simp] theorem State.arrive_agenda (s : State) (t n : Nat) (c : BitVec 8) (i : BitVec 16) : (s.arrive t n c i).agenda = s.agenda := rfl
@[simp] theorem State.arrive_turn (s : State) (t n : Nat) (c : BitVec 8) (i : BitVec 16) : (s.arrive t n c i).turn = s.turn := rfl
@[simp] theorem State.arrive_ctx (s : State) (t n : Nat) (c : BitVec 8) (i : BitVec 16) : (s.arrive t n c i).ctx = s.ctx := rfl
@[simp] theorem State.arrive_fresh (s : State) (t n : Nat) (c : BitVec 8) (i : BitVec 16) : (s.arrive t n c i).fresh = s.fresh := rfl

/-! ### Reading parts back -/

@[simp] theorem State.tile_setTile (s : State) (t : Nat) (x : Tile) : (s.setTile t x).tile t = x := KMap.get_put_same _ _ _ _
theorem State.tile_setTile_ne (s : State) {t n : Nat} (x : Tile) (h : n ≠ t) : (s.setTile t x).tile n = s.tile n := KMap.get_put_ne _ _ _ h
@[simp] theorem State.tile_mapTile (s : State) (t : Nat) (f : Tile → Tile) : (s.mapTile t f).tile t = f (s.tile t) := KMap.get_put_same _ _ _ _
theorem State.tile_mapTile_ne (s : State) {t n : Nat} (f : Tile → Tile) (h : n ≠ t) : (s.mapTile t f).tile n = s.tile n := KMap.get_put_ne _ _ _ h
@[simp] theorem State.grove_setGrove (s : State) (g : Nat) (x : Grove) : (s.setGrove g x).grove g = x := KMap.get_put_same _ _ _ _
theorem State.grove_setGrove_ne (s : State) {g n : Nat} (x : Grove) (h : n ≠ g) : (s.setGrove g x).grove n = s.grove n := KMap.get_put_ne _ _ _ h
@[simp] theorem State.grove_mapGrove (s : State) (g : Nat) (f : Grove → Grove) : (s.mapGrove g f).grove g = f (s.grove g) := KMap.get_put_same _ _ _ _
theorem State.grove_mapGrove_ne (s : State) {g n : Nat} (f : Grove → Grove) (h : n ≠ g) : (s.mapGrove g f).grove n = s.grove n := KMap.get_put_ne _ _ _ h
@[simp] theorem State.die_setDie (s : State) (d : Nat) (x : Die) : (s.setDie d x).die d = x := KMap.get_put_same _ _ _ _
@[simp] theorem State.die_mapDie (s : State) (d : Nat) (f : Die → Die) : (s.mapDie d f).die d = f (s.die d) := KMap.get_put_same _ _ _ _
@[simp] theorem State.port_setPort (s : State) (p : Nat) (x : Port) : (s.setPort p x).port p = x := KMap.get_put_same _ _ _ _
@[simp] theorem State.grove_setTile (s : State) (t g : Nat) (x : Tile) : (s.setTile t x).grove g = s.grove g := rfl
@[simp] theorem State.die_setTile (s : State) (t d : Nat) (x : Tile) : (s.setTile t x).die d = s.die d := rfl
@[simp] theorem State.tile_setGrove (s : State) (g t : Nat) (x : Grove) : (s.setGrove g x).tile t = s.tile t := rfl
@[simp] theorem State.die_setGrove (s : State) (g d : Nat) (x : Grove) : (s.setGrove g x).die d = s.die d := rfl

/-- The later of two writes of a part stands. -/
@[simp] theorem State.setTile_setTile (s : State) (t : Nat) (x y : Tile) : (s.setTile t x).setTile t y = s.setTile t y := by
  simp [State.setTile]
@[simp] theorem State.setGrove_setGrove (s : State) (g : Nat) (x y : Grove) : (s.setGrove g x).setGrove g y = s.setGrove g y := by
  simp [State.setGrove]

@[simp] theorem State.seqOf_setSeq (s : State) (u : Agent) (q : Seq) : (s.setSeq u q).seqOf u = q := by
  cases u <;> simp [State.seqOf, State.setSeq]
theorem State.seqOf_setSeq_ne (s : State) {u v : Agent} (q : Seq) (h : v ≠ u) : (s.setSeq u q).seqOf v = s.seqOf v := by
  cases u <;> cases v <;> simp only [State.seqOf, State.setSeq, State.grove_setTile, State.tile_setGrove]
  · rw [State.tile_setTile_ne _ _ (fun e => h (by rw [e]))]
  · rw [State.grove_setGrove_ne _ _ (fun e => h (by rw [e]))]
@[simp] theorem State.setSeq_setSeq (s : State) (u : Agent) (p q : Seq) : (s.setSeq u p).setSeq u q = s.setSeq u q := by
  cases u <;> simp [State.setSeq]
theorem State.mapSeq_eq (s : State) (u : Agent) (f : Seq → Seq) : s.mapSeq u f = s.setSeq u (f (s.seqOf u)) := rfl
@[simp] theorem State.seqOf_mapSeq (s : State) (u : Agent) (f : Seq → Seq) : (s.mapSeq u f).seqOf u = f (s.seqOf u) :=
  State.seqOf_setSeq _ _ _
@[simp] theorem State.tile_setSeq_seq (s : State) (t : Nat) (q : Seq) : ((s.setSeq (.tile t) q).tile t).seq = q :=
  State.seqOf_setSeq s (.tile t) q
/-- A sequencer's update leaves every geometry alone. -/
@[simp] theorem State.tile_setSeq_g (s : State) (u : Agent) (q : Seq) (n : Nat) : ((s.setSeq u q).tile n).g = (s.tile n).g := by
  cases u with
  | seq g => rfl
  | tile t =>
    by_cases h : n = t
    · subst h; simp [State.setSeq]
    · simp only [State.setSeq]; rw [State.tile_setTile_ne _ _ h]

end Sys2Proof.Machine
end

