-- ==== Sys2Proof/Laws/Ops.lean ====
section
/-!
SUPPORT. What the shared operations do, said once each: a word at dispatch, results and held results, a word that leaves its queue, requests, and the
operations that leave the bytes of memory alone.
-/
namespace Sys2Proof.Machine

/-! ### Words -/

/-- A word at dispatch does nothing where its predicate is false, traps at its bundle where it faults, and acts otherwise. -/
theorem atDispatch_cases (i : Instr) (h : Hdr) (s : State) (act : State → State) :
    (s.cur.holds h = false ∧ atDispatch i h s act = .next s) ∨
    (s.cur.holds h = true ∧ ∃ c v, dispatchFault s i = some (c, v) ∧ atDispatch i h s act = .next (s.takeTrap s.focus c s.ctx.pc v)) ∨
    (s.cur.holds h = true ∧ dispatchFault s i = none ∧ atDispatch i h s act = .next (act s)) := by
  unfold atDispatch
  cases (s.seqOf s.focus).holds h
  · exact .inl ⟨rfl, rfl⟩
  · cases dispatchFault s i with
    | none => exact .inr (.inr ⟨rfl, rfl, rfl⟩)
    | some f => exact .inr (.inl ⟨rfl, f.1, f.2, rfl, rfl⟩)

theorem atDispatch_idle {i : Instr} {h : Hdr} {s : State} {act : State → State} (hh : s.cur.holds h = false) :
    atDispatch i h s act = .next s := by
  unfold atDispatch; rw [if_neg]; simpa [State.cur] using hh

theorem atDispatch_acts {i : Instr} {h : Hdr} {s : State} {act : State → State} (hh : s.cur.holds h = true)
    (hf : dispatchFault s i = none) : atDispatch i h s act = .next (act s) := by
  unfold atDispatch; rw [if_pos hh, hf]

theorem atDispatch_traps {i : Instr} {h : Hdr} {s : State} {act : State → State} {c : BitVec 8} {v : Word} (hh : s.cur.holds h = true)
    (hf : dispatchFault s i = some (c, v)) : atDispatch i h s act = .next (s.takeTrap s.focus c s.ctx.pc v) := by
  unfold atDispatch; rw [if_pos hh, hf]

/-- Only `s0` is a destination that discards. -/
theorem destOf_zero (d : BitVec 6) : (destOf d = .s 0 ∨ destOf d = .q 0) ↔ d = 0 := by
  simp only [destOf]
  constructor
  · intro h
    split at h
    · rcases h with h | h
      · exact BitVec.eq_of_toNat_eq (by simpa using Dest.s.inj h)
      · cases h
    · rcases h with h | h <;> cases h
  · rintro rfl; simp

/-- A result lands at its register, and one for `s0` is dropped. -/
theorem result64_eq (s : State) (d : BitVec 6) (v : Word) (l : Nat) :
    s.result64 d v l = if d = 0 then s else s.landing (destOf d) (v.setWidth 512) l := by
  unfold State.result64 State.result
  by_cases hd : d = 0
  · rw [if_pos ((destOf_zero d).mpr hd), if_pos hd]
  · rw [if_neg (fun e => hd ((destOf_zero d).mp e)), if_neg hd]; rfl

/-- A result for any register but `s0` and `q0` is scheduled. -/
theorem result_eq (s : State) (d : Dest) (v : Vec) (l : Nat) (h : ¬(d = .s 0 ∨ d = .q 0)) : s.result d v l = s.landing d v l := by
  unfold State.result; rw [if_neg h]; rfl

/-- A late writer's result is held. -/
theorem late_eq (s : State) (d : BitVec 6) (v : Word) : s.late d v = s.holding d v := by
  unfold State.late State.holding destOf State.mapSeq; rfl

/-- The head of the context's queue is gone. -/
theorem accept_eq (s : State) : s.accept = s.accepted := rfl

/-- A trap is added to those the focus unit has found. -/
theorem raise_eq (s : State) (c : BitVec 8) (v : Word) (k : Nat) : s.raise s.focus c v k = s.finding c v k := rfl

/-- A queued word that traps leaves its queue. -/
theorem issueTrap_eq (s : State) (c : BitVec 8) (n : Nat) : s.issueTrap c n = s.refusing c n := by
  have hf : s.accepted.focus = s.focus := State.setSeq_focus _ _ _
  unfold State.issueTrap State.refusing
  simp only [State.cur, hf]
  rfl

/-- A request of slot A stands last among its unit's requests, with the number of its bundle. -/
theorem request_eq (s : State) (r : Req) :
    s.request r = s.setSeq s.focus { s.cur with reqs := s.cur.reqs ++ [{ r with num := s.ctx.num }] } := rfl

@[simp] theorem request_mem (s : State) (r : Req) : (s.request r).mem = s.mem := State.mapSeq_mem _ _ _

/-- An operation of a list of tiles whose every step keeps the memory keeps it. -/
theorem foldl_mem {α : Type} {f : State → α → State} (l : List α) (s : State) (h : ∀ z a, (f z a).mem = z.mem) :
    (l.foldl f s).mem = s.mem := by
  induction l generalizing s with
  | nil => rfl
  | cons a t ih => exact (ih _).trans (h _ _)

/-- An operation of a list of tiles whose every step keeps the bytes of memory keeps them. -/
theorem foldl_bytes {α : Type} {f : State → α → State} (l : List α) (s : State) (h : ∀ z a, (f z a).mem.bytes = z.mem.bytes) :
    (l.foldl f s).mem.bytes = s.mem.bytes := by
  induction l generalizing s with
  | nil => rfl
  | cons a t ih => exact (ih _).trans (h _ _)

/-! ### Operations that leave the bytes of memory alone -/

@[simp] theorem postEvent_mem (s : State) (g : Nat) (e : EvRecord) : (s.postEvent g e).mem = s.mem := rfl
@[simp] theorem postTile_mem (s : State) (t k c i d : Nat) (w : Word) : (s.postTile t k c i d w).mem = s.mem := rfl
@[simp] theorem hostEvent_mem (s : State) (p : Nat) (e : HostEvent) : (s.hostEvent p e).mem = s.mem := rfl
@[simp] theorem faultPart_mem (s : State) (p : Nat) (e : BitVec 256) (c : BitVec 8) : (s.faultPart p e c).mem = s.mem := rfl

@[simp] theorem faultPartition_mem (s : State) (g : Nat) (c : BitVec 8) : (s.faultPartition g c).mem = s.mem := by
  unfold State.faultPartition; split <;> rfl

@[simp] theorem abortGang_mem (s : State) (d g a b c : Nat) : (s.abortGang d g a b c).mem = s.mem := by
  unfold State.abortGang
  split
  · rfl
  · exact foldl_mem _ _ (fun z t => by dsimp only [State.arrive_mem]; repeat' split
                                       all_goals rfl)

@[simp] theorem stopTileRoutine_mem (s : State) (t c : Nat) : (s.stopTileRoutine t c).mem = s.mem := by
  unfold State.stopTileRoutine; split
  · rfl
  · split <;> simp

@[simp] theorem abortGangsOf_mem (s : State) (t c : Nat) : (s.abortGangsOf t c).mem = s.mem :=
  foldl_mem _ _ (fun z g => abortGang_mem z _ g _ _ _)

@[simp] theorem completeCmd_mem (s : State) (t h : Nat) (c : Cmd) : (s.completeCmd t h c).mem = s.mem := by
  unfold State.completeCmd State.dropCmd; dsimp only; repeat' split
  all_goals simp

@[simp] theorem killTaskCommands_mem (s : State) (t c : Nat) : (s.killTaskCommands t c).mem = s.mem := by
  unfold State.killTaskCommands; dsimp only; rw [State.mapTile_mem, foldl_mem (f := fun s (e : Nat × Cmd) => s.completeCmd t e.1 e.2) _ _ (fun z e => completeCmd_mem z t e.1 e.2)]; split
  all_goals split <;> simp

@[simp] theorem dropLog_bytes (s : State) (t : Nat) : (s.dropLog t).mem.bytes = s.mem.bytes := by
  unfold State.dropLog; split <;> rfl

@[simp] theorem endTask_bytes (s : State) (t : Nat) (st : TaskStatus) (c : BitVec 8) : (s.endTask t st c).mem.bytes = s.mem.bytes := by
  unfold State.endTask; split
  · rfl
  · split
    · rfl
    · simp [State.dropCommit]

@[simp] theorem rerunTask_bytes (s : State) (t : Nat) (st : TaskStatus) : (s.rerunTask t st).mem.bytes = s.mem.bytes := by
  unfold State.rerunTask; split
  · rfl
  · split
    · rfl
    · simp [State.dropCommit]

@[simp] theorem escalate_bytes (s : State) (t : Nat) : (s.escalate t).mem.bytes = s.mem.bytes := by
  unfold State.escalate; simp

@[simp] theorem takeTrap_bytes (s : State) (u : Agent) (c : BitVec 8) (pc : Nat) (v : Word) :
    (s.takeTrap u c pc v).mem.bytes = s.mem.bytes := by
  unfold State.takeTrap; dsimp only; split
  · simp
  · cases u <;> simp [State.stopSequencer]

@[simp] theorem takeEscalation_bytes (s : State) (t : Nat) (c : BitVec 8) : (s.takeEscalation t c).mem.bytes = s.mem.bytes := by
  unfold State.takeEscalation; simp

@[simp] theorem thaw_mem (s : State) (t : Nat) (r : Bool) : (s.thaw t r).mem = s.mem :=
  foldl_mem (f := fun s m => s.mapTile m _) _ _ (fun z m => rfl)

@[simp] theorem endFreeze_mem (s : State) (t : Nat) : (s.endFreeze t).mem = s.mem := by
  unfold State.endFreeze; split
  · rfl
  · split
    · simp
    · exact foldl_mem _ _ (fun z m => rfl)

@[simp] theorem thawIfFree_mem (s : State) (t : Nat) : (s.thawIfFree t).mem = s.mem := by
  unfold State.thawIfFree; split
  · rfl
  · split
    · rfl
    · dsimp only; split <;> simp

@[simp] theorem abortTask_bytes (s : State) (t : Nat) (st : TaskStatus) (c : BitVec 8) : (s.abortTask t st c).mem.bytes = s.mem.bytes := by
  unfold State.abortTask; split
  · rfl
  · split <;> simp

@[simp] theorem retryTask_bytes (s : State) (t : Nat) (st : TaskStatus) : (s.retryTask t st).mem.bytes = s.mem.bytes := by
  unfold State.retryTask; simp

@[simp] theorem softMember_bytes (s : State) (t : Nat) : (s.softMember t).mem.bytes = s.mem.bytes := by
  unfold State.softMember; dsimp only; split
  · rfl
  · split
    · simp
    · split <;> simp

@[simp] theorem softMembers_bytes (s : State) (ms : List Nat) : (s.softMembers ms).mem.bytes = s.mem.bytes := by
  have h (z : State) : (ms.foldl (fun s m => s.abortGangsOf m 0x13) z).mem = z.mem := foldl_mem _ _ (fun z m => abortGangsOf_mem z m _)
  unfold State.softMembers
  rw [h, foldl_bytes _ _ softMember_bytes]

/-- A detected error leaves the bytes of memory alone, whatever tasks it aborts. -/
@[simp] theorem softError_bytes (s : State) (t : Nat) : (s.softError t).mem.bytes = s.mem.bytes := by
  have h : ((s.regionMates t).foldl (fun s m => s.abortGangsOf m 0x13) s).mem = s.mem := foldl_mem _ _ (fun z m => abortGangsOf_mem z m _)
  unfold State.softError; dsimp only; split
  · exact softMembers_bytes s _
  · split <;> simp [h]

@[simp] theorem chargeParity_bytes (s : State) (t : Nat) : (s.chargeParity t).mem.bytes = s.mem.bytes := by
  unfold State.chargeParity; split <;> simp

end Sys2Proof.Machine
end

