-- ==== Sys2Proof/Laws/PerInstr.lean ====
section
/-!
SUPPORT. One lemma for each constructor of `Instr`: the word an instruction is encoded as carries the opcode that the maps of
R146 to R151 and R248 give its row, and what has no word has no opcode.
-/
namespace Sys2Proof.Laws

/-- The opcode of an instruction's row: a slot word's bits 30 to 24 (R138), a microword's bits 31 to 26 counted from 0x100
(R156). -/
def codeOf (i : Instr) : Option Nat :=
  match i with
  | .bundleDispatch => none
  | .scoreboardReply _ => none
  | .trapEntry => none
  | .uiEntry => none
  | .preemptLanding => none
  | .forcedSave => none
  | .firebreakForward _ _ => none
  | .contextSave _ => none
  | .parityErrorAbort _ => none
  | .headerFiring _ _ => none
  | .opSteer _ _ => none
  | .opMerge _ _ => none
  | .opCarry _ _ => none
  | .opRepeat _ _ => none
  | .opSink _ _ => none
  | .opGate _ _ => none
  | .elPass _ _ => none
  | .iadd _ _ => none
  | .isub _ _ => none
  | .iadds _ _ => none
  | .isubs _ _ => none
  | .imul _ _ => none
  | .imulh _ _ => none
  | .imac _ _ => none
  | .idot4 _ _ => none
  | .imin _ _ => none
  | .imax _ _ => none
  | .iabs _ _ => none
  | .ineg _ _ => none
  | .iclip _ _ => none
  | .ishl _ _ => none
  | .ishr _ _ => none
  | .isra _ _ => none
  | .iand _ _ => none
  | .ior _ _ => none
  | .ixor _ _ => none
  | .inot _ _ => none
  | .icmp _ _ => none
  | .iscale _ _ => none
  | .fadd _ _ => none
  | .fsub _ _ => none
  | .fmul _ _ => none
  | .fma _ _ => none
  | .fnma _ _ => none
  | .fmin _ _ => none
  | .fmax _ _ => none
  | .fabs _ _ => none
  | .fneg _ _ => none
  | .fcmp _ _ => none
  | .frcp _ _ => none
  | .frsq _ _ => none
  | .fexp2 _ _ => none
  | .flog2 _ _ => none
  | .ftanh _ _ => none
  | .fsig _ _ => none
  | .fsilu _ _ => none
  | .faddC2 _ _ => none
  | .fmaC2 _ _ => none
  | .cvt _ _ => none
  | .cvtSc _ _ => none
  | .qrnd _ _ => none
  | .elementSel _ _ => none
  | .lperm _ _ => none
  | .lbcast _ _ => none
  | .lred _ _ => none
  | .lscan _ _ => none
  | .racc _ _ => none
  | .elCnt _ _ => none
  | .cmask _ _ => none
  | .tagck _ _ => none
  | .tagset _ _ => none
  | .nop => some 0x1
  | .nopY => some 0x1
  | .ext _ => some 0x7f
  | .add _ _ _ _ => some 0x2
  | .sub _ _ _ _ => some 0x3
  | .addi _ _ _ _ => some 0x4
  | .mul _ _ _ _ => some 0x5
  | .mulh _ _ _ _ => some 0x6
  | .mulhn _ _ _ _ => some 0x7
  | .and _ _ _ _ => some 0x8
  | .or _ _ _ _ => some 0x9
  | .xor _ _ _ _ => some 0xa
  | .andn _ _ _ _ => some 0xb
  | .shl _ _ _ _ => some 0xc
  | .shr _ _ _ _ => some 0xd
  | .sra _ _ _ _ => some 0xe
  | .shli _ _ _ _ => some 0xf
  | .shri _ _ _ _ => some 0x10
  | .srai _ _ _ _ => some 0x11
  | .min _ _ _ _ => some 0x12
  | .max _ _ _ _ => some 0x13
  | .minn _ _ _ _ => some 0x14
  | .maxn _ _ _ _ => some 0x15
  | .clz _ _ _ => some 0x16
  | .popc _ _ _ => some 0x17
  | .sext _ _ _ _ => some 0x18
  | .zext _ _ _ _ => some 0x19
  | .li _ _ _ => some 0x1a
  | .mov _ _ _ => some 0x1b
  | .cmp _ _ _ _ _ => some 0x1c
  | .cmpi _ _ _ _ _ => some 0x1d
  | .sel _ _ _ _ _ => some 0x1e
  | .qop _ _ _ _ _ => some 0x1f
  | .ld _ _ _ _ _ => some 0x30
  | .ldn _ _ _ _ _ => some 0x31
  | .st _ _ _ _ _ => some 0x32
  | .ldg _ _ _ _ _ => some 0x33
  | .ldgn _ _ _ _ _ => some 0x34
  | .stg _ _ _ _ _ => some 0x35
  | .amoAdd _ _ _ _ _ => some 0x38
  | .amoMin _ _ _ _ _ => some 0x39
  | .amoMax _ _ _ _ _ => some 0x3a
  | .amoAnd _ _ _ _ _ => some 0x3b
  | .amoOr _ _ _ _ _ => some 0x3c
  | .amoXor _ _ _ _ _ => some 0x3d
  | .amoSwap _ _ _ _ _ => some 0x3e
  | .amoCas _ _ _ _ _ => some 0x3f
  | .br _ _ => some 0x40
  | .jmp _ _ => some 0x41
  | .call _ _ => some 0x42
  | .callr _ _ => some 0x43
  | .ret _ _ => some 0x44
  | .trap _ _ => some 0x45
  | .brk _ _ => some 0x46
  | .loop _ _ _ => some 0x2
  | .loopi _ _ _ => some 0x3
  | .lexit _ => some 0x4
  | .lnext _ => some 0x5
  | .aadd _ _ _ _ => some 0x6
  | .aaddi _ _ _ _ => some 0x7
  | .amov _ _ _ => some 0x8
  | .aset _ _ _ => some 0x9
  | .aget _ _ _ => some 0xa
  | .ahi _ _ _ _ => some 0xb
  | .geoLd _ _ _ _ => some 0xc
  | .geoSt _ _ _ _ => some 0xd
  | .geoBase _ _ _ => some 0xe
  | .geoAdv _ _ _ _ => some 0xf
  | .slAffPort _ _ _ _ => some 0x2
  | .slAffCopy _ _ _ _ => some 0x2
  | .ssAffPort _ _ _ _ => some 0x3
  | .ssAffCopy _ _ _ _ => some 0x3
  | .slIndPort _ _ _ _ _ => some 0x4
  | .slIndCopy _ _ _ _ _ => some 0x4
  | .ssIndPort _ _ _ _ _ => some 0x5
  | .ssIndCopy _ _ _ _ _ => some 0x5
  | .sRec _ _ _ _ => some 0x6
  | .sConst _ _ _ _ => some 0x7
  | .sDrop _ _ _ _ => some 0x8
  | .sMcPort _ _ _ _ => some 0x9
  | .sMcGeo _ _ _ _ => some 0x9
  | .sChw _ _ _ _ => some 0xa
  | .sChr _ _ _ _ => some 0xb
  | .sBar _ _ _ => some 0xc
  | .sWb _ _ _ => some 0xd
  | .sKill _ _ => some 0xe
  | .sKillAll _ => some 0xe
  | .sTok _ _ _ => some 0xf
  | .sResOut _ _ _ _ => some 0x10
  | .sResIn _ _ _ _ => some 0x10
  | .streamWordDeliver _ _ => none
  | .streamWordDrain _ _ => none
  | .streamCompletion _ _ => none
  | .multicastDetach _ _ _ => none
  | .transferWordArrival _ => none
  | .channelWordPresent _ _ => none
  | .mset _ _ _ => some 0x2
  | .mseti _ _ _ => some 0x3
  | .mcall _ _ _ => some 0x4
  | .mgang _ _ _ => some 0x5
  | .macc _ _ _ _ => some 0x6
  | .maccBankRead _ => none
  | .mup _ _ _ => some 0x7
  | .mupCompletion _ => none
  | .mtab _ _ _ => some 0x8
  | .mstat _ _ _ => some 0x9
  | .mabort _ => some 0xa
  | .mepi _ _ => some 0xb
  | .mepiCompletion _ => none
  | .muNop => some 0x101
  | .muParam _ => some 0x102
  | .muLda _ _ _ _ _ => some 0x103
  | .muLdb _ => some 0x104
  | .muMac _ => some 0x105
  | .muZero _ => some 0x106
  | .muSwap => some 0x107
  | .muDrain _ _ _ _ _ _ _ _ => some 0x108
  | .muLoop _ _ _ => some 0x109
  | .muEndl => some 0x10a
  | .muSig _ => some 0x10b
  | .muWait _ => some 0x10c
  | .muEnd => some 0x10d
  | .gangComplete _ _ => none
  | .gangLate _ _ => none
  | .send _ _ _ _ _ => some 0x2
  | .recv _ _ _ _ _ => some 0x3
  | .recvadd _ _ _ _ _ => some 0x4
  | .sendg _ _ _ _ => some 0x5
  | .cntSet _ _ _ => some 0x6
  | .cntAdd _ _ _ => some 0x7
  | .cntWait _ _ _ => some 0x8
  | .cntRd _ _ _ => some 0x9
  | .cntWaitTimeout _ => none
  | .barInit _ _ _ => some 0x2
  | .barArr _ _ => some 0x3
  | .barWait _ _ => some 0x4
  | .barAw _ _ => some 0x5
  | .own _ _ _ _ => some 0x6
  | .fence _ _ => some 0x7
  | .swait _ _ => some 0x8
  | .ctlRd _ _ _ => some 0x9
  | .ctlWr _ _ _ => some 0xa
  | .uiret _ => some 0xb
  | .tret _ => some 0xc
  | .halt _ => some 0xd
  | .yield _ => some 0xe
  | .ckpt _ _ => some 0xf
  | .killpt _ => some 0x10
  | .cfgLoad _ _ _ _ => some 0x11
  | .cfgLoadCompletion _ _ => none
  | .cfgRun _ _ _ _ => some 0x12
  | .tskEnd _ => some 0x13
  | .cfgDec _ _ _ _ => some 0x20
  | .tskAbort _ _ => some 0x21
  | .qOpen _ _ _ => some 0x22
  | .qWait _ _ _ => some 0x23
  | .qClose _ _ => some 0x24
  | .grpRd _ _ _ => some 0x25
  | .grpLd _ _ => some 0x26
  | .tkStart _ _ _ => some 0x27
  | .tkStop _ _ => some 0x28
  | .tkStat _ _ _ => some 0x29
  | .rgResume _ _ => some 0x2a
  | .chAlloc _ _ _ => some 0x2b
  | .chFree _ _ => some 0x2c
  | .commitPoint _ => none
  | .quorumFill _ _ => none
  | .quorumTimeout _ _ => none
  | .quorumKillLanding _ => none
  | .logWriteback _ => none
  | .remoteWritebackTimeout _ => none
  | .pageWalk _ _ => none
  | .scanOut _ _ => none
  | .stillnessFault _ _ => none
  | .replyTimeout _ _ => none
  | .dshootWrite _ _ => none
  | .shootdownDone _ => none
  | .dlogbaseWrite _ _ => none
  | .dsavebaseWrite _ _ => none
  | .dscrubWrite _ _ => none
  | .hbmPatrolScrub _ _ => none
  | .gspPatrolScrub _ _ _ => none
  | .hbmRowRepair _ _ => none
  | .hbmChannelRetire _ _ => none
  | .eventEntry => none
  | .evpopWrite _ => none
  | .placeWrite _ _ => none
  | .migrationComplete _ => none
  | .bkdepthWrite _ _ => none
  | .powerControlInterval _ => none
  | .coolantFault => none
  | .qtailWrite _ _ _ => none
  | .qcfgWrite _ _ _ => none
  | .qbaseWrite _ _ _ => none
  | .semRead _ _ => none
  | .semWrite _ _ _ => none
  | .partWrite _ _ _ _ => none
  | .pwrcapWrite _ _ => none
  | .imgRegister _ _ _ => none
  | .imageRegistrationDone _ => none
  | .registerWrite _ _ _ => none
  | .firmwareUpdate _ _ => none
  | .firmwareBankSwitch => none
  | .fuseRaise _ _ => none
  | .attestation _ _ => none
  | .codeLoad _ _ => none
  | .graftTableLoad _ _ => none
  | .producerKeyWrite _ _ => none
  | .storeFlush _ _ => none
  | .storeDeallocate _ _ _ _ => none
  | .namespaceEntryWrite _ _ _ => none
  | .launchDispatch => none
  | .partitionSaveDone _ => none
  | .launchRetire _ => none
  | .launchResume _ => none
  | .hostLinkDown _ => none
  | .semaphoreFailover _ => none
  | .deviceReset => none
  | .unsupportedRequest _ => none
  | .laneSpare _ _ => none
  | .edgeTableWrite _ _ _ => none
  | .routingEntryWrite _ _ _ => none
  | .contextTableWrite _ _ _ => none
  | .routeForward _ _ => none
  | .routeDeliver _ _ => none
  | .routeReduce _ _ => none
  | .routeStep _ _ => none
  | .peerReadServe _ _ => none
  | .bucketRefill => none
  | .matrixFault _ => none
  | .hostLinkReturn _ => none
  | .fabricLinkDown _ => none
  | .coolantFaultClear => none
  | .writeResponse _ _ => none
  | .secondChannelFailure _ => none

/-- The opcode a word holds, read as `codeOf` counts it. -/
def codeIn (micro : Bool) (w : BitVec 32) : Nat := if micro then 0x100 + w.toNat / 0x4000000 else opOf w

/-- The word of the instruction carries the opcode of its row. -/
def Encoded.Statement (i : Instr) : Prop :=
  ∀ w, encode i = some w → ∃ micro, codeOf i = some (codeIn micro w)

theorem Encoded.of_slot {i : Instr} {n c : Nat} (he : encode i = some (BitVec.ofNat 32 n)) (hc : codeOf i = some c)
    (hn : n < 4294967296) (hq : n / 0x1000000 % 0x80 = c) : Statement i := by
  intro w hw
  refine ⟨false, ?_⟩
  have e : w = BitVec.ofNat 32 n := Option.some.inj (hw.symm.trans he)
  subst e
  simp only [codeIn, opOf, BitVec.toNat_ofNat, Bool.false_eq_true, if_false]
  rw [hc, Nat.mod_eq_of_lt hn, hq]

theorem Encoded.of_micro {i : Instr} {n c : Nat} (he : encode i = some (BitVec.ofNat 32 n)) (hc : codeOf i = some (0x100 + c))
    (hn : n < 4294967296) (hq : n / 0x4000000 = c) : Statement i := by
  intro w hw
  refine ⟨true, ?_⟩
  have e : w = BitVec.ofNat 32 n := Option.some.inj (hw.symm.trans he)
  subst e
  simp only [codeIn, BitVec.toNat_ofNat, if_true]
  rw [hc, Nat.mod_eq_of_lt hn, hq]

namespace Encoded

theorem bundleDispatch : Statement (.bundleDispatch) := fun _ e => nomatch e

theorem scoreboardReply (x0 : Nat) : Statement (.scoreboardReply x0) := fun _ e => nomatch e

theorem trapEntry : Statement (.trapEntry) := fun _ e => nomatch e

theorem uiEntry : Statement (.uiEntry) := fun _ e => nomatch e

theorem preemptLanding : Statement (.preemptLanding) := fun _ e => nomatch e

theorem forcedSave : Statement (.forcedSave) := fun _ e => nomatch e

theorem firebreakForward (x0 : Nat) (x1 : Nat) : Statement (.firebreakForward x0 x1) := fun _ e => nomatch e

theorem contextSave (x0 : Nat) : Statement (.contextSave x0) := fun _ e => nomatch e

theorem parityErrorAbort (x0 : Nat) : Statement (.parityErrorAbort x0) := fun _ e => nomatch e

theorem headerFiring (x0 : Nat) (x1 : Nat) : Statement (.headerFiring x0 x1) := fun _ e => nomatch e

theorem opSteer (x0 : Nat) (x1 : Nat) : Statement (.opSteer x0 x1) := fun _ e => nomatch e

theorem opMerge (x0 : Nat) (x1 : Nat) : Statement (.opMerge x0 x1) := fun _ e => nomatch e

theorem opCarry (x0 : Nat) (x1 : Nat) : Statement (.opCarry x0 x1) := fun _ e => nomatch e

theorem opRepeat (x0 : Nat) (x1 : Nat) : Statement (.opRepeat x0 x1) := fun _ e => nomatch e

theorem opSink (x0 : Nat) (x1 : Nat) : Statement (.opSink x0 x1) := fun _ e => nomatch e

theorem opGate (x0 : Nat) (x1 : Nat) : Statement (.opGate x0 x1) := fun _ e => nomatch e

theorem elPass (x0 : Nat) (x1 : Nat) : Statement (.elPass x0 x1) := fun _ e => nomatch e

theorem iadd (x0 : Nat) (x1 : Nat) : Statement (.iadd x0 x1) := fun _ e => nomatch e

theorem isub (x0 : Nat) (x1 : Nat) : Statement (.isub x0 x1) := fun _ e => nomatch e

theorem iadds (x0 : Nat) (x1 : Nat) : Statement (.iadds x0 x1) := fun _ e => nomatch e

theorem isubs (x0 : Nat) (x1 : Nat) : Statement (.isubs x0 x1) := fun _ e => nomatch e

theorem imul (x0 : Nat) (x1 : Nat) : Statement (.imul x0 x1) := fun _ e => nomatch e

theorem imulh (x0 : Nat) (x1 : Nat) : Statement (.imulh x0 x1) := fun _ e => nomatch e

theorem imac (x0 : Nat) (x1 : Nat) : Statement (.imac x0 x1) := fun _ e => nomatch e

theorem idot4 (x0 : Nat) (x1 : Nat) : Statement (.idot4 x0 x1) := fun _ e => nomatch e

theorem imin (x0 : Nat) (x1 : Nat) : Statement (.imin x0 x1) := fun _ e => nomatch e

theorem imax (x0 : Nat) (x1 : Nat) : Statement (.imax x0 x1) := fun _ e => nomatch e

theorem iabs (x0 : Nat) (x1 : Nat) : Statement (.iabs x0 x1) := fun _ e => nomatch e

theorem ineg (x0 : Nat) (x1 : Nat) : Statement (.ineg x0 x1) := fun _ e => nomatch e

theorem iclip (x0 : Nat) (x1 : Nat) : Statement (.iclip x0 x1) := fun _ e => nomatch e

theorem ishl (x0 : Nat) (x1 : Nat) : Statement (.ishl x0 x1) := fun _ e => nomatch e

theorem ishr (x0 : Nat) (x1 : Nat) : Statement (.ishr x0 x1) := fun _ e => nomatch e

theorem isra (x0 : Nat) (x1 : Nat) : Statement (.isra x0 x1) := fun _ e => nomatch e

theorem iand (x0 : Nat) (x1 : Nat) : Statement (.iand x0 x1) := fun _ e => nomatch e

theorem ior (x0 : Nat) (x1 : Nat) : Statement (.ior x0 x1) := fun _ e => nomatch e

theorem ixor (x0 : Nat) (x1 : Nat) : Statement (.ixor x0 x1) := fun _ e => nomatch e

theorem inot (x0 : Nat) (x1 : Nat) : Statement (.inot x0 x1) := fun _ e => nomatch e

theorem icmp (x0 : Nat) (x1 : Nat) : Statement (.icmp x0 x1) := fun _ e => nomatch e

theorem iscale (x0 : Nat) (x1 : Nat) : Statement (.iscale x0 x1) := fun _ e => nomatch e

theorem fadd (x0 : Nat) (x1 : Nat) : Statement (.fadd x0 x1) := fun _ e => nomatch e

theorem fsub (x0 : Nat) (x1 : Nat) : Statement (.fsub x0 x1) := fun _ e => nomatch e

theorem fmul (x0 : Nat) (x1 : Nat) : Statement (.fmul x0 x1) := fun _ e => nomatch e

theorem fma (x0 : Nat) (x1 : Nat) : Statement (.fma x0 x1) := fun _ e => nomatch e

theorem fnma (x0 : Nat) (x1 : Nat) : Statement (.fnma x0 x1) := fun _ e => nomatch e

theorem fmin (x0 : Nat) (x1 : Nat) : Statement (.fmin x0 x1) := fun _ e => nomatch e

theorem fmax (x0 : Nat) (x1 : Nat) : Statement (.fmax x0 x1) := fun _ e => nomatch e

theorem fabs (x0 : Nat) (x1 : Nat) : Statement (.fabs x0 x1) := fun _ e => nomatch e

theorem fneg (x0 : Nat) (x1 : Nat) : Statement (.fneg x0 x1) := fun _ e => nomatch e

theorem fcmp (x0 : Nat) (x1 : Nat) : Statement (.fcmp x0 x1) := fun _ e => nomatch e

theorem frcp (x0 : Nat) (x1 : Nat) : Statement (.frcp x0 x1) := fun _ e => nomatch e

theorem frsq (x0 : Nat) (x1 : Nat) : Statement (.frsq x0 x1) := fun _ e => nomatch e

theorem fexp2 (x0 : Nat) (x1 : Nat) : Statement (.fexp2 x0 x1) := fun _ e => nomatch e

theorem flog2 (x0 : Nat) (x1 : Nat) : Statement (.flog2 x0 x1) := fun _ e => nomatch e

theorem ftanh (x0 : Nat) (x1 : Nat) : Statement (.ftanh x0 x1) := fun _ e => nomatch e

theorem fsig (x0 : Nat) (x1 : Nat) : Statement (.fsig x0 x1) := fun _ e => nomatch e

theorem fsilu (x0 : Nat) (x1 : Nat) : Statement (.fsilu x0 x1) := fun _ e => nomatch e

theorem faddC2 (x0 : Nat) (x1 : Nat) : Statement (.faddC2 x0 x1) := fun _ e => nomatch e

theorem fmaC2 (x0 : Nat) (x1 : Nat) : Statement (.fmaC2 x0 x1) := fun _ e => nomatch e

theorem cvt (x0 : Nat) (x1 : Nat) : Statement (.cvt x0 x1) := fun _ e => nomatch e

theorem cvtSc (x0 : Nat) (x1 : Nat) : Statement (.cvtSc x0 x1) := fun _ e => nomatch e

theorem qrnd (x0 : Nat) (x1 : Nat) : Statement (.qrnd x0 x1) := fun _ e => nomatch e

theorem elementSel (x0 : Nat) (x1 : Nat) : Statement (.elementSel x0 x1) := fun _ e => nomatch e

theorem lperm (x0 : Nat) (x1 : Nat) : Statement (.lperm x0 x1) := fun _ e => nomatch e

theorem lbcast (x0 : Nat) (x1 : Nat) : Statement (.lbcast x0 x1) := fun _ e => nomatch e

theorem lred (x0 : Nat) (x1 : Nat) : Statement (.lred x0 x1) := fun _ e => nomatch e

theorem lscan (x0 : Nat) (x1 : Nat) : Statement (.lscan x0 x1) := fun _ e => nomatch e

theorem racc (x0 : Nat) (x1 : Nat) : Statement (.racc x0 x1) := fun _ e => nomatch e

theorem elCnt (x0 : Nat) (x1 : Nat) : Statement (.elCnt x0 x1) := fun _ e => nomatch e

theorem cmask (x0 : Nat) (x1 : Nat) : Statement (.cmask x0 x1) := fun _ e => nomatch e

theorem tagck (x0 : Nat) (x1 : Nat) : Statement (.tagck x0 x1) := fun _ e => nomatch e

theorem tagset (x0 : Nat) (x1 : Nat) : Statement (.tagset x0 x1) := fun _ e => nomatch e

theorem nop : Statement (.nop) := by
  exact of_slot rfl rfl (by omega) (by omega)

theorem nopY : Statement (.nopY) := by
  exact of_slot rfl rfl (by omega) (by omega)

theorem ext (x0 : BitVec 24) : Statement (.ext x0) := by
  have := x0.isLt
  exact of_slot rfl rfl (by omega) (by omega)

theorem add (h : Hdr) (x0 : BitVec 6) (x1 : BitVec 6) (x2 : BitVec 6) : Statement (.add h x0 x1 x2) := by
  have := h.y.isLt; have := h.pq.isLt; have := h.ps.isLt
  have := x0.isLt
  have := x1.isLt
  have := x2.isLt
  exact of_slot rfl rfl (by simp only [hdrBits]; omega) (by simp only [hdrBits]; omega)

theorem sub (h : Hdr) (x0 : BitVec 6) (x1 : BitVec 6) (x2 : BitVec 6) : Statement (.sub h x0 x1 x2) := by
  have := h.y.isLt; have := h.pq.isLt; have := h.ps.isLt
  have := x0.isLt
  have := x1.isLt
  have := x2.isLt
  exact of_slot rfl rfl (by simp only [hdrBits]; omega) (by simp only [hdrBits]; omega)

theorem addi (h : Hdr) (x0 : BitVec 6) (x1 : BitVec 6) (x2 : BitVec 8) : Statement (.addi h x0 x1 x2) := by
  have := h.y.isLt; have := h.pq.isLt; have := h.ps.isLt
  have := x0.isLt
  have := x1.isLt
  have := x2.isLt
  exact of_slot rfl rfl (by simp only [hdrBits]; omega) (by simp only [hdrBits]; omega)

theorem mul (h : Hdr) (x0 : BitVec 6) (x1 : BitVec 6) (x2 : BitVec 6) : Statement (.mul h x0 x1 x2) := by
  have := h.y.isLt; have := h.pq.isLt; have := h.ps.isLt
  have := x0.isLt
  have := x1.isLt
  have := x2.isLt
  exact of_slot rfl rfl (by simp only [hdrBits]; omega) (by simp only [hdrBits]; omega)

theorem mulh (h : Hdr) (x0 : BitVec 6) (x1 : BitVec 6) (x2 : BitVec 6) : Statement (.mulh h x0 x1 x2) := by
  have := h.y.isLt; have := h.pq.isLt; have := h.ps.isLt
  have := x0.isLt
  have := x1.isLt
  have := x2.isLt
  exact of_slot rfl rfl (by simp only [hdrBits]; omega) (by simp only [hdrBits]; omega)

theorem mulhn (h : Hdr) (x0 : BitVec 6) (x1 : BitVec 6) (x2 : BitVec 6) : Statement (.mulhn h x0 x1 x2) := by
  have := h.y.isLt; have := h.pq.isLt; have := h.ps.isLt
  have := x0.isLt
  have := x1.isLt
  have := x2.isLt
  exact of_slot rfl rfl (by simp only [hdrBits]; omega) (by simp only [hdrBits]; omega)

theorem and (h : Hdr) (x0 : BitVec 6) (x1 : BitVec 6) (x2 : BitVec 6) : Statement (.and h x0 x1 x2) := by
  have := h.y.isLt; have := h.pq.isLt; have := h.ps.isLt
  have := x0.isLt
  have := x1.isLt
  have := x2.isLt
  exact of_slot rfl rfl (by simp only [hdrBits]; omega) (by simp only [hdrBits]; omega)

theorem or (h : Hdr) (x0 : BitVec 6) (x1 : BitVec 6) (x2 : BitVec 6) : Statement (.or h x0 x1 x2) := by
  have := h.y.isLt; have := h.pq.isLt; have := h.ps.isLt
  have := x0.isLt
  have := x1.isLt
  have := x2.isLt
  exact of_slot rfl rfl (by simp only [hdrBits]; omega) (by simp only [hdrBits]; omega)

theorem xor (h : Hdr) (x0 : BitVec 6) (x1 : BitVec 6) (x2 : BitVec 6) : Statement (.xor h x0 x1 x2) := by
  have := h.y.isLt; have := h.pq.isLt; have := h.ps.isLt
  have := x0.isLt
  have := x1.isLt
  have := x2.isLt
  exact of_slot rfl rfl (by simp only [hdrBits]; omega) (by simp only [hdrBits]; omega)

theorem andn (h : Hdr) (x0 : BitVec 6) (x1 : BitVec 6) (x2 : BitVec 6) : Statement (.andn h x0 x1 x2) := by
  have := h.y.isLt; have := h.pq.isLt; have := h.ps.isLt
  have := x0.isLt
  have := x1.isLt
  have := x2.isLt
  exact of_slot rfl rfl (by simp only [hdrBits]; omega) (by simp only [hdrBits]; omega)

theorem shl (h : Hdr) (x0 : BitVec 6) (x1 : BitVec 6) (x2 : BitVec 6) : Statement (.shl h x0 x1 x2) := by
  have := h.y.isLt; have := h.pq.isLt; have := h.ps.isLt
  have := x0.isLt
  have := x1.isLt
  have := x2.isLt
  exact of_slot rfl rfl (by simp only [hdrBits]; omega) (by simp only [hdrBits]; omega)

theorem shr (h : Hdr) (x0 : BitVec 6) (x1 : BitVec 6) (x2 : BitVec 6) : Statement (.shr h x0 x1 x2) := by
  have := h.y.isLt; have := h.pq.isLt; have := h.ps.isLt
  have := x0.isLt
  have := x1.isLt
  have := x2.isLt
  exact of_slot rfl rfl (by simp only [hdrBits]; omega) (by simp only [hdrBits]; omega)

theorem sra (h : Hdr) (x0 : BitVec 6) (x1 : BitVec 6) (x2 : BitVec 6) : Statement (.sra h x0 x1 x2) := by
  have := h.y.isLt; have := h.pq.isLt; have := h.ps.isLt
  have := x0.isLt
  have := x1.isLt
  have := x2.isLt
  exact of_slot rfl rfl (by simp only [hdrBits]; omega) (by simp only [hdrBits]; omega)

theorem shli (h : Hdr) (x0 : BitVec 6) (x1 : BitVec 6) (x2 : BitVec 6) : Statement (.shli h x0 x1 x2) := by
  have := h.y.isLt; have := h.pq.isLt; have := h.ps.isLt
  have := x0.isLt
  have := x1.isLt
  have := x2.isLt
  exact of_slot rfl rfl (by simp only [hdrBits]; omega) (by simp only [hdrBits]; omega)

theorem shri (h : Hdr) (x0 : BitVec 6) (x1 : BitVec 6) (x2 : BitVec 6) : Statement (.shri h x0 x1 x2) := by
  have := h.y.isLt; have := h.pq.isLt; have := h.ps.isLt
  have := x0.isLt
  have := x1.isLt
  have := x2.isLt
  exact of_slot rfl rfl (by simp only [hdrBits]; omega) (by simp only [hdrBits]; omega)

theorem srai (h : Hdr) (x0 : BitVec 6) (x1 : BitVec 6) (x2 : BitVec 6) : Statement (.srai h x0 x1 x2) := by
  have := h.y.isLt; have := h.pq.isLt; have := h.ps.isLt
  have := x0.isLt
  have := x1.isLt
  have := x2.isLt
  exact of_slot rfl rfl (by simp only [hdrBits]; omega) (by simp only [hdrBits]; omega)

theorem min (h : Hdr) (x0 : BitVec 6) (x1 : BitVec 6) (x2 : BitVec 6) : Statement (.min h x0 x1 x2) := by
  have := h.y.isLt; have := h.pq.isLt; have := h.ps.isLt
  have := x0.isLt
  have := x1.isLt
  have := x2.isLt
  exact of_slot rfl rfl (by simp only [hdrBits]; omega) (by simp only [hdrBits]; omega)

theorem max (h : Hdr) (x0 : BitVec 6) (x1 : BitVec 6) (x2 : BitVec 6) : Statement (.max h x0 x1 x2) := by
  have := h.y.isLt; have := h.pq.isLt; have := h.ps.isLt
  have := x0.isLt
  have := x1.isLt
  have := x2.isLt
  exact of_slot rfl rfl (by simp only [hdrBits]; omega) (by simp only [hdrBits]; omega)

theorem minn (h : Hdr) (x0 : BitVec 6) (x1 : BitVec 6) (x2 : BitVec 6) : Statement (.minn h x0 x1 x2) := by
  have := h.y.isLt; have := h.pq.isLt; have := h.ps.isLt
  have := x0.isLt
  have := x1.isLt
  have := x2.isLt
  exact of_slot rfl rfl (by simp only [hdrBits]; omega) (by simp only [hdrBits]; omega)

theorem maxn (h : Hdr) (x0 : BitVec 6) (x1 : BitVec 6) (x2 : BitVec 6) : Statement (.maxn h x0 x1 x2) := by
  have := h.y.isLt; have := h.pq.isLt; have := h.ps.isLt
  have := x0.isLt
  have := x1.isLt
  have := x2.isLt
  exact of_slot rfl rfl (by simp only [hdrBits]; omega) (by simp only [hdrBits]; omega)

theorem clz (h : Hdr) (x0 : BitVec 6) (x1 : BitVec 6) : Statement (.clz h x0 x1) := by
  have := h.y.isLt; have := h.pq.isLt; have := h.ps.isLt
  have := x0.isLt
  have := x1.isLt
  exact of_slot rfl rfl (by simp only [hdrBits]; omega) (by simp only [hdrBits]; omega)

theorem popc (h : Hdr) (x0 : BitVec 6) (x1 : BitVec 6) : Statement (.popc h x0 x1) := by
  have := h.y.isLt; have := h.pq.isLt; have := h.ps.isLt
  have := x0.isLt
  have := x1.isLt
  exact of_slot rfl rfl (by simp only [hdrBits]; omega) (by simp only [hdrBits]; omega)

theorem sext (h : Hdr) (x0 : BitVec 6) (x1 : BitVec 6) (x2 : BitVec 2) : Statement (.sext h x0 x1 x2) := by
  have := h.y.isLt; have := h.pq.isLt; have := h.ps.isLt
  have := x0.isLt
  have := x1.isLt
  have := x2.isLt
  exact of_slot rfl rfl (by simp only [hdrBits]; omega) (by simp only [hdrBits]; omega)

theorem zext (h : Hdr) (x0 : BitVec 6) (x1 : BitVec 6) (x2 : BitVec 2) : Statement (.zext h x0 x1 x2) := by
  have := h.y.isLt; have := h.pq.isLt; have := h.ps.isLt
  have := x0.isLt
  have := x1.isLt
  have := x2.isLt
  exact of_slot rfl rfl (by simp only [hdrBits]; omega) (by simp only [hdrBits]; omega)

theorem li (h : Hdr) (x0 : BitVec 6) (x1 : BitVec 8) : Statement (.li h x0 x1) := by
  have := h.y.isLt; have := h.pq.isLt; have := h.ps.isLt
  have := x0.isLt
  have := x1.isLt
  exact of_slot rfl rfl (by simp only [hdrBits]; omega) (by simp only [hdrBits]; omega)

theorem mov (h : Hdr) (x0 : BitVec 6) (x1 : BitVec 6) : Statement (.mov h x0 x1) := by
  have := h.y.isLt; have := h.pq.isLt; have := h.ps.isLt
  have := x0.isLt
  have := x1.isLt
  exact of_slot rfl rfl (by simp only [hdrBits]; omega) (by simp only [hdrBits]; omega)

theorem cmp (h : Hdr) (x0 : BitVec 3) (x1 : BitVec 2) (x2 : BitVec 6) (x3 : BitVec 6) : Statement (.cmp h x0 x1 x2 x3) := by
  have := h.y.isLt; have := h.pq.isLt; have := h.ps.isLt
  have := x0.isLt
  have := x1.isLt
  have := x2.isLt
  have := x3.isLt
  exact of_slot rfl rfl (by simp only [hdrBits]; omega) (by simp only [hdrBits]; omega)

theorem cmpi (h : Hdr) (x0 : BitVec 3) (x1 : BitVec 2) (x2 : BitVec 6) (x3 : BitVec 8) : Statement (.cmpi h x0 x1 x2 x3) := by
  have := h.y.isLt; have := h.pq.isLt; have := h.ps.isLt
  have := x0.isLt
  have := x1.isLt
  have := x2.isLt
  have := x3.isLt
  exact of_slot rfl rfl (by simp only [hdrBits]; omega) (by simp only [hdrBits]; omega)

theorem sel (h : Hdr) (x0 : BitVec 6) (x1 : BitVec 6) (x2 : BitVec 5) (x3 : BitVec 3) : Statement (.sel h x0 x1 x2 x3) := by
  have := h.y.isLt; have := h.pq.isLt; have := h.ps.isLt
  have := x0.isLt
  have := x1.isLt
  have := x2.isLt
  have := x3.isLt
  exact of_slot rfl rfl (by simp only [hdrBits]; omega) (by simp only [hdrBits]; omega)

theorem qop (h : Hdr) (x0 : BitVec 3) (x1 : BitVec 3) (x2 : BitVec 3) (x3 : BitVec 2) : Statement (.qop h x0 x1 x2 x3) := by
  have := h.y.isLt; have := h.pq.isLt; have := h.ps.isLt
  have := x0.isLt
  have := x1.isLt
  have := x2.isLt
  have := x3.isLt
  exact of_slot rfl rfl (by simp only [hdrBits]; omega) (by simp only [hdrBits]; omega)

theorem ld (h : Hdr) (x0 : BitVec 6) (x1 : BitVec 4) (x2 : BitVec 2) (x3 : BitVec 8) : Statement (.ld h x0 x1 x2 x3) := by
  have := h.y.isLt; have := h.pq.isLt; have := h.ps.isLt
  have := x0.isLt
  have := x1.isLt
  have := x2.isLt
  have := x3.isLt
  exact of_slot rfl rfl (by simp only [hdrBits]; omega) (by simp only [hdrBits]; omega)

theorem ldn (h : Hdr) (x0 : BitVec 6) (x1 : BitVec 4) (x2 : BitVec 2) (x3 : BitVec 8) : Statement (.ldn h x0 x1 x2 x3) := by
  have := h.y.isLt; have := h.pq.isLt; have := h.ps.isLt
  have := x0.isLt
  have := x1.isLt
  have := x2.isLt
  have := x3.isLt
  exact of_slot rfl rfl (by simp only [hdrBits]; omega) (by simp only [hdrBits]; omega)

theorem st (h : Hdr) (x0 : BitVec 6) (x1 : BitVec 4) (x2 : BitVec 2) (x3 : BitVec 8) : Statement (.st h x0 x1 x2 x3) := by
  have := h.y.isLt; have := h.pq.isLt; have := h.ps.isLt
  have := x0.isLt
  have := x1.isLt
  have := x2.isLt
  have := x3.isLt
  exact of_slot rfl rfl (by simp only [hdrBits]; omega) (by simp only [hdrBits]; omega)

theorem ldg (h : Hdr) (x0 : BitVec 6) (x1 : BitVec 4) (x2 : BitVec 2) (x3 : BitVec 8) : Statement (.ldg h x0 x1 x2 x3) := by
  have := h.y.isLt; have := h.pq.isLt; have := h.ps.isLt
  have := x0.isLt
  have := x1.isLt
  have := x2.isLt
  have := x3.isLt
  exact of_slot rfl rfl (by simp only [hdrBits]; omega) (by simp only [hdrBits]; omega)

theorem ldgn (h : Hdr) (x0 : BitVec 6) (x1 : BitVec 4) (x2 : BitVec 2) (x3 : BitVec 8) : Statement (.ldgn h x0 x1 x2 x3) := by
  have := h.y.isLt; have := h.pq.isLt; have := h.ps.isLt
  have := x0.isLt
  have := x1.isLt
  have := x2.isLt
  have := x3.isLt
  exact of_slot rfl rfl (by simp only [hdrBits]; omega) (by simp only [hdrBits]; omega)

theorem stg (h : Hdr) (x0 : BitVec 6) (x1 : BitVec 4) (x2 : BitVec 2) (x3 : BitVec 8) : Statement (.stg h x0 x1 x2 x3) := by
  have := h.y.isLt; have := h.pq.isLt; have := h.ps.isLt
  have := x0.isLt
  have := x1.isLt
  have := x2.isLt
  have := x3.isLt
  exact of_slot rfl rfl (by simp only [hdrBits]; omega) (by simp only [hdrBits]; omega)

theorem amoAdd (h : Hdr) (x0 : BitVec 6) (x1 : BitVec 4) (x2 : BitVec 1) (x3 : BitVec 6) : Statement (.amoAdd h x0 x1 x2 x3) := by
  have := h.y.isLt; have := h.pq.isLt; have := h.ps.isLt
  have := x0.isLt
  have := x1.isLt
  have := x2.isLt
  have := x3.isLt
  exact of_slot rfl rfl (by simp only [hdrBits]; omega) (by simp only [hdrBits]; omega)

theorem amoMin (h : Hdr) (x0 : BitVec 6) (x1 : BitVec 4) (x2 : BitVec 1) (x3 : BitVec 6) : Statement (.amoMin h x0 x1 x2 x3) := by
  have := h.y.isLt; have := h.pq.isLt; have := h.ps.isLt
  have := x0.isLt
  have := x1.isLt
  have := x2.isLt
  have := x3.isLt
  exact of_slot rfl rfl (by simp only [hdrBits]; omega) (by simp only [hdrBits]; omega)

theorem amoMax (h : Hdr) (x0 : BitVec 6) (x1 : BitVec 4) (x2 : BitVec 1) (x3 : BitVec 6) : Statement (.amoMax h x0 x1 x2 x3) := by
  have := h.y.isLt; have := h.pq.isLt; have := h.ps.isLt
  have := x0.isLt
  have := x1.isLt
  have := x2.isLt
  have := x3.isLt
  exact of_slot rfl rfl (by simp only [hdrBits]; omega) (by simp only [hdrBits]; omega)

theorem amoAnd (h : Hdr) (x0 : BitVec 6) (x1 : BitVec 4) (x2 : BitVec 1) (x3 : BitVec 6) : Statement (.amoAnd h x0 x1 x2 x3) := by
  have := h.y.isLt; have := h.pq.isLt; have := h.ps.isLt
  have := x0.isLt
  have := x1.isLt
  have := x2.isLt
  have := x3.isLt
  exact of_slot rfl rfl (by simp only [hdrBits]; omega) (by simp only [hdrBits]; omega)

theorem amoOr (h : Hdr) (x0 : BitVec 6) (x1 : BitVec 4) (x2 : BitVec 1) (x3 : BitVec 6) : Statement (.amoOr h x0 x1 x2 x3) := by
  have := h.y.isLt; have := h.pq.isLt; have := h.ps.isLt
  have := x0.isLt
  have := x1.isLt
  have := x2.isLt
  have := x3.isLt
  exact of_slot rfl rfl (by simp only [hdrBits]; omega) (by simp only [hdrBits]; omega)

theorem amoXor (h : Hdr) (x0 : BitVec 6) (x1 : BitVec 4) (x2 : BitVec 1) (x3 : BitVec 6) : Statement (.amoXor h x0 x1 x2 x3) := by
  have := h.y.isLt; have := h.pq.isLt; have := h.ps.isLt
  have := x0.isLt
  have := x1.isLt
  have := x2.isLt
  have := x3.isLt
  exact of_slot rfl rfl (by simp only [hdrBits]; omega) (by simp only [hdrBits]; omega)

theorem amoSwap (h : Hdr) (x0 : BitVec 6) (x1 : BitVec 4) (x2 : BitVec 1) (x3 : BitVec 6) : Statement (.amoSwap h x0 x1 x2 x3) := by
  have := h.y.isLt; have := h.pq.isLt; have := h.ps.isLt
  have := x0.isLt
  have := x1.isLt
  have := x2.isLt
  have := x3.isLt
  exact of_slot rfl rfl (by simp only [hdrBits]; omega) (by simp only [hdrBits]; omega)

theorem amoCas (h : Hdr) (x0 : BitVec 6) (x1 : BitVec 4) (x2 : BitVec 1) (x3 : BitVec 6) : Statement (.amoCas h x0 x1 x2 x3) := by
  have := h.y.isLt; have := h.pq.isLt; have := h.ps.isLt
  have := x0.isLt
  have := x1.isLt
  have := x2.isLt
  have := x3.isLt
  exact of_slot rfl rfl (by simp only [hdrBits]; omega) (by simp only [hdrBits]; omega)

theorem br (h : Hdr) (x0 : BitVec 20) : Statement (.br h x0) := by
  have := h.y.isLt; have := h.pq.isLt; have := h.ps.isLt
  have := x0.isLt
  exact of_slot rfl rfl (by simp only [hdrBits]; omega) (by simp only [hdrBits]; omega)

theorem jmp (h : Hdr) (x0 : BitVec 6) : Statement (.jmp h x0) := by
  have := h.y.isLt; have := h.pq.isLt; have := h.ps.isLt
  have := x0.isLt
  exact of_slot rfl rfl (by simp only [hdrBits]; omega) (by simp only [hdrBits]; omega)

theorem call (h : Hdr) (x0 : BitVec 20) : Statement (.call h x0) := by
  have := h.y.isLt; have := h.pq.isLt; have := h.ps.isLt
  have := x0.isLt
  exact of_slot rfl rfl (by simp only [hdrBits]; omega) (by simp only [hdrBits]; omega)

theorem callr (h : Hdr) (x0 : BitVec 6) : Statement (.callr h x0) := by
  have := h.y.isLt; have := h.pq.isLt; have := h.ps.isLt
  have := x0.isLt
  exact of_slot rfl rfl (by simp only [hdrBits]; omega) (by simp only [hdrBits]; omega)

theorem ret (h : Hdr) (x0 : BitVec 6) : Statement (.ret h x0) := by
  have := h.y.isLt; have := h.pq.isLt; have := h.ps.isLt
  have := x0.isLt
  exact of_slot rfl rfl (by simp only [hdrBits]; omega) (by simp only [hdrBits]; omega)

theorem trap (h : Hdr) (x0 : BitVec 8) : Statement (.trap h x0) := by
  have := h.y.isLt; have := h.pq.isLt; have := h.ps.isLt
  have := x0.isLt
  exact of_slot rfl rfl (by simp only [hdrBits]; omega) (by simp only [hdrBits]; omega)

theorem brk (h : Hdr) (x0 : BitVec 8) : Statement (.brk h x0) := by
  have := h.y.isLt; have := h.pq.isLt; have := h.ps.isLt
  have := x0.isLt
  exact of_slot rfl rfl (by simp only [hdrBits]; omega) (by simp only [hdrBits]; omega)

theorem loop (h : Hdr) (x0 : BitVec 11) (x1 : BitVec 6) : Statement (.loop h x0 x1) := by
  have := h.y.isLt; have := h.pq.isLt; have := h.ps.isLt
  have := x0.isLt
  have := x1.isLt
  exact of_slot rfl rfl (by simp only [hdrBits]; omega) (by simp only [hdrBits]; omega)

theorem loopi (h : Hdr) (x0 : BitVec 11) (x1 : BitVec 8) : Statement (.loopi h x0 x1) := by
  have := h.y.isLt; have := h.pq.isLt; have := h.ps.isLt
  have := x0.isLt
  have := x1.isLt
  exact of_slot rfl rfl (by simp only [hdrBits]; omega) (by simp only [hdrBits]; omega)

theorem lexit (h : Hdr) : Statement (.lexit h) := by
  have := h.y.isLt; have := h.pq.isLt; have := h.ps.isLt
  exact of_slot rfl rfl (by simp only [hdrBits]; omega) (by simp only [hdrBits]; omega)

theorem lnext (h : Hdr) : Statement (.lnext h) := by
  have := h.y.isLt; have := h.pq.isLt; have := h.ps.isLt
  exact of_slot rfl rfl (by simp only [hdrBits]; omega) (by simp only [hdrBits]; omega)

theorem aadd (h : Hdr) (x0 : BitVec 4) (x1 : BitVec 6) (x2 : BitVec 6) : Statement (.aadd h x0 x1 x2) := by
  have := h.y.isLt; have := h.pq.isLt; have := h.ps.isLt
  have := x0.isLt
  have := x1.isLt
  have := x2.isLt
  exact of_slot rfl rfl (by simp only [hdrBits]; omega) (by simp only [hdrBits]; omega)

theorem aaddi (h : Hdr) (x0 : BitVec 4) (x1 : BitVec 6) (x2 : BitVec 8) : Statement (.aaddi h x0 x1 x2) := by
  have := h.y.isLt; have := h.pq.isLt; have := h.ps.isLt
  have := x0.isLt
  have := x1.isLt
  have := x2.isLt
  exact of_slot rfl rfl (by simp only [hdrBits]; omega) (by simp only [hdrBits]; omega)

theorem amov (h : Hdr) (x0 : BitVec 4) (x1 : BitVec 4) : Statement (.amov h x0 x1) := by
  have := h.y.isLt; have := h.pq.isLt; have := h.ps.isLt
  have := x0.isLt
  have := x1.isLt
  exact of_slot rfl rfl (by simp only [hdrBits]; omega) (by simp only [hdrBits]; omega)

theorem aset (h : Hdr) (x0 : BitVec 4) (x1 : BitVec 6) : Statement (.aset h x0 x1) := by
  have := h.y.isLt; have := h.pq.isLt; have := h.ps.isLt
  have := x0.isLt
  have := x1.isLt
  exact of_slot rfl rfl (by simp only [hdrBits]; omega) (by simp only [hdrBits]; omega)

theorem aget (h : Hdr) (x0 : BitVec 5) (x1 : BitVec 4) : Statement (.aget h x0 x1) := by
  have := h.y.isLt; have := h.pq.isLt; have := h.ps.isLt
  have := x0.isLt
  have := x1.isLt
  exact of_slot rfl rfl (by simp only [hdrBits]; omega) (by simp only [hdrBits]; omega)

theorem ahi (h : Hdr) (x0 : BitVec 4) (x1 : BitVec 4) (x2 : BitVec 8) : Statement (.ahi h x0 x1 x2) := by
  have := h.y.isLt; have := h.pq.isLt; have := h.ps.isLt
  have := x0.isLt
  have := x1.isLt
  have := x2.isLt
  exact of_slot rfl rfl (by simp only [hdrBits]; omega) (by simp only [hdrBits]; omega)

theorem geoLd (h : Hdr) (x0 : BitVec 4) (x1 : BitVec 4) (x2 : BitVec 8) : Statement (.geoLd h x0 x1 x2) := by
  have := h.y.isLt; have := h.pq.isLt; have := h.ps.isLt
  have := x0.isLt
  have := x1.isLt
  have := x2.isLt
  exact of_slot rfl rfl (by simp only [hdrBits]; omega) (by simp only [hdrBits]; omega)

theorem geoSt (h : Hdr) (x0 : BitVec 4) (x1 : BitVec 4) (x2 : BitVec 8) : Statement (.geoSt h x0 x1 x2) := by
  have := h.y.isLt; have := h.pq.isLt; have := h.ps.isLt
  have := x0.isLt
  have := x1.isLt
  have := x2.isLt
  exact of_slot rfl rfl (by simp only [hdrBits]; omega) (by simp only [hdrBits]; omega)

theorem geoBase (h : Hdr) (x0 : BitVec 4) (x1 : BitVec 4) : Statement (.geoBase h x0 x1) := by
  have := h.y.isLt; have := h.pq.isLt; have := h.ps.isLt
  have := x0.isLt
  have := x1.isLt
  exact of_slot rfl rfl (by simp only [hdrBits]; omega) (by simp only [hdrBits]; omega)

theorem geoAdv (h : Hdr) (x0 : BitVec 4) (x1 : BitVec 2) (x2 : BitVec 6) : Statement (.geoAdv h x0 x1 x2) := by
  have := h.y.isLt; have := h.pq.isLt; have := h.ps.isLt
  have := x0.isLt
  have := x1.isLt
  have := x2.isLt
  exact of_slot rfl rfl (by simp only [hdrBits]; omega) (by simp only [hdrBits]; omega)

theorem slAffPort (h : Hdr) (x0 : BitVec 6) (x1 : BitVec 4) (x2 : BitVec 4) : Statement (.slAffPort h x0 x1 x2) := by
  have := h.y.isLt; have := h.pq.isLt; have := h.ps.isLt
  have := x0.isLt
  have := x1.isLt
  have := x2.isLt
  exact of_slot rfl rfl (by simp only [hdrBits]; omega) (by simp only [hdrBits]; omega)

theorem slAffCopy (h : Hdr) (x0 : BitVec 6) (x1 : BitVec 4) (x2 : BitVec 4) : Statement (.slAffCopy h x0 x1 x2) := by
  have := h.y.isLt; have := h.pq.isLt; have := h.ps.isLt
  have := x0.isLt
  have := x1.isLt
  have := x2.isLt
  exact of_slot rfl rfl (by simp only [hdrBits]; omega) (by simp only [hdrBits]; omega)

theorem ssAffPort (h : Hdr) (x0 : BitVec 6) (x1 : BitVec 4) (x2 : BitVec 4) : Statement (.ssAffPort h x0 x1 x2) := by
  have := h.y.isLt; have := h.pq.isLt; have := h.ps.isLt
  have := x0.isLt
  have := x1.isLt
  have := x2.isLt
  exact of_slot rfl rfl (by simp only [hdrBits]; omega) (by simp only [hdrBits]; omega)

theorem ssAffCopy (h : Hdr) (x0 : BitVec 6) (x1 : BitVec 4) (x2 : BitVec 4) : Statement (.ssAffCopy h x0 x1 x2) := by
  have := h.y.isLt; have := h.pq.isLt; have := h.ps.isLt
  have := x0.isLt
  have := x1.isLt
  have := x2.isLt
  exact of_slot rfl rfl (by simp only [hdrBits]; omega) (by simp only [hdrBits]; omega)

theorem slIndPort (h : Hdr) (x0 : BitVec 6) (x1 : BitVec 4) (x2 : BitVec 4) (x3 : BitVec 4) : Statement (.slIndPort h x0 x1 x2 x3) := by
  have := h.y.isLt; have := h.pq.isLt; have := h.ps.isLt
  have := x0.isLt
  have := x1.isLt
  have := x2.isLt
  have := x3.isLt
  exact of_slot rfl rfl (by simp only [hdrBits]; omega) (by simp only [hdrBits]; omega)

theorem slIndCopy (h : Hdr) (x0 : BitVec 6) (x1 : BitVec 4) (x2 : BitVec 4) (x3 : BitVec 4) : Statement (.slIndCopy h x0 x1 x2 x3) := by
  have := h.y.isLt; have := h.pq.isLt; have := h.ps.isLt
  have := x0.isLt
  have := x1.isLt
  have := x2.isLt
  have := x3.isLt
  exact of_slot rfl rfl (by simp only [hdrBits]; omega) (by simp only [hdrBits]; omega)

theorem ssIndPort (h : Hdr) (x0 : BitVec 6) (x1 : BitVec 4) (x2 : BitVec 4) (x3 : BitVec 4) : Statement (.ssIndPort h x0 x1 x2 x3) := by
  have := h.y.isLt; have := h.pq.isLt; have := h.ps.isLt
  have := x0.isLt
  have := x1.isLt
  have := x2.isLt
  have := x3.isLt
  exact of_slot rfl rfl (by simp only [hdrBits]; omega) (by simp only [hdrBits]; omega)

theorem ssIndCopy (h : Hdr) (x0 : BitVec 6) (x1 : BitVec 4) (x2 : BitVec 4) (x3 : BitVec 4) : Statement (.ssIndCopy h x0 x1 x2 x3) := by
  have := h.y.isLt; have := h.pq.isLt; have := h.ps.isLt
  have := x0.isLt
  have := x1.isLt
  have := x2.isLt
  have := x3.isLt
  exact of_slot rfl rfl (by simp only [hdrBits]; omega) (by simp only [hdrBits]; omega)

theorem sRec (h : Hdr) (x0 : BitVec 6) (x1 : BitVec 4) (x2 : BitVec 4) : Statement (.sRec h x0 x1 x2) := by
  have := h.y.isLt; have := h.pq.isLt; have := h.ps.isLt
  have := x0.isLt
  have := x1.isLt
  have := x2.isLt
  exact of_slot rfl rfl (by simp only [hdrBits]; omega) (by simp only [hdrBits]; omega)

theorem sConst (h : Hdr) (x0 : BitVec 6) (x1 : BitVec 4) (x2 : BitVec 4) : Statement (.sConst h x0 x1 x2) := by
  have := h.y.isLt; have := h.pq.isLt; have := h.ps.isLt
  have := x0.isLt
  have := x1.isLt
  have := x2.isLt
  exact of_slot rfl rfl (by simp only [hdrBits]; omega) (by simp only [hdrBits]; omega)

theorem sDrop (h : Hdr) (x0 : BitVec 6) (x1 : BitVec 4) (x2 : BitVec 4) : Statement (.sDrop h x0 x1 x2) := by
  have := h.y.isLt; have := h.pq.isLt; have := h.ps.isLt
  have := x0.isLt
  have := x1.isLt
  have := x2.isLt
  exact of_slot rfl rfl (by simp only [hdrBits]; omega) (by simp only [hdrBits]; omega)

theorem sMcPort (h : Hdr) (x0 : BitVec 6) (x1 : BitVec 4) (x2 : BitVec 4) : Statement (.sMcPort h x0 x1 x2) := by
  have := h.y.isLt; have := h.pq.isLt; have := h.ps.isLt
  have := x0.isLt
  have := x1.isLt
  have := x2.isLt
  exact of_slot rfl rfl (by simp only [hdrBits]; omega) (by simp only [hdrBits]; omega)

theorem sMcGeo (h : Hdr) (x0 : BitVec 6) (x1 : BitVec 4) (x2 : BitVec 4) : Statement (.sMcGeo h x0 x1 x2) := by
  have := h.y.isLt; have := h.pq.isLt; have := h.ps.isLt
  have := x0.isLt
  have := x1.isLt
  have := x2.isLt
  exact of_slot rfl rfl (by simp only [hdrBits]; omega) (by simp only [hdrBits]; omega)

theorem sChw (h : Hdr) (x0 : BitVec 6) (x1 : BitVec 4) (x2 : BitVec 4) : Statement (.sChw h x0 x1 x2) := by
  have := h.y.isLt; have := h.pq.isLt; have := h.ps.isLt
  have := x0.isLt
  have := x1.isLt
  have := x2.isLt
  exact of_slot rfl rfl (by simp only [hdrBits]; omega) (by simp only [hdrBits]; omega)

theorem sChr (h : Hdr) (x0 : BitVec 6) (x1 : BitVec 4) (x2 : BitVec 4) : Statement (.sChr h x0 x1 x2) := by
  have := h.y.isLt; have := h.pq.isLt; have := h.ps.isLt
  have := x0.isLt
  have := x1.isLt
  have := x2.isLt
  exact of_slot rfl rfl (by simp only [hdrBits]; omega) (by simp only [hdrBits]; omega)

theorem sBar (h : Hdr) (x0 : BitVec 6) (x1 : BitVec 4) : Statement (.sBar h x0 x1) := by
  have := h.y.isLt; have := h.pq.isLt; have := h.ps.isLt
  have := x0.isLt
  have := x1.isLt
  exact of_slot rfl rfl (by simp only [hdrBits]; omega) (by simp only [hdrBits]; omega)

theorem sWb (h : Hdr) (x0 : BitVec 6) (x1 : BitVec 4) : Statement (.sWb h x0 x1) := by
  have := h.y.isLt; have := h.pq.isLt; have := h.ps.isLt
  have := x0.isLt
  have := x1.isLt
  exact of_slot rfl rfl (by simp only [hdrBits]; omega) (by simp only [hdrBits]; omega)

theorem sKill (h : Hdr) (x0 : BitVec 6) : Statement (.sKill h x0) := by
  have := h.y.isLt; have := h.pq.isLt; have := h.ps.isLt
  have := x0.isLt
  exact of_slot rfl rfl (by simp only [hdrBits]; omega) (by simp only [hdrBits]; omega)

theorem sKillAll (h : Hdr) : Statement (.sKillAll h) := by
  have := h.y.isLt; have := h.pq.isLt; have := h.ps.isLt
  exact of_slot rfl rfl (by simp only [hdrBits]; omega) (by simp only [hdrBits]; omega)

theorem sTok (h : Hdr) (x0 : BitVec 6) (x1 : BitVec 4) : Statement (.sTok h x0 x1) := by
  have := h.y.isLt; have := h.pq.isLt; have := h.ps.isLt
  have := x0.isLt
  have := x1.isLt
  exact of_slot rfl rfl (by simp only [hdrBits]; omega) (by simp only [hdrBits]; omega)

theorem sResOut (h : Hdr) (x0 : BitVec 6) (x1 : BitVec 4) (x2 : BitVec 4) : Statement (.sResOut h x0 x1 x2) := by
  have := h.y.isLt; have := h.pq.isLt; have := h.ps.isLt
  have := x0.isLt
  have := x1.isLt
  have := x2.isLt
  exact of_slot rfl rfl (by simp only [hdrBits]; omega) (by simp only [hdrBits]; omega)

theorem sResIn (h : Hdr) (x0 : BitVec 6) (x1 : BitVec 4) (x2 : BitVec 4) : Statement (.sResIn h x0 x1 x2) := by
  have := h.y.isLt; have := h.pq.isLt; have := h.ps.isLt
  have := x0.isLt
  have := x1.isLt
  have := x2.isLt
  exact of_slot rfl rfl (by simp only [hdrBits]; omega) (by simp only [hdrBits]; omega)

theorem streamWordDeliver (x0 : Nat) (x1 : Nat) : Statement (.streamWordDeliver x0 x1) := fun _ e => nomatch e

theorem streamWordDrain (x0 : Nat) (x1 : Nat) : Statement (.streamWordDrain x0 x1) := fun _ e => nomatch e

theorem streamCompletion (x0 : Nat) (x1 : Nat) : Statement (.streamCompletion x0 x1) := fun _ e => nomatch e

theorem multicastDetach (x0 : Nat) (x1 : Nat) (x2 : Nat) : Statement (.multicastDetach x0 x1 x2) := fun _ e => nomatch e

theorem transferWordArrival (x0 : Nat) : Statement (.transferWordArrival x0) := fun _ e => nomatch e

theorem channelWordPresent (x0 : Nat) (x1 : Nat) : Statement (.channelWordPresent x0 x1) := fun _ e => nomatch e

theorem mset (h : Hdr) (x0 : BitVec 3) (x1 : BitVec 6) : Statement (.mset h x0 x1) := by
  have := h.y.isLt; have := h.pq.isLt; have := h.ps.isLt
  have := x0.isLt
  have := x1.isLt
  exact of_slot rfl rfl (by simp only [hdrBits]; omega) (by simp only [hdrBits]; omega)

theorem mseti (h : Hdr) (x0 : BitVec 3) (x1 : BitVec 8) : Statement (.mseti h x0 x1) := by
  have := h.y.isLt; have := h.pq.isLt; have := h.ps.isLt
  have := x0.isLt
  have := x1.isLt
  exact of_slot rfl rfl (by simp only [hdrBits]; omega) (by simp only [hdrBits]; omega)

theorem mcall (h : Hdr) (x0 : BitVec 6) (x1 : BitVec 11) : Statement (.mcall h x0 x1) := by
  have := h.y.isLt; have := h.pq.isLt; have := h.ps.isLt
  have := x0.isLt
  have := x1.isLt
  exact of_slot rfl rfl (by simp only [hdrBits]; omega) (by simp only [hdrBits]; omega)

theorem mgang (h : Hdr) (x0 : BitVec 6) (x1 : BitVec 6) : Statement (.mgang h x0 x1) := by
  have := h.y.isLt; have := h.pq.isLt; have := h.ps.isLt
  have := x0.isLt
  have := x1.isLt
  exact of_slot rfl rfl (by simp only [hdrBits]; omega) (by simp only [hdrBits]; omega)

theorem macc (h : Hdr) (x0 : BitVec 1) (x1 : BitVec 4) (x2 : BitVec 11) : Statement (.macc h x0 x1 x2) := by
  have := h.y.isLt; have := h.pq.isLt; have := h.ps.isLt
  have := x0.isLt
  have := x1.isLt
  have := x2.isLt
  exact of_slot rfl rfl (by simp only [hdrBits]; omega) (by simp only [hdrBits]; omega)

theorem maccBankRead (x0 : Nat) : Statement (.maccBankRead x0) := fun _ e => nomatch e

theorem mup (h : Hdr) (x0 : BitVec 4) (x1 : BitVec 10) : Statement (.mup h x0 x1) := by
  have := h.y.isLt; have := h.pq.isLt; have := h.ps.isLt
  have := x0.isLt
  have := x1.isLt
  exact of_slot rfl rfl (by simp only [hdrBits]; omega) (by simp only [hdrBits]; omega)

theorem mupCompletion (x0 : Nat) : Statement (.mupCompletion x0) := fun _ e => nomatch e

theorem mtab (h : Hdr) (x0 : BitVec 6) (x1 : BitVec 6) : Statement (.mtab h x0 x1) := by
  have := h.y.isLt; have := h.pq.isLt; have := h.ps.isLt
  have := x0.isLt
  have := x1.isLt
  exact of_slot rfl rfl (by simp only [hdrBits]; omega) (by simp only [hdrBits]; omega)

theorem mstat (h : Hdr) (x0 : BitVec 6) (x1 : BitVec 1) : Statement (.mstat h x0 x1) := by
  have := h.y.isLt; have := h.pq.isLt; have := h.ps.isLt
  have := x0.isLt
  have := x1.isLt
  exact of_slot rfl rfl (by simp only [hdrBits]; omega) (by simp only [hdrBits]; omega)

theorem mabort (h : Hdr) : Statement (.mabort h) := by
  have := h.y.isLt; have := h.pq.isLt; have := h.ps.isLt
  exact of_slot rfl rfl (by simp only [hdrBits]; omega) (by simp only [hdrBits]; omega)

theorem mepi (h : Hdr) (x0 : BitVec 4) : Statement (.mepi h x0) := by
  have := h.y.isLt; have := h.pq.isLt; have := h.ps.isLt
  have := x0.isLt
  exact of_slot rfl rfl (by simp only [hdrBits]; omega) (by simp only [hdrBits]; omega)

theorem mepiCompletion (x0 : Nat) : Statement (.mepiCompletion x0) := fun _ e => nomatch e

theorem muNop : Statement (.muNop) := by
  exact of_micro (c := 0x1) rfl rfl (by omega) (by omega)

theorem muParam (x0 : BitVec 3) : Statement (.muParam x0) := by
  have := x0.isLt
  exact of_micro (c := 0x2) rfl rfl (by omega) (by omega)

theorem muLda (x0 : BitVec 3) (x1 : BitVec 1) (x2 : BitVec 3) (x3 : BitVec 1) (x4 : BitVec 16) : Statement (.muLda x0 x1 x2 x3 x4) := by
  have := x0.isLt
  have := x1.isLt
  have := x2.isLt
  have := x3.isLt
  have := x4.isLt
  exact of_micro (c := 0x3) rfl rfl (by omega) (by omega)

theorem muLdb (x0 : BitVec 3) : Statement (.muLdb x0) := by
  have := x0.isLt
  exact of_micro (c := 0x4) rfl rfl (by omega) (by omega)

theorem muMac (x0 : BitVec 1) : Statement (.muMac x0) := by
  have := x0.isLt
  exact of_micro (c := 0x5) rfl rfl (by omega) (by omega)

theorem muZero (x0 : BitVec 1) : Statement (.muZero x0) := by
  have := x0.isLt
  exact of_micro (c := 0x6) rfl rfl (by omega) (by omega)

theorem muSwap : Statement (.muSwap) := by
  exact of_micro (c := 0x7) rfl rfl (by omega) (by omega)

theorem muDrain (x0 : BitVec 1) (x1 : BitVec 3) (x2 : BitVec 1) (x3 : BitVec 1) (x4 : BitVec 3) (x5 : BitVec 1) (x6 : BitVec 1) (x7 : BitVec 3) : Statement (.muDrain x0 x1 x2 x3 x4 x5 x6 x7) := by
  have := x0.isLt
  have := x1.isLt
  have := x2.isLt
  have := x3.isLt
  have := x4.isLt
  have := x5.isLt
  have := x6.isLt
  have := x7.isLt
  exact of_micro (c := 0x8) rfl rfl (by omega) (by omega)

theorem muLoop (x0 : BitVec 1) (x1 : BitVec 3) (x2 : BitVec 16) : Statement (.muLoop x0 x1 x2) := by
  have := x0.isLt
  have := x1.isLt
  have := x2.isLt
  exact of_micro (c := 0x9) rfl rfl (by omega) (by omega)

theorem muEndl : Statement (.muEndl) := by
  exact of_micro (c := 0xa) rfl rfl (by omega) (by omega)

theorem muSig (x0 : BitVec 11) : Statement (.muSig x0) := by
  have := x0.isLt
  exact of_micro (c := 0xb) rfl rfl (by omega) (by omega)

theorem muWait (x0 : BitVec 11) : Statement (.muWait x0) := by
  have := x0.isLt
  exact of_micro (c := 0xc) rfl rfl (by omega) (by omega)

theorem muEnd : Statement (.muEnd) := by
  exact of_micro (c := 0xd) rfl rfl (by omega) (by omega)

theorem gangComplete (x0 : Nat) (x1 : Nat) : Statement (.gangComplete x0 x1) := fun _ e => nomatch e

theorem gangLate (x0 : Nat) (x1 : Nat) : Statement (.gangLate x0 x1) := fun _ e => nomatch e

theorem send (h : Hdr) (x0 : BitVec 4) (x1 : BitVec 4) (x2 : BitVec 4) (x3 : BitVec 8) : Statement (.send h x0 x1 x2 x3) := by
  have := h.y.isLt; have := h.pq.isLt; have := h.ps.isLt
  have := x0.isLt
  have := x1.isLt
  have := x2.isLt
  have := x3.isLt
  exact of_slot rfl rfl (by simp only [hdrBits]; omega) (by simp only [hdrBits]; omega)

theorem recv (h : Hdr) (x0 : BitVec 4) (x1 : BitVec 4) (x2 : BitVec 4) (x3 : BitVec 8) : Statement (.recv h x0 x1 x2 x3) := by
  have := h.y.isLt; have := h.pq.isLt; have := h.ps.isLt
  have := x0.isLt
  have := x1.isLt
  have := x2.isLt
  have := x3.isLt
  exact of_slot rfl rfl (by simp only [hdrBits]; omega) (by simp only [hdrBits]; omega)

theorem recvadd (h : Hdr) (x0 : BitVec 4) (x1 : BitVec 4) (x2 : BitVec 4) (x3 : BitVec 8) : Statement (.recvadd h x0 x1 x2 x3) := by
  have := h.y.isLt; have := h.pq.isLt; have := h.ps.isLt
  have := x0.isLt
  have := x1.isLt
  have := x2.isLt
  have := x3.isLt
  exact of_slot rfl rfl (by simp only [hdrBits]; omega) (by simp only [hdrBits]; omega)

theorem sendg (h : Hdr) (x0 : BitVec 8) (x1 : BitVec 4) (x2 : BitVec 8) : Statement (.sendg h x0 x1 x2) := by
  have := h.y.isLt; have := h.pq.isLt; have := h.ps.isLt
  have := x0.isLt
  have := x1.isLt
  have := x2.isLt
  exact of_slot rfl rfl (by simp only [hdrBits]; omega) (by simp only [hdrBits]; omega)

theorem cntSet (h : Hdr) (x0 : BitVec 6) (x1 : BitVec 6) : Statement (.cntSet h x0 x1) := by
  have := h.y.isLt; have := h.pq.isLt; have := h.ps.isLt
  have := x0.isLt
  have := x1.isLt
  exact of_slot rfl rfl (by simp only [hdrBits]; omega) (by simp only [hdrBits]; omega)

theorem cntAdd (h : Hdr) (x0 : BitVec 6) (x1 : BitVec 8) : Statement (.cntAdd h x0 x1) := by
  have := h.y.isLt; have := h.pq.isLt; have := h.ps.isLt
  have := x0.isLt
  have := x1.isLt
  exact of_slot rfl rfl (by simp only [hdrBits]; omega) (by simp only [hdrBits]; omega)

theorem cntWait (h : Hdr) (x0 : BitVec 6) (x1 : BitVec 8) : Statement (.cntWait h x0 x1) := by
  have := h.y.isLt; have := h.pq.isLt; have := h.ps.isLt
  have := x0.isLt
  have := x1.isLt
  exact of_slot rfl rfl (by simp only [hdrBits]; omega) (by simp only [hdrBits]; omega)

theorem cntRd (h : Hdr) (x0 : BitVec 6) (x1 : BitVec 6) : Statement (.cntRd h x0 x1) := by
  have := h.y.isLt; have := h.pq.isLt; have := h.ps.isLt
  have := x0.isLt
  have := x1.isLt
  exact of_slot rfl rfl (by simp only [hdrBits]; omega) (by simp only [hdrBits]; omega)

theorem cntWaitTimeout (x0 : Nat) : Statement (.cntWaitTimeout x0) := fun _ e => nomatch e

theorem barInit (h : Hdr) (x0 : BitVec 11) (x1 : BitVec 8) : Statement (.barInit h x0 x1) := by
  have := h.y.isLt; have := h.pq.isLt; have := h.ps.isLt
  have := x0.isLt
  have := x1.isLt
  exact of_slot rfl rfl (by simp only [hdrBits]; omega) (by simp only [hdrBits]; omega)

theorem barArr (h : Hdr) (x0 : BitVec 11) : Statement (.barArr h x0) := by
  have := h.y.isLt; have := h.pq.isLt; have := h.ps.isLt
  have := x0.isLt
  exact of_slot rfl rfl (by simp only [hdrBits]; omega) (by simp only [hdrBits]; omega)

theorem barWait (h : Hdr) (x0 : BitVec 11) : Statement (.barWait h x0) := by
  have := h.y.isLt; have := h.pq.isLt; have := h.ps.isLt
  have := x0.isLt
  exact of_slot rfl rfl (by simp only [hdrBits]; omega) (by simp only [hdrBits]; omega)

theorem barAw (h : Hdr) (x0 : BitVec 11) : Statement (.barAw h x0) := by
  have := h.y.isLt; have := h.pq.isLt; have := h.ps.isLt
  have := x0.isLt
  exact of_slot rfl rfl (by simp only [hdrBits]; omega) (by simp only [hdrBits]; omega)

theorem own (h : Hdr) (x0 : BitVec 8) (x1 : BitVec 1) (x2 : BitVec 8) : Statement (.own h x0 x1 x2) := by
  have := h.y.isLt; have := h.pq.isLt; have := h.ps.isLt
  have := x0.isLt
  have := x1.isLt
  have := x2.isLt
  exact of_slot rfl rfl (by simp only [hdrBits]; omega) (by simp only [hdrBits]; omega)

theorem fence (h : Hdr) (x0 : BitVec 3) : Statement (.fence h x0) := by
  have := h.y.isLt; have := h.pq.isLt; have := h.ps.isLt
  have := x0.isLt
  exact of_slot rfl rfl (by simp only [hdrBits]; omega) (by simp only [hdrBits]; omega)

theorem swait (h : Hdr) (x0 : BitVec 6) : Statement (.swait h x0) := by
  have := h.y.isLt; have := h.pq.isLt; have := h.ps.isLt
  have := x0.isLt
  exact of_slot rfl rfl (by simp only [hdrBits]; omega) (by simp only [hdrBits]; omega)

theorem ctlRd (h : Hdr) (x0 : BitVec 6) (x1 : BitVec 12) : Statement (.ctlRd h x0 x1) := by
  have := h.y.isLt; have := h.pq.isLt; have := h.ps.isLt
  have := x0.isLt
  have := x1.isLt
  exact of_slot rfl rfl (by simp only [hdrBits]; omega) (by simp only [hdrBits]; omega)

theorem ctlWr (h : Hdr) (x0 : BitVec 6) (x1 : BitVec 12) : Statement (.ctlWr h x0 x1) := by
  have := h.y.isLt; have := h.pq.isLt; have := h.ps.isLt
  have := x0.isLt
  have := x1.isLt
  exact of_slot rfl rfl (by simp only [hdrBits]; omega) (by simp only [hdrBits]; omega)

theorem uiret (h : Hdr) : Statement (.uiret h) := by
  have := h.y.isLt; have := h.pq.isLt; have := h.ps.isLt
  exact of_slot rfl rfl (by simp only [hdrBits]; omega) (by simp only [hdrBits]; omega)

theorem tret (h : Hdr) : Statement (.tret h) := by
  have := h.y.isLt; have := h.pq.isLt; have := h.ps.isLt
  exact of_slot rfl rfl (by simp only [hdrBits]; omega) (by simp only [hdrBits]; omega)

theorem halt (h : Hdr) : Statement (.halt h) := by
  have := h.y.isLt; have := h.pq.isLt; have := h.ps.isLt
  exact of_slot rfl rfl (by simp only [hdrBits]; omega) (by simp only [hdrBits]; omega)

theorem yield (h : Hdr) : Statement (.yield h) := by
  have := h.y.isLt; have := h.pq.isLt; have := h.ps.isLt
  exact of_slot rfl rfl (by simp only [hdrBits]; omega) (by simp only [hdrBits]; omega)

theorem ckpt (h : Hdr) (x0 : BitVec 8) : Statement (.ckpt h x0) := by
  have := h.y.isLt; have := h.pq.isLt; have := h.ps.isLt
  have := x0.isLt
  exact of_slot rfl rfl (by simp only [hdrBits]; omega) (by simp only [hdrBits]; omega)

theorem killpt (h : Hdr) : Statement (.killpt h) := by
  have := h.y.isLt; have := h.pq.isLt; have := h.ps.isLt
  exact of_slot rfl rfl (by simp only [hdrBits]; omega) (by simp only [hdrBits]; omega)

theorem cfgLoad (h : Hdr) (x0 : BitVec 2) (x1 : BitVec 4) (x2 : BitVec 11) : Statement (.cfgLoad h x0 x1 x2) := by
  have := h.y.isLt; have := h.pq.isLt; have := h.ps.isLt
  have := x0.isLt
  have := x1.isLt
  have := x2.isLt
  exact of_slot rfl rfl (by simp only [hdrBits]; omega) (by simp only [hdrBits]; omega)

theorem cfgLoadCompletion (x0 : Nat) (x1 : Nat) : Statement (.cfgLoadCompletion x0 x1) := fun _ e => nomatch e

theorem cfgRun (h : Hdr) (x0 : BitVec 2) (x1 : BitVec 6) (x2 : BitVec 8) : Statement (.cfgRun h x0 x1 x2) := by
  have := h.y.isLt; have := h.pq.isLt; have := h.ps.isLt
  have := x0.isLt
  have := x1.isLt
  have := x2.isLt
  exact of_slot rfl rfl (by simp only [hdrBits]; omega) (by simp only [hdrBits]; omega)

theorem tskEnd (h : Hdr) : Statement (.tskEnd h) := by
  have := h.y.isLt; have := h.pq.isLt; have := h.ps.isLt
  exact of_slot rfl rfl (by simp only [hdrBits]; omega) (by simp only [hdrBits]; omega)

theorem cfgDec (h : Hdr) (x0 : BitVec 6) (x1 : BitVec 2) (x2 : BitVec 2) : Statement (.cfgDec h x0 x1 x2) := by
  have := h.y.isLt; have := h.pq.isLt; have := h.ps.isLt
  have := x0.isLt
  have := x1.isLt
  have := x2.isLt
  exact of_slot rfl rfl (by simp only [hdrBits]; omega) (by simp only [hdrBits]; omega)

theorem tskAbort (h : Hdr) (x0 : BitVec 6) : Statement (.tskAbort h x0) := by
  have := h.y.isLt; have := h.pq.isLt; have := h.ps.isLt
  have := x0.isLt
  exact of_slot rfl rfl (by simp only [hdrBits]; omega) (by simp only [hdrBits]; omega)

theorem qOpen (h : Hdr) (x0 : BitVec 6) (x1 : BitVec 4) : Statement (.qOpen h x0 x1) := by
  have := h.y.isLt; have := h.pq.isLt; have := h.ps.isLt
  have := x0.isLt
  have := x1.isLt
  exact of_slot rfl rfl (by simp only [hdrBits]; omega) (by simp only [hdrBits]; omega)

theorem qWait (h : Hdr) (x0 : BitVec 6) (x1 : BitVec 6) : Statement (.qWait h x0 x1) := by
  have := h.y.isLt; have := h.pq.isLt; have := h.ps.isLt
  have := x0.isLt
  have := x1.isLt
  exact of_slot rfl rfl (by simp only [hdrBits]; omega) (by simp only [hdrBits]; omega)

theorem qClose (h : Hdr) (x0 : BitVec 6) : Statement (.qClose h x0) := by
  have := h.y.isLt; have := h.pq.isLt; have := h.ps.isLt
  have := x0.isLt
  exact of_slot rfl rfl (by simp only [hdrBits]; omega) (by simp only [hdrBits]; omega)

theorem grpRd (h : Hdr) (x0 : BitVec 6) (x1 : BitVec 8) : Statement (.grpRd h x0 x1) := by
  have := h.y.isLt; have := h.pq.isLt; have := h.ps.isLt
  have := x0.isLt
  have := x1.isLt
  exact of_slot rfl rfl (by simp only [hdrBits]; omega) (by simp only [hdrBits]; omega)

theorem grpLd (h : Hdr) (x0 : BitVec 4) : Statement (.grpLd h x0) := by
  have := h.y.isLt; have := h.pq.isLt; have := h.ps.isLt
  have := x0.isLt
  exact of_slot rfl rfl (by simp only [hdrBits]; omega) (by simp only [hdrBits]; omega)

theorem tkStart (h : Hdr) (x0 : BitVec 6) (x1 : BitVec 4) : Statement (.tkStart h x0 x1) := by
  have := h.y.isLt; have := h.pq.isLt; have := h.ps.isLt
  have := x0.isLt
  have := x1.isLt
  exact of_slot rfl rfl (by simp only [hdrBits]; omega) (by simp only [hdrBits]; omega)

theorem tkStop (h : Hdr) (x0 : BitVec 6) : Statement (.tkStop h x0) := by
  have := h.y.isLt; have := h.pq.isLt; have := h.ps.isLt
  have := x0.isLt
  exact of_slot rfl rfl (by simp only [hdrBits]; omega) (by simp only [hdrBits]; omega)

theorem tkStat (h : Hdr) (x0 : BitVec 6) (x1 : BitVec 4) : Statement (.tkStat h x0 x1) := by
  have := h.y.isLt; have := h.pq.isLt; have := h.ps.isLt
  have := x0.isLt
  have := x1.isLt
  exact of_slot rfl rfl (by simp only [hdrBits]; omega) (by simp only [hdrBits]; omega)

theorem rgResume (h : Hdr) (x0 : BitVec 6) : Statement (.rgResume h x0) := by
  have := h.y.isLt; have := h.pq.isLt; have := h.ps.isLt
  have := x0.isLt
  exact of_slot rfl rfl (by simp only [hdrBits]; omega) (by simp only [hdrBits]; omega)

theorem chAlloc (h : Hdr) (x0 : BitVec 6) (x1 : BitVec 8) : Statement (.chAlloc h x0 x1) := by
  have := h.y.isLt; have := h.pq.isLt; have := h.ps.isLt
  have := x0.isLt
  have := x1.isLt
  exact of_slot rfl rfl (by simp only [hdrBits]; omega) (by simp only [hdrBits]; omega)

theorem chFree (h : Hdr) (x0 : BitVec 8) : Statement (.chFree h x0) := by
  have := h.y.isLt; have := h.pq.isLt; have := h.ps.isLt
  have := x0.isLt
  exact of_slot rfl rfl (by simp only [hdrBits]; omega) (by simp only [hdrBits]; omega)

theorem commitPoint (x0 : Nat) : Statement (.commitPoint x0) := fun _ e => nomatch e

theorem quorumFill (x0 : Nat) (x1 : Nat) : Statement (.quorumFill x0 x1) := fun _ e => nomatch e

theorem quorumTimeout (x0 : Nat) (x1 : Nat) : Statement (.quorumTimeout x0 x1) := fun _ e => nomatch e

theorem quorumKillLanding (x0 : Nat) : Statement (.quorumKillLanding x0) := fun _ e => nomatch e

theorem logWriteback (x0 : Nat) : Statement (.logWriteback x0) := fun _ e => nomatch e

theorem remoteWritebackTimeout (x0 : Nat) : Statement (.remoteWritebackTimeout x0) := fun _ e => nomatch e

theorem pageWalk (x0 : Nat) (x1 : Nat) : Statement (.pageWalk x0 x1) := fun _ e => nomatch e

theorem scanOut (x0 : Nat) (x1 : Nat) : Statement (.scanOut x0 x1) := fun _ e => nomatch e

theorem stillnessFault (x0 : Nat) (x1 : Nat) : Statement (.stillnessFault x0 x1) := fun _ e => nomatch e

theorem replyTimeout (x0 : Nat) (x1 : Nat) : Statement (.replyTimeout x0 x1) := fun _ e => nomatch e

theorem dshootWrite (x0 : Nat) (x1 : BitVec 64) : Statement (.dshootWrite x0 x1) := fun _ e => nomatch e

theorem shootdownDone (x0 : Nat) : Statement (.shootdownDone x0) := fun _ e => nomatch e

theorem dlogbaseWrite (x0 : Nat) (x1 : BitVec 64) : Statement (.dlogbaseWrite x0 x1) := fun _ e => nomatch e

theorem dsavebaseWrite (x0 : Nat) (x1 : BitVec 64) : Statement (.dsavebaseWrite x0 x1) := fun _ e => nomatch e

theorem dscrubWrite (x0 : Nat) (x1 : BitVec 64) : Statement (.dscrubWrite x0 x1) := fun _ e => nomatch e

theorem hbmPatrolScrub (x0 : Nat) (x1 : Nat) : Statement (.hbmPatrolScrub x0 x1) := fun _ e => nomatch e

theorem gspPatrolScrub (x0 : Nat) (x1 : Nat) (x2 : Nat) : Statement (.gspPatrolScrub x0 x1 x2) := fun _ e => nomatch e

theorem hbmRowRepair (x0 : Nat) (x1 : Nat) : Statement (.hbmRowRepair x0 x1) := fun _ e => nomatch e

theorem hbmChannelRetire (x0 : Nat) (x1 : Nat) : Statement (.hbmChannelRetire x0 x1) := fun _ e => nomatch e

theorem eventEntry : Statement (.eventEntry) := fun _ e => nomatch e

theorem evpopWrite (x0 : Nat) : Statement (.evpopWrite x0) := fun _ e => nomatch e

theorem placeWrite (x0 : Nat) (x1 : BitVec 64) : Statement (.placeWrite x0 x1) := fun _ e => nomatch e

theorem migrationComplete (x0 : Nat) : Statement (.migrationComplete x0) := fun _ e => nomatch e

theorem bkdepthWrite (x0 : Nat) (x1 : BitVec 64) : Statement (.bkdepthWrite x0 x1) := fun _ e => nomatch e

theorem powerControlInterval (x0 : Nat) : Statement (.powerControlInterval x0) := fun _ e => nomatch e

theorem coolantFault : Statement (.coolantFault) := fun _ e => nomatch e

theorem qtailWrite (x0 : Nat) (x1 : Nat) (x2 : BitVec 64) : Statement (.qtailWrite x0 x1 x2) := fun _ e => nomatch e

theorem qcfgWrite (x0 : Nat) (x1 : Nat) (x2 : BitVec 64) : Statement (.qcfgWrite x0 x1 x2) := fun _ e => nomatch e

theorem qbaseWrite (x0 : Nat) (x1 : Nat) (x2 : BitVec 64) : Statement (.qbaseWrite x0 x1 x2) := fun _ e => nomatch e

theorem semRead (x0 : Nat) (x1 : Nat) : Statement (.semRead x0 x1) := fun _ e => nomatch e

theorem semWrite (x0 : Nat) (x1 : Nat) (x2 : BitVec 64) : Statement (.semWrite x0 x1 x2) := fun _ e => nomatch e

theorem partWrite (x0 : Nat) (x1 : Nat) (x2 : Nat) (x3 : BitVec 64) : Statement (.partWrite x0 x1 x2 x3) := fun _ e => nomatch e

theorem pwrcapWrite (x0 : Nat) (x1 : BitVec 64) : Statement (.pwrcapWrite x0 x1) := fun _ e => nomatch e

theorem imgRegister (x0 : Nat) (x1 : Nat) (x2 : BitVec 64) : Statement (.imgRegister x0 x1 x2) := fun _ e => nomatch e

theorem imageRegistrationDone (x0 : Nat) : Statement (.imageRegistrationDone x0) := fun _ e => nomatch e

theorem registerWrite (x0 : Nat) (x1 : Nat) (x2 : BitVec 64) : Statement (.registerWrite x0 x1 x2) := fun _ e => nomatch e

theorem firmwareUpdate (x0 : Nat) (x1 : BitVec 64) : Statement (.firmwareUpdate x0 x1) := fun _ e => nomatch e

theorem firmwareBankSwitch : Statement (.firmwareBankSwitch) := fun _ e => nomatch e

theorem fuseRaise (x0 : Nat) (x1 : BitVec 64) : Statement (.fuseRaise x0 x1) := fun _ e => nomatch e

theorem attestation (x0 : Nat) (x1 : BitVec 64) : Statement (.attestation x0 x1) := fun _ e => nomatch e

theorem codeLoad (x0 : Nat) (x1 : BitVec 64) : Statement (.codeLoad x0 x1) := fun _ e => nomatch e

theorem graftTableLoad (x0 : Nat) (x1 : BitVec 64) : Statement (.graftTableLoad x0 x1) := fun _ e => nomatch e

theorem producerKeyWrite (x0 : Nat) (x1 : BitVec 64) : Statement (.producerKeyWrite x0 x1) := fun _ e => nomatch e

theorem storeFlush (x0 : Nat) (x1 : Nat) : Statement (.storeFlush x0 x1) := fun _ e => nomatch e

theorem storeDeallocate (x0 : Nat) (x1 : Nat) (x2 : Nat) (x3 : Nat) : Statement (.storeDeallocate x0 x1 x2 x3) := fun _ e => nomatch e

theorem namespaceEntryWrite (x0 : Nat) (x1 : Nat) (x2 : BitVec 64) : Statement (.namespaceEntryWrite x0 x1 x2) := fun _ e => nomatch e

theorem launchDispatch : Statement (.launchDispatch) := fun _ e => nomatch e

theorem partitionSaveDone (x0 : Nat) : Statement (.partitionSaveDone x0) := fun _ e => nomatch e

theorem launchRetire (x0 : Nat) : Statement (.launchRetire x0) := fun _ e => nomatch e

theorem launchResume (x0 : Nat) : Statement (.launchResume x0) := fun _ e => nomatch e

theorem hostLinkDown (x0 : Nat) : Statement (.hostLinkDown x0) := fun _ e => nomatch e

theorem semaphoreFailover (x0 : Nat) : Statement (.semaphoreFailover x0) := fun _ e => nomatch e

theorem deviceReset : Statement (.deviceReset) := fun _ e => nomatch e

theorem unsupportedRequest (x0 : Nat) : Statement (.unsupportedRequest x0) := fun _ e => nomatch e

theorem laneSpare (x0 : Nat) (x1 : Nat) : Statement (.laneSpare x0 x1) := fun _ e => nomatch e

theorem edgeTableWrite (x0 : Nat) (x1 : Nat) (x2 : BitVec 64) : Statement (.edgeTableWrite x0 x1 x2) := fun _ e => nomatch e

theorem routingEntryWrite (x0 : Nat) (x1 : Nat) (x2 : BitVec 256) : Statement (.routingEntryWrite x0 x1 x2) := fun _ e => nomatch e

theorem contextTableWrite (x0 : Nat) (x1 : Nat) (x2 : BitVec 64) : Statement (.contextTableWrite x0 x1 x2) := fun _ e => nomatch e

theorem routeForward (x0 : Nat) (x1 : Nat) : Statement (.routeForward x0 x1) := fun _ e => nomatch e

theorem routeDeliver (x0 : Nat) (x1 : Nat) : Statement (.routeDeliver x0 x1) := fun _ e => nomatch e

theorem routeReduce (x0 : Nat) (x1 : Nat) : Statement (.routeReduce x0 x1) := fun _ e => nomatch e

theorem routeStep (x0 : Nat) (x1 : Nat) : Statement (.routeStep x0 x1) := fun _ e => nomatch e

theorem peerReadServe (x0 : Nat) (x1 : Nat) : Statement (.peerReadServe x0 x1) := fun _ e => nomatch e

theorem bucketRefill : Statement (.bucketRefill) := fun _ e => nomatch e

theorem matrixFault (x0 : Nat) : Statement (.matrixFault x0) := fun _ e => nomatch e

theorem hostLinkReturn (x0 : Nat) : Statement (.hostLinkReturn x0) := fun _ e => nomatch e

theorem fabricLinkDown (x0 : Nat) : Statement (.fabricLinkDown x0) := fun _ e => nomatch e

theorem coolantFaultClear : Statement (.coolantFaultClear) := fun _ e => nomatch e

theorem writeResponse (x0 : Nat) (x1 : Nat) : Statement (.writeResponse x0 x1) := fun _ e => nomatch e

theorem secondChannelFailure (x0 : Nat) : Statement (.secondChannelFailure x0) := fun _ e => nomatch e

end Encoded

end Sys2Proof.Laws
end

