-- ==== Sys2Proof/Tests/Slice0.lean ====
section
/-!
SUPPORT. The tests of the model: words decoded by hand, ill-formed terms refused, a state that meets the hypotheses of each
statement, and single steps with results from the worked examples of the spec.
-/
namespace Sys2Proof.Tests
open Sys2Proof.Machine
set_option Elab.async false

/-! ### Decoding -/

/-- Words of every slot (R140, R141), each written out from its row's encoding. -/
theorem test_decode_any_0 :
    decodeIn .c 0x01000000 = some .nop ∧
    decodeIn .c 0x81000000 = some .nopY ∧
    decodeIn .c 0x7f00000b = some (.ext 11) := by decide

/-- Words of slots A and B (R146), each written out from its row's encoding. -/
theorem test_decode_alu_0 :
    decodeIn .a 0x82539570 = some (.add ⟨1, 2, 1⟩ 14 21 28) ∧
    decodeIn .a 0x0374587c = some (.sub ⟨0, 3, 1⟩ 17 24 31) ∧
    decodeIn .a 0x84751b22 = some (.addi ⟨1, 3, 1⟩ 20 27 34) ∧
    decodeIn .a 0x0585de94 = some (.mul ⟨0, 4, 0⟩ 23 30 37) ∧
    decodeIn .a 0x8686a1a0 = some (.mulh ⟨1, 4, 0⟩ 26 33 40) ∧
    decodeIn .a 0x07a764ac = some (.mulhn ⟨0, 5, 0⟩ 29 36 43) ∧
    decodeIn .a 0x88b827b8 = some (.and ⟨1, 5, 1⟩ 32 39 46) ∧
    decodeIn .a 0x09d8ea04 = some (.or ⟨0, 6, 1⟩ 35 42 1) ∧
    decodeIn .a 0x8ad9ad10 = some (.xor ⟨1, 6, 1⟩ 38 45 4) ∧
    decodeIn .a 0x0bea401c = some (.andn ⟨0, 7, 0⟩ 41 0 7) := by decide

/-- Words of slots A and B (R146), each written out from its row's encoding. -/
theorem test_decode_alu_1 :
    decodeIn .a 0x8ceb0328 = some (.shl ⟨1, 7, 0⟩ 44 3 10) ∧
    decodeIn .a 0x0d2bc634 = some (.shr ⟨0, 1, 0⟩ 47 6 13) ∧
    decodeIn .a 0x8e308900 = some (.sra ⟨1, 1, 1⟩ 2 9 0) ∧
    decodeIn .a 0x0f514c03 = some (.shli ⟨0, 2, 1⟩ 5 12 3) ∧
    decodeIn .a 0x90520f06 = some (.shri ⟨1, 2, 1⟩ 8 15 6) ∧
    decodeIn .a 0x1162c209 = some (.srai ⟨0, 3, 0⟩ 11 2 9) ∧
    decodeIn .a 0x92638530 = some (.min ⟨1, 3, 0⟩ 14 5 12) ∧
    decodeIn .a 0x1380483c = some (.max ⟨0, 4, 0⟩ 1 8 15) ∧
    decodeIn .a 0x94910b48 = some (.minn ⟨1, 4, 1⟩ 4 11 18) ∧
    decodeIn .a 0x15b1ce54 = some (.maxn ⟨0, 5, 1⟩ 7 14 21) := by decide

/-- Words of slots A and B (R146), each written out from its row's encoding. -/
theorem test_decode_alu_2 :
    decodeIn .a 0x96b29100 = some (.clz ⟨1, 5, 1⟩ 10 17) ∧
    decodeIn .a 0x17c35400 = some (.popc ⟨0, 6, 0⟩ 13 20) ∧
    decodeIn .a 0x98c41701 = some (.sext ⟨1, 6, 0⟩ 16 23 1) ∧
    decodeIn .a 0x19e4da02 = some (.zext ⟨0, 7, 0⟩ 19 26 2) ∧
    decodeIn .a 0x9af5805d = some (.li ⟨1, 7, 1⟩ 22 93) ∧
    decodeIn .a 0x1b366000 = some (.mov ⟨0, 1, 1⟩ 25 32) ∧
    decodeIn .a 0x9c39aa04 = some (.cmp ⟨1, 1, 1⟩ 4 3 42 1) ∧
    decodeIn .a 0x1d4f2d74 = some (.cmpi ⟨0, 2, 0⟩ 7 2 45 116) ∧
    decodeIn .a 0x9e48a987 = some (.sel ⟨1, 2, 0⟩ 34 41 16 7) ∧
    decodeIn .a 0x1f6b1c00 = some (.qop ⟨0, 3, 0⟩ 5 4 3 2) := by decide

/-- Words of slot A (R146), each written out from its row's encoding. -/
theorem test_decode_a_0 :
    decodeIn .a 0xb07a3e7d = some (.ld ⟨1, 3, 1⟩ 40 15 2 125) ∧
    decodeIn .a 0x319ac980 = some (.ldn ⟨0, 4, 1⟩ 43 2 1 128) ∧
    decodeIn .a 0xb29b9483 = some (.st ⟨1, 4, 1⟩ 46 5 0 131) ∧
    decodeIn .a 0x33a06386 = some (.ldg ⟨0, 5, 0⟩ 1 8 3 134) ∧
    decodeIn .a 0xb4a12e89 = some (.ldgn ⟨1, 5, 0⟩ 4 11 2 137) ∧
    decodeIn .a 0x35c1f98c = some (.stg ⟨0, 6, 0⟩ 7 14 1 140) ∧
    decodeIn .a 0xb8d2863c = some (.amoAdd ⟨1, 6, 1⟩ 10 1 0 15) ∧
    decodeIn .a 0x39f35348 = some (.amoMin ⟨0, 7, 1⟩ 13 4 1 18) ∧
    decodeIn .a 0xbaf01e54 = some (.amoMax ⟨1, 7, 1⟩ 0 7 0 21) ∧
    decodeIn .a 0x3b20eb60 = some (.amoAnd ⟨0, 1, 0⟩ 3 10 1 24) := by decide

/-- Words of slot A (R146), each written out from its row's encoding. -/
theorem test_decode_a_1 :
    decodeIn .a 0xbc21b66c = some (.amoOr ⟨1, 1, 0⟩ 6 13 0 27) ∧
    decodeIn .a 0x3d424378 = some (.amoXor ⟨0, 2, 0⟩ 9 0 1 30) ∧
    decodeIn .a 0xbe530e84 = some (.amoSwap ⟨1, 2, 1⟩ 12 3 0 33) ∧
    decodeIn .a 0x3f73db90 = some (.amoCas ⟨0, 3, 1⟩ 15 6 1 36) := by decide

/-- Words of slot B (R146), each written out from its row's encoding. -/
theorem test_decode_b_0 :
    decodeIn .b 0xc0700092 = some (.br ⟨1, 3, 1⟩ 146) ∧
    decodeIn .b 0x41801500 = some (.jmp ⟨0, 4, 0⟩ 21) ∧
    decodeIn .b 0xc2800098 = some (.call ⟨1, 4, 0⟩ 152) ∧
    decodeIn .b 0x43a01b00 = some (.callr ⟨0, 5, 0⟩ 27) ∧
    decodeIn .b 0xc4b01e00 = some (.ret ⟨1, 5, 1⟩ 30) ∧
    decodeIn .b 0x45d000a1 = some (.trap ⟨0, 6, 1⟩ 161) ∧
    decodeIn .b 0xc6d000a4 = some (.brk ⟨1, 6, 1⟩ 164) := by decide

/-- Words of slot L (R147), each written out from its row's encoding. -/
theorem test_decode_l_0 :
    decodeIn .l 0x02e0a7b8 = some (.loop ⟨0, 7, 0⟩ 167 46) ∧
    decodeIn .l 0x83e0aab1 = some (.loopi ⟨1, 7, 0⟩ 170 177) ∧
    decodeIn .l 0x04200000 = some (.lexit ⟨0, 1, 0⟩) ∧
    decodeIn .l 0x85300000 = some (.lnext ⟨1, 1, 1⟩) ∧
    decodeIn .l 0x0658ca04 = some (.aadd ⟨0, 2, 1⟩ 3 10 1) ∧
    decodeIn .l 0x87598dc4 = some (.aaddi ⟨1, 2, 1⟩ 6 13 196) ∧
    decodeIn .l 0x086a6000 = some (.amov ⟨0, 3, 0⟩ 9 0) ∧
    decodeIn .l 0x896b0300 = some (.aset ⟨1, 3, 0⟩ 12 3) ∧
    decodeIn .l 0x0a87e600 = some (.aget ⟨0, 4, 0⟩ 31 6) ∧
    decodeIn .l 0x8b98a9d0 = some (.ahi ⟨1, 4, 1⟩ 2 9 208) := by decide

/-- Words of slot L (R147), each written out from its row's encoding. -/
theorem test_decode_l_1 :
    decodeIn .l 0x0cb530d3 = some (.geoLd ⟨0, 5, 1⟩ 5 12 211) ∧
    decodeIn .l 0x8db83cd6 = some (.geoSt ⟨1, 5, 1⟩ 8 15 214) ∧
    decodeIn .l 0x0ecb2200 = some (.geoBase ⟨0, 6, 0⟩ 11 2) ∧
    decodeIn .l 0x8fce5c00 = some (.geoAdv ⟨1, 6, 0⟩ 14 1 28) := by decide

/-- Words of slots C and D (R148), each written out from its row's encoding. -/
theorem test_decode_cd_0 :
    decodeIn .d 0x02e460f0 = some (.slAffPort ⟨0, 7, 0⟩ 17 8 15) ∧
    decodeIn .d 0x82f52e20 = some (.slAffCopy ⟨1, 7, 1⟩ 20 11 2) ∧
    decodeIn .d 0x0335f950 = some (.ssAffPort ⟨0, 1, 1⟩ 23 14 5) ∧
    decodeIn .d 0x83368680 = some (.ssAffCopy ⟨1, 1, 1⟩ 26 1 8) ∧
    decodeIn .d 0x044750b2 = some (.slIndPort ⟨0, 2, 0⟩ 29 4 11 2) ∧
    decodeIn .d 0x84481ee5 = some (.slIndCopy ⟨1, 2, 0⟩ 32 7 14 5) ∧
    decodeIn .d 0x0568e918 = some (.ssIndPort ⟨0, 3, 0⟩ 35 10 1 8) ∧
    decodeIn .d 0x8579b64b = some (.ssIndCopy ⟨1, 3, 1⟩ 38 13 4 11) ∧
    decodeIn .d 0x069a4070 = some (.sRec ⟨0, 4, 1⟩ 41 0 7) ∧
    decodeIn .d 0x879b0ca0 = some (.sConst ⟨1, 4, 1⟩ 44 3 10) := by decide

/-- Words of slots C and D (R148), each written out from its row's encoding. -/
theorem test_decode_cd_1 :
    decodeIn .d 0x08abd9d0 = some (.sDrop ⟨0, 5, 0⟩ 47 6 13) ∧
    decodeIn .d 0x89a0a400 = some (.sMcPort ⟨1, 5, 0⟩ 2 9 0) ∧
    decodeIn .d 0x09c17230 = some (.sMcGeo ⟨0, 6, 0⟩ 5 12 3) ∧
    decodeIn .d 0x8ad23d60 = some (.sChw ⟨1, 6, 1⟩ 8 15 6) ∧
    decodeIn .d 0x0bf2c890 = some (.sChr ⟨0, 7, 1⟩ 11 2 9) ∧
    decodeIn .d 0x8cf39400 = some (.sBar ⟨1, 7, 1⟩ 14 5) ∧
    decodeIn .d 0x0d206000 = some (.sWb ⟨0, 1, 0⟩ 1 8) ∧
    decodeIn .d 0x8e210000 = some (.sKill ⟨1, 1, 0⟩ 4) ∧
    decodeIn .d 0x0e400001 = some (.sKillAll ⟨0, 2, 0⟩) ∧
    decodeIn .d 0x8f528400 = some (.sTok ⟨1, 2, 1⟩ 10 1) := by decide

/-- Words of slots C and D (R148), each written out from its row's encoding. -/
theorem test_decode_cd_2 :
    decodeIn .d 0x107350b0 = some (.sResOut ⟨0, 3, 1⟩ 13 4 11) ∧
    decodeIn .d 0x90741ce1 = some (.sResIn ⟨1, 3, 1⟩ 16 7 14) := by decide

/-- Words of slot M (R149), each written out from its row's encoding. -/
theorem test_decode_m_0 :
    decodeIn .m 0x02861a00 = some (.mset ⟨0, 4, 0⟩ 3 26) ∧
    decodeIn .m 0x838c001d = some (.mseti ⟨1, 4, 0⟩ 6 29) ∧
    decodeIn .m 0x04a64120 = some (.mcall ⟨0, 5, 0⟩ 25 288) ∧
    decodeIn .m 0x85b72300 = some (.mgang ⟨1, 5, 1⟩ 28 35) ∧
    decodeIn .m 0x06d8612d = some (.macc ⟨0, 6, 1⟩ 1 6 301) ∧
    decodeIn .m 0x87d02129 = some (.mup ⟨1, 6, 1⟩ 2 297) ∧
    decodeIn .m 0x08e96c00 = some (.mtab ⟨0, 7, 0⟩ 37 44) ∧
    decodeIn .m 0x89ea0001 = some (.mstat ⟨1, 7, 0⟩ 40 1) ∧
    decodeIn .m 0x0a200000 = some (.mabort ⟨0, 1, 0⟩) ∧
    decodeIn .m 0x8b30e000 = some (.mepi ⟨1, 1, 1⟩ 14) := by decide

/-- Words of slot N (R150), each written out from its row's encoding. -/
theorem test_decode_n_0 :
    decodeIn .n 0x8238f66d = some (.send ⟨1, 1, 1⟩ 8 15 6 109) ∧
    decodeIn .n 0x034b2970 = some (.recv ⟨0, 2, 0⟩ 11 2 9 112) ∧
    decodeIn .n 0x844e5c73 = some (.recvadd ⟨1, 2, 0⟩ 14 5 12 115) ∧
    decodeIn .n 0x0566186f = some (.sendg ⟨0, 3, 0⟩ 97 8 111) ∧
    decodeIn .n 0x86792b00 = some (.cntSet ⟨1, 3, 1⟩ 36 43) ∧
    decodeIn .n 0x0799c06e = some (.cntAdd ⟨0, 4, 1⟩ 39 110) ∧
    decodeIn .n 0x889a8071 = some (.cntWait ⟨1, 4, 1⟩ 42 113) ∧
    decodeIn .n 0x09ab4400 = some (.cntRd ⟨0, 5, 0⟩ 45 4) := by decide

/-- Words of slot V (R151), each written out from its row's encoding. -/
theorem test_decode_v_0 :
    decodeIn .v 0x82a2e077 = some (.barInit ⟨1, 5, 0⟩ 368 119) ∧
    decodeIn .v 0x03c2e600 = some (.barArr ⟨0, 6, 0⟩ 371) ∧
    decodeIn .v 0x84d2ec00 = some (.barWait ⟨1, 6, 1⟩ 374) ∧
    decodeIn .v 0x05f2f200 = some (.barAw ⟨0, 7, 1⟩ 377) ∧
    decodeIn .v 0x86f7cc50 = some (.own ⟨1, 7, 1⟩ 124 1 138) ∧
    decodeIn .v 0x07200004 = some (.fence ⟨0, 1, 0⟩ 4) ∧
    decodeIn .v 0x88208000 = some (.swait ⟨1, 1, 0⟩ 2) ∧
    decodeIn .v 0x0941418c = some (.ctlRd ⟨0, 2, 0⟩ 5 396) ∧
    decodeIn .v 0x8a52018f = some (.ctlWr ⟨1, 2, 1⟩ 8 399) ∧
    decodeIn .v 0x0b700000 = some (.uiret ⟨0, 3, 1⟩) := by decide

/-- Words of slot V (R151), each written out from its row's encoding. -/
theorem test_decode_v_1 :
    decodeIn .v 0x8c700000 = some (.tret ⟨1, 3, 1⟩) ∧
    decodeIn .v 0x0d800000 = some (.halt ⟨0, 4, 0⟩) ∧
    decodeIn .v 0x8e800000 = some (.yield ⟨1, 4, 0⟩) ∧
    decodeIn .v 0x0fa00097 = some (.ckpt ⟨0, 5, 0⟩ 151) ∧
    decodeIn .v 0x90b00000 = some (.killpt ⟨1, 5, 1⟩) ∧
    decodeIn .v 0x11d441ab = some (.cfgLoad ⟨0, 6, 1⟩ 1 4 427) ∧
    decodeIn .v 0x92d09cae = some (.cfgRun ⟨1, 6, 1⟩ 0 39 174) ∧
    decodeIn .v 0x13e00000 = some (.tskEnd ⟨0, 7, 0⟩) ∧
    decodeIn .v 0xa0e98004 = some (.cfgDec ⟨1, 7, 0⟩ 38 1 0) ∧
    decodeIn .v 0x212a4000 = some (.tskAbort ⟨0, 1, 0⟩ 41) := by decide

/-- Words of slot V (R151), each written out from its row's encoding. -/
theorem test_decode_v_2 :
    decodeIn .v 0xa23b2300 = some (.qOpen ⟨1, 1, 1⟩ 44 3) ∧
    decodeIn .v 0x235bc600 = some (.qWait ⟨0, 2, 1⟩ 47 6) ∧
    decodeIn .v 0xa4508000 = some (.qClose ⟨1, 2, 1⟩ 2) ∧
    decodeIn .v 0x256140bc = some (.grpRd ⟨0, 3, 0⟩ 5 188) ∧
    decodeIn .v 0xa6602800 = some (.grpLd ⟨1, 3, 0⟩ 8) ∧
    decodeIn .v 0x2782e200 = some (.tkStart ⟨0, 4, 0⟩ 11 2) ∧
    decodeIn .v 0xa8938000 = some (.tkStop ⟨1, 4, 1⟩ 14) ∧
    decodeIn .v 0x29b04008 = some (.tkStat ⟨0, 5, 1⟩ 1 8) ∧
    decodeIn .v 0xaab10000 = some (.rgResume ⟨1, 5, 1⟩ 4) ∧
    decodeIn .v 0x2bc007ce = some (.chAlloc ⟨0, 6, 0⟩ 7 206) := by decide

/-- Words of slot V (R151), each written out from its row's encoding. -/
theorem test_decode_v_3 :
    decodeIn .v 0xacc000ca = some (.chFree ⟨1, 6, 0⟩ 202) := by decide

/-- Words of microwords (R248), each written out from its row's encoding. -/
theorem test_decode_micro_0 :
    decodeMicro 0x04000000 = some .muNop ∧
    decodeMicro 0x0a000000 = some (.muParam 4) ∧
    decodeMicro 0x0fa80153 = some (.muLda 7 0 5 0 339) ∧
    decodeMicro 0x11000000 = some (.muLdb 2) ∧
    decodeMicro 0x16000000 = some (.muMac 1) ∧
    decodeMicro 0x18000000 = some (.muZero 0) ∧
    decodeMicro 0x1c000000 = some .muSwap ∧
    decodeMicro 0x21557000 = some (.muDrain 0 5 0 1 2 1 0 7) ∧
    decodeMicro 0x24000309 = some (.muLoop 0 0 777) ∧
    decodeMicro 0x28000000 = some .muEndl := by decide

/-- Words of microwords (R248), each written out from its row's encoding. -/
theorem test_decode_micro_1 :
    decodeMicro 0x2c00014f = some (.muSig 335) ∧
    decodeMicro 0x30000152 = some (.muWait 338) ∧
    decodeMicro 0x34000000 = some .muEnd := by decide
/-! ### Helpers -/

/-- A state whose focus is tile 0. -/
def onTile (x : Tile) (e : Entry := {}) : State := { tiles := [(0, x)], focus := .tile 0, ctx := e }

/-- A tile with a sequencer. -/
def withSeq (q : Seq) : Tile := { seq := q }

/-- A state whose focus is the sequencer of grove 0. -/
def onGrove (g : Grove) (e : Entry := {}) : State := { groves := [(0, g)], focus := .seq 0, ctx := e }

/-- The next state of an answer, or the state after reset. -/
def nextOf (r : Result) : State :=
  match r with
  | .next s => s
  | _ => {}

/-- An answer is a next state with a property. -/
def nextHas (r : Result) (p : State → Bool) : Bool :=
  match r with
  | .next s => p s
  | _ => false

/-- A memory that holds bytes from an address on, given without zeros. -/
def bytesAtAddr (a : Nat) (l : List Nat) : Memory := l.zipIdx.map (fun e => (a + e.2, BitVec.ofNat 8 e.1))

/-! ### Witnesses: encoding and the step -/

theorem witness_DecodeAfterEncode :
    ∃ (i j : Instr) (w v : BitVec 32), i.wf = true ∧ encode i = some w ∧ decodeSlot false .a w = .ok i ∧
      j.wf = true ∧ encode j = some v ∧ decodeMicro v = some j :=
  ⟨.add ⟨1, 7, 1⟩ 47 63 53, .muLoop 1 7 0, _, _, by decide, rfl, by decide, by decide, rfl, by decide⟩

theorem witness_DecodingIsExact :
    decodeSlot true .v 0x2702E300 = .ok (.tkStart ⟨0, 0, 0⟩ 11 3) ∧ decodeMicro 0x34000000 = some .muEnd := by decide

def issuing : State := onTile (withSeq { run := .running, queues := [(6, [{ word := 0x08014004, slot := .n }])] })

theorem witness_StepRunsTheInstruction_queues :
    ({ issuing with agenda := [⟨.tile 0, .issue .n⟩] } : State).runs (.tile 0) = true ∧ (issuing.seqOf (.tile 0)).traps = [] ∧
      (issuing.seqOf (.tile 0)).queues.get [] Slot.n.index = [{ word := 0x08014004, slot := .n }] ∧
      decodeSlot false .n 0x08014004 = .ok (.cntWait ⟨0, 0, 0⟩ 5 4) := ⟨by decide, by decide, rfl, by decide⟩

/-- Tile 0 in microword 1023 of a routine. -/
def inMicroword : State :=
  { onTile { mx := { running := some ⟨0, 1023, 0, false, none, false, false⟩, store := [(1023, 0x34000000)] } } with
    agenda := [⟨.tile 0, .micro⟩] }

theorem witness_StepRunsTheInstruction_others :
    ({ issuing with agenda := [⟨.tile 0, .upset (.core 0)⟩] } : State).agenda = [⟨.tile 0, .upset (.core 0)⟩] ∧
    ({ issuing with agenda := [⟨.seq 0, .shootdown 1 2⟩] } : State).agenda = [⟨.seq 0, .shootdown 1 2⟩] ∧
    ({ issuing with agenda := [⟨.tile 0, .drive 3 false⟩, ⟨.tile 0, .arrive 3 0 7 true⟩] } : State).agenda =
      ⟨.tile 0, .drive 3 false⟩ :: [⟨.tile 0, .arrive 3 0 7 true⟩] ∧
    inMicroword.agenda = [⟨.tile 0, .micro⟩] ∧ (inMicroword.mx 0).running = some ⟨0, 1023, 0, false, none, false, false⟩ ∧
    decodeMicro ((inMicroword.mx 0).store.get 0 1023) = some .muEnd ∧
    encode .bundleDispatch = none ∧ State.reset.agenda = [] ∧
    State.reset.turns[State.reset.turn % State.reset.turns.length]? = some ⟨.tile 0, .event .launchDispatch⟩ := by decide +kernel

/-- Tile 0 before bundle 5, which holds one word in a slot. -/
def beforeBundle (sl : Slot) (l : List Nat) : State :=
  { onTile (withSeq { run := .running, pc := 5, ctl := { codebound := 2048 } }) with
    agenda := [⟨.tile 0, .dispatch⟩]
    mem := { bytes := (List.range 8).flatMap (fun k =>
      if k = sl.index then (bytesAtAddr (codeAddr (Agent.tile 0).codeUnit 160 + 4 * k) l).filter (fun c => c.2 != 0)
      else [(codeAddr (Agent.tile 0).codeUnit 160 + 4 * k + 3, 1)]) } }

theorem witness_BundleRunsItsWord_a :
    let s := beforeBundle .a [0x08, 0xc1, 0x00, 0x02]
    s.atBundle (.tile 0) ∧ s.holdsOne (.tile 0) .a 0x0200C108 ∧ decodeSlot false .a 0x0200C108 = .ok (.add ⟨0, 0, 0⟩ 3 1 2) ∧
      (s.seqOf (.tile 0)).prefixes = [] ∧ opOf 0x0200C108 = 2 ∧ (s.seqOf (.tile 0)).holds (hdrOf 0x0200C108) = true ∧
      dispatchFault { s with agenda := [] } (.add ⟨0, 0, 0⟩ 3 1 2) = none := by
  refine ⟨⟨by decide, by decide, by decide, by decide, by decide⟩,
    ⟨by decide, by decide, by decide, fun k => by cases k <;> decide⟩, by decide, by decide, by decide, by decide, by decide⟩

theorem witness_BundleRunsItsWord_n :
    let s := beforeBundle .n [0x04, 0x40, 0x01, 0x08]
    s.holdsOne (.tile 0) .n 0x08014004 ∧ decodeSlot false .n 0x08014004 = .ok (.cntWait ⟨0, 0, 0⟩ 5 4) ∧ 3 ≤ Slot.n.index ∧
      realigns (.cntWait ⟨0, 0, 0⟩ 5 4) = false ∧ actsAtOnce (.cntWait ⟨0, 0, 0⟩ 5 4) = false ∧
      dispatchFault { s with agenda := [] } (.cntWait ⟨0, 0, 0⟩ 5 4) = none := by
  refine ⟨⟨by decide, by decide, by decide, fun k => by cases k <;> decide⟩, by decide, by decide, by decide, by decide, by decide⟩

/-! ### Witnesses: results of the scalar group -/

theorem witness_AluResults :
    ∃ (s : State) (e : BitVec 24), s.cur.holds Hdr.plain = true ∧ s.cur.holds ⟨1, 0, 0⟩ = true ∧ s.ctx.ext = some e ∧
      (2 : BitVec 2) ≠ 3 :=
  ⟨onTile {} { ext := some 5 }, 5, by decide⟩

theorem witness_PredicatesAndIdleWords :
    let s := onTile (withSeq { q := [(1, 1)] })
    s.cur.holds ⟨0, 1, 0⟩ = true ∧ s.cur.holds ⟨0, 1, 1⟩ = false ∧ s.cur.holds ⟨0, 2, 0⟩ = false ∧
      decodeIn .a 0x0240C108 = some (.add ⟨0, 2, 0⟩ 3 1 2) ∧ decodeIn .l 0x04400000 = some (.lexit ⟨0, 2, 0⟩) := by decide

theorem witness_ComputingWordsFrame :
    computes (.add .plain 3 1 2) = true ∧ (∃ t, exec (.add .plain 3 1 2) (onTile {}) = .next t) ∧
      computes (.geoAdv .plain 3 1 2) = true ∧ ∃ t, exec (.geoAdv .plain 3 1 2) (onTile {}) = .next t :=
  ⟨rfl, ⟨_, rfl⟩, rfl, _, rfl⟩

/-- A tile with a result that comes two bundle times later, and behind it two that are due, the second to another register. -/
def landingTwo (d e : Dest) : State :=
  onTile (withSeq { lands := [⟨.s 9, 8, 2, 0, 0, 0, 0⟩, ⟨d, 7, 1, 0, 0, 0, 0⟩, ⟨e, 6, 1, 0, 5, 0, 3⟩] })

theorem witness_ResultsLand :
    (∀ d ∈ [Dest.s 0, .s 31, .a 15, .q 0, .q 7, .g 15],
      let q := (landingTwo d (.s 8)).seqOf (.tile 0)
      let due := q.lands.filter (fun r => decide (r.delay ≤ 1))
      due.length = 2 ∧ (due.map (fun r => r.dest)).Nodup ∧ (∀ r ∈ due, ∀ p ∈ q.reqs, p.dest ≠ some r.dest) ∧ (∀ r ∈ due, r.dest ≠ .s 9)) ∧
    (let a : Pending := ⟨.s 8, 7, 1, 0, 0, 0, 0⟩
     let b : Pending := ⟨.s 8, 6, 1, 0, 5, 0, 3⟩
     ((onTile (withSeq { lands := [a, b] })).seqOf (.tile 0)).lands = [a, b] ∧ a.dest = b.dest ∧ a.delay ≤ 1 ∧ b.delay ≤ 1 ∧ a.num ≤ b.num ∧
       (a.num = b.num → a.slot < b.slot) ∧ ∀ p ∈ ((onTile (withSeq { lands := [a, b] })).seqOf (.tile 0)).reqs, p.dest ≠ some b.dest) := by
  decide +kernel

/-- A result due behind one that is not, and another due with it, land together (R109, R115). -/
theorem test_results_land_together :
    let t := ((landingTwo (.s 3) (.a 2)).tick (.tile 0) none).seqOf (.tile 0)
    t.readS 3 = 7 ∧ t.readA 2 = 6 ∧ t.readS 9 = 0 ∧ t.lands.length = 1 := by decide +kernel

/-! ### Witnesses: memory of slots A and L -/

/-- Tile 0 with `a1` and `a15` at an address, and all panes the core's. -/
def addressing (a : Addr) : State := onTile (withSeq { a := [(1, a), (15, a)], ctl := { spillbase := 4, spillpanes := 1 } })

theorem witness_TileLoadsAndStores_passes :
    (addressing 0xffff8).coreReaches 0 1 ((addressing 0xffff8).ea 1 3 0) (accessSize 3) ∧
    (addressing 0xffff8).mem.poisoned (tspAddr 0 ((addressing 0xffff8).ea 1 3 0)) (accessSize 3) = false ∧
    (addressing 0x4ff8).coreReaches 0 15 ((addressing 0x4ff8).ea 15 3 0) (accessSize 3) ∧
    (addressing 0xfffc0).coreReaches 0 1 ((addressing 0xfffc0).cur.effAddr 1 (immSigned none 0) 64) 64 :=
  ⟨by unfold State.coreReaches; decide, by decide, by unfold State.coreReaches; decide, by unfold State.coreReaches; decide⟩

theorem witness_TileLoadsAndStores_traps :
    2 ^ 20 ≤ (addressing 0x100000).ea 1 3 0 ∧
    ((addressing 0xfffff).ea 1 3 0 < 2 ^ 20 ∧ (addressing 0xfffff).ea 1 3 0 % accessSize 3 ≠ 0) ∧
    ((addressing 0x5000).ea 15 3 0 % accessSize 3 = 0 ∧ (15 : BitVec 4) = 15 ∧
      ((addressing 0x5000).tile 0).seq.ctl.inCarve ((addressing 0x5000).ea 15 3 0 / 4096) = false) ∧
    (∃ s : State, s.focus = .tile 0 ∧ (s.tile 0).engineOwns (s.ea 1 3 0 / 4096) = true) ∧
    (∃ s : State, s.coreReaches 0 1 (s.ea 1 3 0) (accessSize 3) ∧ s.mem.poisoned (tspAddr 0 (s.ea 1 3 0)) (accessSize 3) = true) :=
  ⟨by decide, by decide, by decide, ⟨onTile { own := [(0, 1)] }, by decide⟩,
    ⟨{ addressing 8 with mem := { poison := [tspAddr 0 8 / 8 * 8] } }, by unfold State.coreReaches; decide, by decide⟩⟩

theorem witness_TileLoadsAndStores_geometry :
    let ea (s : State) := s.cur.effAddr 1 (immSigned s.ctx.ext 0) 64
    2 ^ 20 ≤ ea (addressing 0x100000) ∧ (ea (addressing 0xfffe0) < 2 ^ 20 ∧ ea (addressing 0xfffe0) % 64 ≠ 0) ∧
    (let e := (addressing 0x5000).cur.effAddr 15 (immSigned none 0) 64
     e < 2 ^ 20 ∧ e % 64 = 0 ∧ ((addressing 0x5000).tile 0).seq.ctl.inCarve (e / 4096) = false) ∧
    (∃ s : State, ea s < 2 ^ 20 ∧ ea s % 64 = 0 ∧ (s.tile 0).engineOwns (ea s / 4096) = true) ∧
    (∃ s : State, s.coreReaches 0 1 (ea s) 64 ∧ s.mem.poisoned (tspAddr 0 (ea s)) 64 = true) :=
  ⟨by decide, by decide, by decide, ⟨onTile { own := [(0, 1)] }, by decide⟩,
    ⟨{ addressing 64 with mem := { poison := [tspAddr 0 72 / 8 * 8] } }, by unfold State.coreReaches; decide, by decide +kernel⟩⟩

theorem witness_AddressResults : (addressing 0).cur.holds .plain = true ∧ (addressing 0).cur.readA 1 = 0 := by decide

/-- A request of tile 0 to bytes 64 to 71 that is outstanding. -/
def loading (k : ReqKind) (d : Option Dest) (inTask : Bool := false) : Req :=
  { kind := k, dest := d, ea := 64, size := 8, data := 9, cmp := 0, pc := 0, word := 0, inTask := inTask }

/-- Tile 0 with that request. -/
def requesting (k : ReqKind) (d : Option Dest) : State := onTile (withSeq { reqs := [loading k d] })

/-- A channel that holds words 0 and 1 of grove 0. -/
def channelWord : Word := 0x8000000000000002

theorem witness_GroveLoadsAndStores_words :
    let s := addressing 0xfffff8
    2 ^ 24 ≤ (addressing 0x1000000).ea 1 3 0 ∧ (addressing 0xfffffc).ea 1 3 0 < 2 ^ 24 ∧ (addressing 0xfffffc).ea 1 3 0 % accessSize 3 ≠ 0 ∧
    s.cur.holds .plain = true ∧ s.ea 1 3 0 < 2 ^ 24 ∧ s.ea 1 3 0 % accessSize 3 = 0 ∧ s.unitTask s.focus = false ∧ s.noneOutstanding ∧
      (s.grove s.focus.grove).channelOf (s.ea 1 3 0) = none ∧ s.mem.poisoned (gspAddr s.focus.grove (s.ea 1 3 0)) (accessSize 3) = false := by
  refine ⟨?_, ?_, ?_, ?_, ?_, ?_, ?_, ⟨rfl, rfl, ?_⟩, ?_, ?_⟩
  all_goals decide +kernel

theorem witness_GroveLoadsAndStores_store :
    let s := requesting .store none
    let c : State := { s with groves := [(0, { chans := [(3, channelWord)] })] }
    s.stopped s.focus = false ∧ s.cur.reqs[0]? = some (loading .store none) ∧ s.noneBefore 0 (loading .store none) ∧
      (s.grove s.focus.grove).channelOf 64 = none ∧ (c.grove 0).channelOf 64 ≠ none ∧ c.present (gspAddr 0 64) = false ∧
      ({ c with mem := { present := [gspAddr 0 64] } } : State).present (gspAddr 0 64) = true := by
  refine ⟨by decide, rfl, fun p hp => ?_, by decide, by decide, by decide, by decide⟩
  cases hp

/-- Remote writes of one edge to n blocks. -/
def remoteBlocks (n : Nat) : List Remote := (List.range n).map (fun i => .peer 0 (.ofNat 72 (64 * i)) 0 0)

theorem eraseDups_of_nodup {α : Type} [BEq α] [LawfulBEq α] (l : List α) (h : l.Nodup) : l.eraseDups = l := by
  induction l with
  | nil => rfl
  | cons a l ih =>
    rw [List.nodup_cons] at h
    rw [List.eraseDups_cons, List.filter_eq_self.mpr, ih h.2]
    intro b hb
    simpa using fun e : b = a => h.1 (e ▸ hb)

theorem blockCount_remoteBlocks (log : KMap Byte) (n : Nat) (hn : n < 2 ^ 64) : n ≤ blockCount log (remoteBlocks n) := by
  have h (k : Nat) (hk : k ≤ n) : (remoteBlocks k).flatMap Remote.blocks = (List.range k).map (fun i => ((0, 0), i)) := by
    induction k with
    | zero => rfl
    | succ k ih =>
      have : 64 * k % 2 ^ 72 / 64 = k := by omega
      have ih := ih (by omega)
      simp only [remoteBlocks] at ih ⊢
      simp only [List.range_succ, List.map_append, List.flatMap_append, ih, List.map_cons, List.map_nil, List.flatMap_cons,
        List.flatMap_nil, Remote.blocks, Remote.dest, BitVec.toNat_ofNat, this, List.append_nil]
  have d : ((List.range n).map (fun i => (((0, 0), i) : (Nat × Nat) × Nat))).Nodup :=
    List.Nodup.map (fun a b e => (Prod.mk.inj e).2) List.nodup_range
  unfold blockCount
  rw [h n (Nat.le_refl _), eraseDups_of_nodup _ d, List.length_map, List.length_range]
  omega

theorem witness_GroveLoadsAndStores_task :
    let s := onTile { seq := { reqs := [loading .store none true], ctl := { topen := true } }, task := some {} }
    s.stopped s.focus = false ∧ s.cur.reqs[0]? = some (loading .store none true) ∧ s.noneBefore 0 (loading .store none true) ∧
      (s.tile 0).task = some {} ∧ (s.grove (groveOf 0)).channelOf 64 = none ∧
      blockCount ((leBytes 8 9).zipIdx.foldl (fun l e => KMap.put l (gspAddr 0 64 + e.2) e.1) []) [] ≤ 262144 ∧
      ∃ x : List Remote, 262144 < blockCount ((leBytes 8 9).zipIdx.foldl (fun l e => KMap.put l (gspAddr 0 64 + e.2) e.1) []) x := by
  refine ⟨by decide, rfl, fun p hp => ?_, rfl, by decide, by decide +kernel, remoteBlocks 262145, ?_⟩
  · cases hp
  · exact blockCount_remoteBlocks _ 262145 (by decide)

theorem witness_RepliesAndReleases_task :
    let s := onTile { seq := { reqs := [loading (.load true) (some (.s 1)) true], ctl := { topen := true } }, task := some { log := [(gspAddr 0 64, 5)] } }
    s.stopped s.focus = false ∧ s.cur.reqs[0]? = some (loading (.load true) (some (.s 1)) true) ∧
      s.noneBefore 0 (loading (.load true) (some (.s 1)) true) ∧ (s.tile 0).task = some { log := [(gspAddr 0 64, 5)] } ∧
      (s.grove (groveOf 0)).channelOf 64 = none ∧ s.mem.poisoned (gspAddr 0 64) 8 = false := by
  refine ⟨by decide, rfl, fun p hp => ?_, rfl, by decide, by decide⟩
  cases hp

theorem witness_AtomicsPerform :
    let s := addressing 0xfffff8
    2 ^ 24 ≤ ((addressing 0x1000000).cur.readA (1 : BitVec 4).toNat).toNat ∧
    ((addressing 4).cur.readA (1 : BitVec 4).toNat).toNat % 8 ≠ 0 ∧ s.cur.holds ⟨0, 0, 0⟩ = true ∧
    (s.cur.readA (1 : BitVec 4).toNat).toNat < 2 ^ 24 ∧ (s.cur.readA (1 : BitVec 4).toNat).toNat % 8 = 0 ∧
      s.noneOutstanding ∧ (s.grove s.focus.grove).channelOf 0xfffff8 = none ∧ s.mem.poisoned (gspAddr 0 0xfffff8) 8 = false ∧
    (let c : State := { addressing 64 with groves := [(0, { chans := [(3, channelWord)] })] }
     ((c.cur.readA (1 : BitVec 4).toNat).toNat = 64 ∧ c.noneOutstanding ∧ (c.grove c.focus.grove).channelOf 64 ≠ none)) :=
  ⟨by decide, by decide, by decide, by decide, by decide, ⟨rfl, rfl, by decide⟩, by decide, by decide, by decide, ⟨rfl, rfl, by decide⟩, by decide⟩

theorem witness_RepliesAndReleases_replies :
    ∀ d ∈ [Dest.s 0, .s 31, .a 0], let s := requesting (.load true) (some d)
      s.stopped s.focus = false ∧ s.cur.reqs[0]? = some (loading (.load true) (some d)) ∧ s.noneBefore 0 (loading (.load true) (some d)) ∧
        (∃ n, d = .s n ∨ d = .a n) ∧ (s.grove s.focus.grove).channelOf 64 = none ∧ s.mem.poisoned (gspAddr s.focus.grove 64) 8 = false := by
  intro d hd
  refine ⟨rfl, rfl, (fun p hp => by cases hp), ?_, rfl, rfl⟩
  rcases List.mem_cons.mp hd with h | hd
  · exact ⟨_, .inl h⟩
  rcases List.mem_cons.mp hd with h | hd
  · exact ⟨_, .inl h⟩
  · exact ⟨_, .inr (List.mem_singleton.mp hd)⟩

theorem witness_RepliesAndReleases_releases :
    (∀ u ∈ groveUnits 0, ((onTile {}).seqOf u).reqs = []) ∧
    (let s : State := { requesting (.load false) (some (.s 1)) with mem := { present := [gspAddr 0 64] } }
     (s.tile (tileAt 0 0)).freeze = none ∧ (s.tile (tileAt 0 0)).seq.reqs = [loading (.load false) (some (.s 1))] ∧
       (∀ u ∈ groveUnits 0, u ≠ .tile (tileAt 0 0) → (s.seqOf u).reqs = []) ∧
       (s.tile (tileAt 0 0)).seq.handlers.flatMap (fun h => h.image.reqs) = [] ∧ s.present (gspAddr 0 64) = true ∧
       s.mem.poisoned (gspAddr 0 64) 8 = false) := by decide


/-! ### Witnesses: control, traps and handlers -/

/-- Tile 0 in a loop whose last bundle is 9, at an index. -/
def looping (k : BitVec 32) : State := onTile (withSeq { run := .running, loops := [⟨5, 9, 3, k⟩] }) { pc := 9 }

theorem witness_BranchesAndTheNextBundle :
    ((looping 0).cur.next = none ∧ (looping 0).cur.loopDone = false ∧ (looping 0).cur.handlers = [] ∧ (looping 0).cur.lands = [] ∧
      (looping 0).cur.branch = none ∧ (looping 0).cur.loops = [⟨5, 9, 3, 0⟩] ∧ (looping 2).cur.loops = [⟨5, 9, 3, 2⟩]) ∧
    (0 : BitVec 32).toNat + 1 < (3 : BitVec 32).toNat ∧ (3 : BitVec 32).toNat ≤ (2 : BitVec 32).toNat + 1 ∧
    (onTile (withSeq { branch := some 7 })).cur.branch = some 7 ∧ (onTile {}).cur.loops.head? = none := by decide

/-- Tile 0 with six levels open, `s1` holding 0 and `s2` 1. -/
def sixLoops : State := onTile (withSeq { s := [(2, 1)], loops := List.replicate 6 ⟨1, 2, 3, 0⟩ })

theorem witness_LoopWords :
    (sixLoops.cur.opnd 1).toNat % 2 ^ 32 = 0 ∧ (sixLoops.cur.opnd 2).toNat % 2 ^ 32 ≠ 0 ∧ sixLoops.cur.loops.length = 6 ∧
      immUnsigned sixLoops.ctx.ext 0 = 0 ∧ immUnsigned sixLoops.ctx.ext 255 ≠ 0 ∧ (looping 0).cur.loops.length ≠ 6 ∧
      (looping 0).cur.handlers = [] ∧ (looping 0).cur.loops = ⟨5, 9, 3, 0⟩ :: [] ∧ (onTile {}).cur.loops = [] := by decide

/-- Tile 0 with one trap found, its vector set or not. -/
def trapped (v : BitVec 11) : State :=
  onTile (withSeq { run := .running, traps := [⟨0x0e, 5, 1, none, none⟩], ctl := { tvec := v } })

theorem witness_TrapsAreTaken :
    (trapped 7).runs (trapped 7).focus = true ∧ (trapped 7).cur.prefixes = [] ∧ (trapped 7).cur.noTrap = false ∧
      (trapped 7).cur.traps = [⟨0x0e, 5, 1, none, none⟩] ∧ ((trapped 7).seqOf (.tile 0)).ctl.tvec ≠ 0 ∧
      ((trapped 7).seqOf (.tile 0)).handlers = [] ∧ ((trapped 0).tile 0).task = none ∧ ((trapped 0).tile 0).seq.ctl.tvec = 0 ∧
      ((trapped 0).grove (groveOf 0)).events.length < 64 ∧ ((trapped 0).grove (groveOf 0)).waiting = [] ∧
      (∀ x ∈ ((trapped 7).seqOf (.tile 0)).traps, x.entry = none) ∧
      (let e : Entry := { word := 0x08014004, slot := .n }
       ((onTile (withSeq { traps := [⟨0x09, 5, 6, none, some e⟩] })).seqOf (.tile 0)).traps = [⟨0x09, 5, 6, none, some e⟩]) ∧
      (∃ h ∈ ((onTile (withSeq { handlers := [⟨.trap, 0, {}⟩], ctl := { tvec := 7 } })).tile 0).seq.handlers, h.kind = .trap) := by decide +kernel

/-- Tile 0 with user interrupt 63 pending. -/
def interrupted (m : Word) : State :=
  onTile (withSeq { run := .running, ctl := { uivec := 9, uipend := 0x8000000000000000, uimask := m } })

/-- The sequencer of grove 0 with one event. -/
def eventWaits : State := onGrove { seq := { run := .running, ctl := { evvec := 9 } }, events := [⟨1, 2⟩] }

theorem witness_InterruptEntryStates :
    ((interrupted 0).runs (.tile 0) = true ∧ (interrupted 0).cur.traps = [] ∧ (interrupted 0).cur.ctl.uivec ≠ 0 ∧
      (interrupted 0).cur.ctl.uipend &&& ~~~(interrupted 0).cur.ctl.uimask ≠ 0 ∧ (interrupted 0).cur.handlers = [] ∧
      (interrupted 0).cur.uiGap = true ∧ (interrupted 0).cur.prefixes = [] ∧ (interrupted 0).cur.noTrap = false) ∧
    (interrupted (BitVec.allOnes 64)).cur.ctl.uipend &&& ~~~(interrupted (BitVec.allOnes 64)).cur.ctl.uimask = 0 ∧
    (eventWaits.runs (.seq 0) = true ∧ eventWaits.cur.traps = [] ∧ (eventWaits.grove 0).events ≠ [] ∧ eventWaits.cur.ctl.evvec ≠ 0 ∧
      eventWaits.cur.handlers = [] ∧ eventWaits.cur.evGap = true ∧ eventWaits.cur.prefixes = [] ∧ eventWaits.cur.noTrap = false) ∧
    ((onGrove {}).grove 0).events = [] := by decide

/-- Tile 0 in a handler, with its return at the head of queue V. -/
def returning (k : HandlerKind) : State :=
  onTile (withSeq { run := .running, handlers := [⟨k, 0, {}⟩], queues := [(7, [{ word := 0x0c000000 }])] }) { word := 0x0c000000 }

theorem witness_ReturnsAndHalts :
    ∀ k ∈ [HandlerKind.trap, .user, .event], (returning k).cur.handlers = [⟨k, 0, {}⟩] ∧ (returning k).cur.reqs = [] ∧
      (returning k).cur.lands = [] ∧ (returning k).cur.lates = [] ∧ (returning k).cur.traps = [] ∧ (returning k).ctx.slot = .v ∧
      (∀ n, (returning k).cur.queues.get [] n = if n = 7 then [(returning k).ctx] else []) ∧ ({} : Image).reqs = [] ∧
      ((returning k).tile 0).engaged = false ∧ ((returning k).grove (groveOf 0)).events.length < 64 := by
  intro k _
  refine ⟨rfl, rfl, rfl, rfl, rfl, rfl, fun n => ?_, rfl, rfl, by show (0 : Nat) < 64; decide⟩
  by_cases h : n = 7 <;> simp [returning, onTile, withSeq, State.cur, State.seqOf, State.tile, KMap.get, h]

/-! ### Witnesses: streams, transfers and counters -/

/-- The geometry of the worked example of the stream commands: 4 rows of 16 elements of format 1 at pane 2. -/
def exampleGeo : Vec := BitVec.ofNat 512 0x1100039000203000000000000002000000000000000000004000010000000000000000000000000000040000000000400000000000000000000000000000000

/-- Tile 0 with pane 2 the engines', issuing `sl.aff st2, g4, ix5`. -/
def feeding : State := onTile { own := [(2, 1)] } { word := 0x02009050, slot := .c, g0 := exampleGeo }

theorem witness_StreamWordsIssue :
    feeding.streamOpen (feeding.command .feed 5) 2 ∧
    firstCause (feeding.readFaults feeding.tileNo readUse feeding.ctx.g0) = none ∧
    firstCause ((onTile {}).readFaults 0 readUse 0) = some 0x14 ∧
    (∃ s : State, ¬ s.streamOpen (s.command .feed 5) 2) :=
  ⟨⟨by decide, by decide, fun p hp => by cases hp⟩, by decide +kernel, by decide +kernel,
    ⟨onTile { str := { cmds := [(2, { kind := .feed, entry := {} })] } }, fun h => by have := h.1; revert this; decide⟩⟩

/-! ### Witnesses: moving words -/

/-- The configuration of the worked example of R65 and R74: `e(2,3)` adds 5 to the words of `ix0`, and an edge to `ox1`. -/
def exampleImage : CfgImage :=
  { elems := [(19, 0x109001249C5000000000000000000005)], edges := [0x300130C680000000, 0x04cd10c680000000] }

/-- Tile 0 with that configuration active, words on its two edges and a task open. -/
def arrayTile (a b : List Slot512) : Tile :=
  { seq := { run := .running, ctl := { topen := true } }, task := some {}, own := [(2, 1)]
    fab := { slots := [(0, exampleImage)], active := some 0, edges := [(0, a), (1, b)] } }

/-- A command of the example's geometry. -/
def exampleCmd (k : CmdKind) (port : Nat) : Cmd := { kind := k, entry := {}, geo := exampleGeo, port := port }

/-- Tile 0 with a command under handle 2. -/
def commanded (x : Tile) (c : Cmd) : State := onTile { x with str := { x.str with cmds := [(2, c)] } }

theorem witness_FeedsDeliver :
    let s := commanded (arrayTile [] []) (exampleCmd .feed 0)
    s.cmd? 0 2 = some (exampleCmd .feed 0) ∧ (s.tile 0).still = false ∧ (exampleCmd .feed 0).pos < (exampleCmd .feed 0).words ∧
      s.portReady 0 0 = true ∧ s.hasToken 0 0 = true ∧ (exampleCmd .feed 0).header = true ∧
      (exampleCmd .feed 0).pos % gPlen (exampleCmd .feed 0).geo = 0 ∧ gFmt (exampleCmd .feed 0).geo ≠ 6 ∧
      (match (s.nextSlot 0 (exampleCmd .feed 0)).2 with | .ok _ => true | _ => false) = true := by
  refine ⟨rfl, by decide, by decide +kernel, by decide, by decide, rfl, by decide +kernel, by decide +kernel, by decide +kernel⟩

/-- Tile 0 whose handle 2 drains `ox1`, with a slot at its head. -/
def draining (k : CmdKind) (w : Slot512) : State := commanded (arrayTile [] [w]) (exampleCmd k 1)

/-- The last of the example's 64 elements, 32 bits each, in the last lane of a word. -/
def lastElement : Cmd := { exampleCmd .drain 1 with pos := 63, lane := 15 }

theorem witness_DrainsTakeWords :
    ((draining .drain ⟨1, 0, 0⟩).tile 0).image.outPort 1 = some (1, 0x04cd10c680000000) ∧
    (draining .drain ⟨1, 0, 0⟩).residueFree 0 (exampleCmd .drain 1) = true ∧ (draining .drop ⟨0, 0, 0⟩).residueFree 0 (exampleCmd .drop 1) = true ∧
    ((draining .drain ⟨1, 0, 0⟩).tile 0).still = false ∧ ((draining .drain ⟨1, 0, 0⟩).tile 0).headOf 1 = some ⟨1, 0, 0⟩ ∧
    (⟨1, 0, 0⟩ : Slot512).parityBad = false ∧ ({ exampleCmd .drain 1 with pos := 64 } : Cmd).count ≤ ({ exampleCmd .drain 1 with pos := 64 } : Cmd).pos ∧
    pairOk 0x14 exampleGeo = false ∧ (exampleCmd .drain 1).members = [] ∧ (exampleCmd .drain 1).due = [] ∧
    (match ((draining .drain ⟨0, 7, 0⟩).formLanes 0 lastElement ⟨1, 0⟩ 7 1).2 with | (c, .ok _) => decide (c.due ≠ []) | _ => false) = true ∧
    ((draining .drain ⟨2, 0, 0⟩).tile 0).headOf 1 = some ⟨2, 0, 0⟩ ∧ ((draining .drop ⟨0, 0, 0⟩).tile 0).headOf 1 = some ⟨0, 0, 0⟩ ∧
    ((draining .drain ⟨0, 0, 0⟩).tile 0).str.ox.get? 1 = none ∧
    ((onTile { str := { ox := [(1, ⟨1, 0⟩)] } }).tile 0).str.ox.get? 1 = some ⟨1, 0⟩ ∧ pairOk 1 exampleGeo = true ∧
    (exampleCmd .drain 1).pos < (exampleCmd .drain 1).count ∧ lastElement.count ≤ 64 ∧
    gSpace exampleGeo = 0 ∧ gEnc exampleGeo = 0 ∧ gFmt exampleGeo = 1 ∧ lastElement.pos + 1 = lastElement.count ∧
    lastElement.lane < 64 / gBytes exampleGeo ∧ (gAddr exampleGeo 63).toNat + gBytes exampleGeo ≤ 2 ^ 20 ∧
    (arrayTile [] []).enginesReach (gAddr exampleGeo 63).toNat (gBytes exampleGeo) = true := by
  refine ⟨rfl, ?_, ?_, rfl, rfl, ?_, ?_, ?_, rfl, rfl, ?_, rfl, rfl, rfl, rfl, ?_⟩
  all_goals and_intros <;> decide +kernel

/-- A geometry of one dimension, of contiguous elements in a tile's scratchpad, with other fields. -/
def lineGeo (fmt base n step rest : Nat) : Vec := BitVec.ofNat 512 (fmt * 2 ^ 504 + base * 2 ^ 384 + n * 2 ^ 288 + step * 2 ^ 128 + rest)

/-- A command of a geometry, under way. -/
def cmdOf (k : CmdKind) (g : Vec) : Cmd := { kind := k, entry := {}, geo := g }

/-- The last word of the example's feed, its first element read ahead. -/
def lastWord : Cmd := { exampleCmd .feed 0 with pos := 3, header := false, ahead := [(48, [1, 2, 3, 4])] }

theorem witness_FeedsDeliver_data :
    let s := commanded (arrayTile [] []) lastWord
    s.cmd? 0 2 = some lastWord ∧ lastWord.pos < lastWord.words ∧ s.portReady 0 0 = true ∧ s.hasToken 0 0 = true ∧
      gSpace exampleGeo = 0 ∧ gFmt exampleGeo = 1 ∧ gBytes exampleGeo = 4 ∧ lastWord.count = 64 ∧
      (∀ e ∈ (s.tile 0).str.cmds, e.2.kind ≠ .bar) ∧ (∀ e ∈ lastWord.ahead, e.2.length = 4) ∧
      (∀ j ∈ [48, 49, 62, 63], (gAddr exampleGeo j).toNat + 4 ≤ 2 ^ 20 ∧ (s.tile 0).enginesReach (gAddr exampleGeo j).toNat 4 = true ∧
        s.mem.poisoned (tspAddr 0 (gAddr exampleGeo j).toNat) 4 = false) ∧
      lastWord.readsAhead = true ∧ lastWord.standAt ≤ 50 ∧ (match (s.readElem 0 lastWord.reader 50).2 with | .ok l => decide (l = [0, 0, 0, 0]) | _ => false) = true := by
  decide +kernel

/-- An `s.const` of ten words at address 0x2000, its word read or not. -/
def constCmd (r : List Byte) : Cmd := { cmdOf .const (lineGeo 1 0x2000 160 0 0) with reply := r, header := decide (r = []), port := 0 }

/-- Tile 0 that recirculates `ox1` to `ix0`, with a word at its head. -/
def circling (w : Slot512) : State := commanded (arrayTile [] [w]) (cmdOf .recirc 1)

/-- A multicast to `ix0` of the tile's own, one word ahead in its window. -/
def castOne : Cmd := { exampleCmd .mcPort 0 with members := [0], window := [⟨0, 7, 0⟩], offs := [0], total := 1 }

theorem witness_FeedsDeliver_others :
    (∀ r ∈ [[], List.replicate 64 (3 : Byte)], let s := commanded (arrayTile [] []) (constCmd r)
      s.cmd? 0 2 = some (constCmd r) ∧ (constCmd r).ahead = [] ∧ gSpace (constCmd r).geo = 0 ∧ (gBase (constCmd r).geo).toNat + 64 ≤ 2 ^ 20 ∧
        (s.tile 0).enginesReach (gBase (constCmd r).geo).toNat 64 = true ∧ s.mem.poisoned (tspAddr 0 (gBase (constCmd r).geo).toNat) 64 = false ∧
        (∀ e ∈ (s.tile 0).str.cmds, e.2.kind ≠ .bar) ∧ (constCmd r).pos < (constCmd r).words ∧ s.portReady 0 0 = true ∧ s.hasToken 0 0 = true) ∧
    (constCmd (List.replicate 64 3)).header = false ∧
    (∀ w ∈ [(⟨0, 7, 0⟩ : Slot512), ⟨2, 0, 0⟩], let s := circling w
      s.cmd? 0 2 = some (cmdOf .recirc 1) ∧ (s.tile 0).image.outPort (gf (cmdOf .recirc 1).geo 0 4) = some (1, 0x04cd10c680000000) ∧
        (s.tile 0).headOf 1 = some w ∧ w.parityBad = false ∧ s.portOpen 0 0 = true ∧ s.hasToken 0 0 = true) ∧
    (let s := commanded (arrayTile [] []) castOne
     s.cmd? 0 2 = some castOne ∧ 0 ∈ castOne.live ∧ (s.castTiles 0 castOne)[0]? = some 0 ∧ castOne.window[0]? = some ⟨0, 7, 0⟩ ∧
       castOne.offs[0]? = some 0 ∧ s.portReady 0 0 = true ∧ s.hasToken 0 0 = true ∧ castOne.far - castOne.near < (s.tile 0).seq.ctl.mclag.toNat ∧
       ((onTile (withSeq { ctl := { mclag := 0 } })).tile 0).seq.ctl.mclag.toNat ≤ castOne.far - castOne.near ∧
       castOne.accepted.get 0 0 = castOne.far) := by
  decide +kernel

/-- A copy of one element from address 0x2000 to 0x2040. -/
def copyCmd : Cmd := { cmdOf .copy (lineGeo 1 0x2000 1 0 0) with other := lineGeo 1 0x2040 1 0 0 }

/-- A residue register's words at address 0x2000, from one of them on. -/
def resCmd (k : CmdKind) (p : Nat) : Cmd := { cmdOf k (lineGeo 1 0x2000 272 4 0) with pos := p, buf := List.replicate (64 * p) 1 }

/-- A geometry of one word of channel 3, which holds words 0 and 1 of the scratchpad. -/
def tokGeo : Vec := BitVec.ofNat 512 (5 * 2 ^ 508 + 3 * 2 ^ 112)

theorem witness_DrainsTakeWords_copies :
    (let s := commanded (arrayTile [] []) copyCmd
     let a := (gAddr copyCmd.source 0).toNat
     let b := (gAddr copyCmd.target 0).toNat
     s.cmd? 0 2 = some copyCmd ∧ copyCmd.pos < copyCmd.count ∧ gEnc copyCmd.target = 0 ∧ gFmt copyCmd.geo = gFmt copyCmd.other ∧
       a ≠ b ∧ a + 4 ≤ 2 ^ 20 ∧ b + 4 ≤ 2 ^ 20 ∧ (s.tile 0).enginesReach a 4 = true ∧ (s.tile 0).enginesReach b 4 = true ∧
       s.mem.poisoned (tspAddr 0 a) 4 = false ∧ copyCmd.due = [] ∧ copyCmd.written = [] ∧ (∀ e ∈ (s.tile 0).str.cmds, e.2.kind ≠ .bar)) ∧
    (∀ k ∈ [CmdKind.resOut, .resIn], ∀ p ∈ [0, 16], let c := resCmd k p
      let s := commanded (arrayTile [] []) c
      s.cmd? 0 2 = some c ∧ s.residueFree 0 c = true ∧ c.pos < 17 ∧ c.due = [] ∧ c.members = [] ∧
        (gBase c.geo + .ofNat 72 (64 * c.pos)).toNat + 64 ≤ 2 ^ 20 ∧ (s.tile 0).enginesReach (gBase c.geo + .ofNat 72 (64 * c.pos)).toNat 64 = true ∧
        s.mem.poisoned (tspAddr 0 (gBase c.geo + .ofNat 72 (64 * c.pos)).toNat) 64 = false) := by
  decide +kernel

theorem witness_DrainsTakeWords_stores :
    (let s : State := { commanded (arrayTile [] []) (cmdOf .tok tokGeo) with groves := [(0, { chans := [(3, channelWord)] })] }
     let w := { s with mem := { s.mem with present := [gspAddr 0 0] } }
     s.cmd? 0 2 = some (cmdOf .tok tokGeo) ∧ (∀ e ∈ (s.tile 0).str.cmds, (cmdOf .tok tokGeo).num ≤ e.2.num) ∧ (cmdOf .tok tokGeo).inTask = false ∧
       (match (s.put 0 false tokGeo (gBase tokGeo) (leBytes 64 7)).2 with | .ok _ => true | _ => false) = true ∧
       gSpace tokGeo = 5 ∧ gId tokGeo = 3 ∧ chanValid channelWord = true ∧ 0 + 64 ≤ chanSize channelWord * 64 ∧
       (s.grove (groveOf 0)).channelOf (chanBase channelWord * 64) ≠ none ∧ s.present (gspAddr 0 (chanBase channelWord * 64)) = false ∧
       w.present (gspAddr 0 (chanBase channelWord * 64)) = true) ∧
    (∃ s : State, ∃ e ∈ (s.tile 0).str.cmds, e.2.num < ({ cmdOf .tok tokGeo with num := 1 } : Cmd).num) ∧
    (∀ p ∈ [0, 1], let c : Cmd := { cmdOf .wb (lineGeo 1 0x2000 16 4 (5 * 2 ^ 112)) with pos := p }
      let s := commanded (arrayTile [] []) c
      s.cmd? 0 2 = some c ∧ c.ended = false ∧ c.ahead = [] ∧ (s.tile 0).mx.running = none ∧ gField c.geo % 4096 + c.pos < 4096 ∧
        (gCount c.geo * gBytes c.geo + 63) / 64 = 1 ∧
        (match (s.wbNext 0 c (gField c.geo % 4096)).2 with | .ok _ => true | _ => false) = true) ∧
    (let c : Cmd := { cmdOf .mcGeo (lineGeo 1 0x2000 17 4 0) with
       other := lineGeo 1 0x2100 17 4 0, members := [0], accepted := [(0, 1)], window := [⟨0, 9, 0⟩], offs := [0], total := 2 }
     let s := commanded (arrayTile [] []) c
     s.cmd? 0 2 = some c ∧ c.live = [0] ∧ (s.castTiles 0 c)[0]? = some 0 ∧ c.total = c.accepted.get 0 0 + 1 ∧ (s.tile 0).seq.ctl.mclag ≠ 0 ∧
       gSpace c.other = 0 ∧ gFmt c.other = gFmt c.geo ∧ gCount c.geo = c.accepted.get 0 0 * (64 / gBytes c.geo) + 1 ∧
       (gAddr c.other 16).toNat + 4 ≤ 2 ^ 20 ∧ (s.tile 0).enginesReach (gAddr c.other 16).toNat 4 = true) := by
  refine ⟨by decide +kernel, ⟨commanded {} (exampleCmd .copy 0), (2, exampleCmd .copy 0), List.mem_singleton.mpr rfl, by decide⟩, by decide +kernel, by decide +kernel⟩

/-- Noise-shaped stores through the machine: 1 + 2^-9 scaled by 4 to `bf16` leaves R61's first row in memory and in the residue
register. -/
theorem test_noise_store :
    let g := lineGeo 2 0x2000 1 2 (2 * 2 ^ 502 + 2 * 2 ^ 494)
    let r := (commanded (arrayTile [] []) (cmdOf .drain g)).formed 0 (cmdOf .drain g) 1 0 0x3F804000 0
    r.2 = 0x3F80 ∧ ((r.1.tile 0).nz.get {} 0).lanes.get 0 0 = 0x3B000000 ∧ ((r.1.tile 0).nz.get {} 0).count = 0 := by decide +kernel

theorem witness_CompletionsReport :
    let ok := { exampleCmd .copy 0 with done := true }
    let bad := { exampleCmd .copy 0 with done := true, cause := 0x15 }
    (commanded {} ok).cmd? 0 2 = some ok ∧ (commanded {} bad).cmd? 0 2 = some bad ∧
      (commanded {} (exampleCmd .copy 0)).cmd? 0 2 = some (exampleCmd .copy 0) ∧ (exampleCmd .copy 0).done = false ∧
      ok.done = true ∧ bad.done = true ∧ ok.cause = 0 ∧ bad.cause ≠ 0 ∧ ok.unacked = [] ∧ ok.resend = [] ∧ ok.kind ≠ .recirc :=
  ⟨rfl, rfl, rfl, rfl, rfl, rfl, rfl, by decide, rfl, rfl, by decide⟩

/-- A multicast of two members, one of them 256 words ahead, held since cycle 0. -/
def castCmd : Cmd := { exampleCmd .mcPort 0 with members := [0, 1], accepted := [(1, 256)], lagSince := [(0, 0)] }

theorem witness_CommandsAreStopped :
    (commanded {} (exampleCmd .copy 0)).cmd? 0 5 = none ∧ (commanded {} (exampleCmd .copy 0)).cmd? 0 2 = some (exampleCmd .copy 0) ∧
    ((onTile {}).tile 0).str.cmds = [] ∧ ((commanded {} (exampleCmd .copy 0)).tile 0).str.cmds ≠ [] ∧
    (∀ e ∈ ((commanded {} (exampleCmd .copy 0)).tile 0).str.cmds, e.1 < 64 ∧ e.2.done = false) ∧
    ({ exampleCmd .copy 0 with done := true } : Cmd).unacked = [] ∧ ({ exampleCmd .copy 0 with done := true, unacked := [(0, 0)] } : Cmd).unacked ≠ [] ∧
    (let s := commanded {} castCmd
     s.cmd? 0 2 = some castCmd ∧ castCmd.done = false ∧ castCmd.cause = 0 ∧ 0 ∈ castCmd.live ∧
       (s.tile 0).seq.ctl.mclag.toNat ≤ castCmd.far - castCmd.near ∧
       (s.tile 0).seq.ctl.mclag.toNat ≤ castCmd.far - castCmd.accepted.get 0 0 ∧ (s.castTiles 0 castCmd)[0]? = some 0 ∧
       s.cycle - castCmd.lagSince.get s.cycle 0 < (s.grove (groveOf 0)).replylimit.toNat ∧
       (s.grove (groveOf 0)).replylimit.toNat ≤ 0x100000 - castCmd.lagSince.get s.cycle 0 ∧
       (s.tile 0).inTask = false ∧ ((commanded (arrayTile [] []) castCmd).tile 0).inTask = true) := by
  refine ⟨rfl, rfl, rfl, nofun, ?_, rfl, nofun, rfl, rfl, rfl, ?_, ?_, ?_, ?_, ?_, ?_, ?_, ?_⟩
  all_goals decide +kernel

/-- Tile 0 with a transfer at the head of slot N. -/
def transferring (w : BitVec 32) (p : Addr) (b : Bool) : State :=
  onTile { seq := { run := .running, queues := [(6, [{ word := w, slot := .n, va := p, begun := b }])] }, own := [(0, 1), (255, 1)]
           landing := [(1, [⟨3, 7⟩])] } { word := w, slot := .n, va := p, begun := b }

theorem witness_TransfersMoveWords_issue :
    (∀ p ∈ [(0 : Addr), 0xfffc0, 0xfffc1, 0xfff80, 0x1000], (transferring 0x02100300 p false).cur.queues.get [] 6 =
      (transferring 0x02100300 p false).ctx :: []) ∧
    (transferring 0 0 true).ctx.begun = true ∧ (transferring 0 0 false).ctx.begun = false ∧ (transferring 0 0 false).cur.heldTransfer = none ∧
    ({ handlers := [⟨.trap, 0, { queues := [(6, [{ word := 0x02100300, slot := .n, begun := true }])] }⟩] } : Seq).heldTransfer.isSome ∧
    2 ^ 20 < (0xfffc1 : Addr).toNat + 64 ∧ (0xfff81 : Addr).toNat % 64 ≠ 0 ∧
    ((transferring 0 0 false).tile 0).enginesReach 0x1000 64 = false ∧ ((transferring 0 0 false).tile 0).enginesReach 0xfffc0 64 = true ∧
    (transferring 0 0 false).groveGroup (groveOf 0) 5 = none ∧
    (({ onTile {} with dies := [(0, { groups := [(5, BitVec.twoPow 256 255 + 1)] })] } : State).groveGroup (groveOf 0) 5).isSome := by
  refine ⟨fun p _ => rfl, rfl, rfl, ?_, ?_, ?_, ?_, ?_, ?_, ?_, ?_⟩
  all_goals decide +kernel

theorem witness_TransfersMoveWords_words :
    (let s := transferring 0x02100300 0 true
     (s.tile 0).seq.queues.get [] 6 = [{ word := 0x02100300, slot := .n, begun := true }] ∧ (s.tile 0).still = false ∧
       (s.tile 0).seq.heldTransfer = none ∧ (s.tile 0).landing? = false ∧ s.physOf (groveOf 0) 1 = 1 ∧ (s.tile 0).enginesReach 0 64 = true ∧
       s.mem.poisoned (tspAddr 0 0) 64 = false ∧ ((s.tile 1).landed (s.logicalOf 0)).length < 4 ∧
       (s.tile 0).landed 1 = [] ++ ⟨3, 7⟩ :: []) ∧
    decodeN 0x02010300 = some (.send ⟨0, 0, 0⟩ 1 0 3 0) ∧ decodeN 0x03010300 = some (.recv ⟨0, 0, 0⟩ 1 0 3 0) ∧
    decodeN 0x04010300 = some (.recvadd ⟨0, 0, 0⟩ 1 0 3 0) ∧
    4 ≤ ((onTile { landing := [(0, List.replicate 4 ⟨1, 0⟩)] }).tile 0 |>.landed 0).length :=
  ⟨⟨rfl, rfl, by decide, rfl, by decide, by decide, by decide, by decide, rfl⟩, by decide, by decide, by decide, by decide⟩

/-- A `cnt.wait ac5, #4` that waits since cycle 0. -/
def counting (n : BitVec 32) : State :=
  onTile { seq := { run := .running, queues := [(6, [{ word := 0x08014004, slot := .n, begun := true }])] }, ac := [(5, n)] }
    { word := 0x08014004, slot := .n, begun := true }

theorem witness_Counters :
    (0 ≤ (((counting 4).tile 0).ac.get 0 5 - .ofNat 32 (immUnsigned none 4)).toInt) ∧
    (((counting 3).tile 0).ac.get 0 5 - .ofNat 32 (immUnsigned none 4)).toInt < 0 ∧ (counting 3).ctx.begun = true ∧
    ((counting 3).tile 0).seq.queues.get [] 6 = [{ word := 0x08014004, slot := .n, begun := true }] ∧
    decodeN 0x08014004 = some (.cntWait ⟨0, 0, 0⟩ 5 4) ∧ ((counting 3).tile 0).still = false ∧
    (counting 3).cycle - max 0 (((counting 3).tile 0).cntSince.get 0 5) < ((counting 3).grove (groveOf 0)).replylimit.toNat ∧
    ((counting 3).grove (groveOf 0)).replylimit.toNat ≤ 0x100000 - max 0 (((counting 3).tile 0).cntSince.get 0 5) :=
  ⟨by decide, by decide, rfl, rfl, by decide, rfl, by decide, by decide⟩

/-! ### Witnesses: the matrix unit -/

/-- Four 32-bit integers at pane 2. -/
def wordsGeo : Vec := BitVec.ofNat 512 0x9000000000000000000000000002000000000000000000000000004000000000000000000000000000000000000000400000000000000000000000000000000

/-- A routine at microword 4. -/
def someRoutine : Routine := { index := 5, upc := 4, bar := 40, inTask := false }

/-- Tile 0 with a matrix unit. -/
def matrixTile (m : Matrix) (e : Entry := {}) : State := onTile { seq := { run := .running }, mx := m, own := [(2, 1)] } e

theorem witness_MatrixSetupAndAccumulatorWrites :
    ((matrixTile {}).tile 0).mx.running = none ∧ ((matrixTile { running := some someRoutine }).tile 0).mx.running ≠ none ∧
    (matrixTile {} { g0 := wordsGeo }).mupFault wordsGeo 1020 = none ∧ (matrixTile {} { g0 := wordsGeo }).mupFault wordsGeo 1021 = some 0x0b ∧
    firstCause (maccFaults exampleGeo ++ (matrixTile {}).writeFaults 0 { spaces := [0, 1, 2, 3], writesMem := true } exampleGeo) = none ∧
    firstCause (maccFaults 0 ++ (matrixTile {}).writeFaults 0 { spaces := [0, 1, 2, 3], writesMem := true } 0) = some 0x14 := by
  refine ⟨rfl, nofun, by decide +kernel, by decide +kernel, by decide +kernel, by decide +kernel⟩

theorem witness_MatrixCallsStatusAndAbort :
    (matrixTile { table := [(5, 0x8004)] }).mx 0 = { table := [(5, 0x8004)] } ∧ (0x8004 : BitVec 16).getLsbD 15 = true ∧
    (0x0004 : BitVec 16).getLsbD 15 = false ∧ ((matrixTile { running := some someRoutine }).tile 0).mx.running = some someRoutine ∧
    someRoutine.gang = none ∧ ((matrixTile {}).tile 0).mx.mups = [] ∧ ((matrixTile {}).tile 0).mx.mepis = [] :=
  ⟨rfl, by decide, by decide, rfl, rfl, rfl, rfl⟩

theorem witness_MicroControlAndWaits_control :
    (matrixTile { running := some someRoutine }).microReady someRoutine ∧ shapeOk 0x0010000000000000 = true ∧
    shapeOk 0x0100000000000000 = false ∧ ((0 : Word).toNat % 2 ^ 32 = 0) ∧ (0xffffffff : Word).toNat % 2 ^ 32 ≠ 0 ∧
    ({} : Matrix).skipLoop (1023 - 4) 0 5 = none ∧ ({ store := [(5, 0x28000000)] } : Matrix).skipLoop (1023 - 4) 0 5 = some 6 ∧
    someRoutine.gang = none ∧ ({} : Matrix).bankHeld 0 = false ∧
    ({ started := 2, tokens := [⟨0, 41, 1, none, exampleCmd .drain 0⟩] } : Matrix).bankHeld 0 = true ∧
    (({ onTile {} with dies := [(0, { gangs := [(12, ⟨5, 44, 0, [0, 1], []⟩)] })] } : State).die (dieOf (groveOf 0))).gangs.get? 12 =
      some ⟨5, 44, 0, [0, 1], []⟩ ∧
    (List.replicate 4 (⟨1, 2⟩ : MicroLoop)).length = 4 ∧ 1 < (⟨1, 2⟩ : MicroLoop).left ∧ (⟨1, 1⟩ : MicroLoop).left ≤ 1 := by
  refine ⟨⟨rfl, ?_⟩, ?_, ?_, ?_, ?_, ?_, ?_, rfl, rfl, ?_, rfl, ?_, ?_, ?_⟩
  all_goals decide +kernel

/-- Tile 0 whose routine stands before a wait on barrier 7. -/
def barrierTile (b : Barrier) (begun : Bool) : State :=
  onTile { seq := { run := .running, bars := [(7, b)] }, mx := { running := some { someRoutine with begun := begun } } }

theorem witness_MicroControlAndWaits_waits :
    (barrierTile { init := true } false).microReady { someRoutine with begun := false } ∧
    ((barrierTile { init := true, waits := [(9, .pending)] } true).tile 0 |>.seq.bar 7).waits.get? 9 = some .pending ∧
    ((barrierTile { init := true, waits := [(9, .released 0 0 none)] } true).tile 0 |>.seq.bar 7).waits.get? 9 = some (.released 0 0 none) ∧
    ((barrierTile { init := true, waits := [(9, .released 0x1a 3 none)] } true).tile 0 |>.seq.bar 7).waits.get? 9 = some (.released 0x1a 3 none) ∧
    ((barrierTile { init := true } false).tile 0 |>.seq.bar 7).init = true ∧ ((barrierTile {} false).tile 0 |>.seq.bar 8).init = false :=
  ⟨⟨rfl, by decide⟩, rfl, rfl, rfl, rfl, rfl⟩

/-- A shape of one step of 4 `f32` values by one row and one column, and panels of it. -/
def smallShape : Word := 0x0010000000000000

theorem witness_MicroData :
    ((matrixTile { running := some someRoutine, shape := smallShape }).microReady someRoutine) ∧
    shSteps smallShape = 1 ∧ shRows smallShape = 1 ∧
    (matrixTile { shape := smallShape }).readRows 0 1 4 [0x2000] = .ok [[0]] ∧
    (matrixTile { shape := smallShape }).readRows 0 1 4 [0x1000] = .error 0x0a ∧
    (match ((matrixTile { shape := smallShape, active := [(0, 0x2000)] }).readMask 0 0).2 with | none => true | _ => false) = true ∧
    (match (matrixTile {}).wbValues 0 0 0 0 with | .ok _ => true | _ => false) = true ∧
    (match ({ matrixTile {} with mem := { poison := [wbAddr 0 0] } } : State).wbValues 0 0 0 1 with | .error c => decide (c = 0x13) | _ => false) = true ∧
    ({} : Matrix).bankHeld 0 = false ∧ ({} : Matrix).panelA = none ∧ pairTypes 1 1 = true ∧ pairTypes 1 2 = false ∧
    (let s := matrixTile { shape := smallShape }
     shField (s.mx 0 |>.reg 0) 40 12 = 0 ∧ shCols (s.mx 0).shape ≤ 32 ∧
       (match s.sideRows 0 false 0 0 0 (shRows smallShape) (shCols smallShape) with | (_, .ok _) => true | _ => false) = true ∧
       (s.drainRows 0 false ⟨0, 0, 0, 4, 0x2000, 1, false, false⟩ 0 [[0]]).2 = none ∧
       (s.drainRows 0 false ⟨0, 0, 0, 4, 0x1000, 1, false, false⟩ 0 [[0]]).2 = some 0x0a ∧
       s.mtspFault 0 0x2000 4 4 false = none ∧ s.mtspFault 0 0x2002 4 4 false = some 0x09 ∧ s.mtspFault 0 0xffffc 8 4 false = some 0x0b) := by
  refine ⟨⟨rfl, ?_⟩, ?_, ?_, ?_, ?_, ?_, ?_, ?_, rfl, rfl, ?_, ?_, ?_, ?_, rfl, ?_, ?_, ?_, ?_, ?_⟩
  all_goals decide +kernel

/-- A panel of one row of two values, and one of one column of them. -/
def pairPanel (l : List (List Word)) : Panel := ⟨1, 0, 2, 1, l⟩

theorem witness_MicroData_arithmetic :
    (let a := pairPanel [[0x3f800000, 0x40000000]]
     let b := pairPanel [[0x40400000], [0x40800000]]
     b.cols ≤ 64 ∧ 0 < a.vals.length ∧ 0 < b.cols ∧ a.vals.length ≤ 64 ∧ (b.ty = 1 ∧ a.ty = 1) ∧
       cellPat (({} : Matrix).step 0 a b |>.bank 0) false 0 0 = 0x41300000) ∧
    (let ps : List (XVal × XVal) := [(.fin false 1 0, .fin false 3 0), (.fin true 1 0, .fin false 3 0)]
     (∀ p ∈ ps, (∃ n m e, p.1 = .fin n m e) ∧ ∃ n m e, p.2 = .fin n m e) ∧ stepSum (.fin true 0 0) ps 0 false = 0) ∧
    stepSum (.fin true 0 0) [(.fin true 0 0, .fin false 1 0)] 5 false = 0x80000000 ∧
    stepSum .nan [] 0 true = 0x7FF8000000000000 ∧ stepSum (.inf true) [(.inf false, .fin false 1 0)] 0 false = 0x7FC00000 ∧
    stepSum (.inf true) [] 0 false = 0xFF800000 ∧ stepSum (.fin false 1 0) [(.inf false, .fin false 0 0)] 0 false = 0x7FC00000 := by
  refine ⟨by decide +kernel, ⟨?_, by decide +kernel⟩, by decide +kernel, by decide +kernel, by decide +kernel, by decide +kernel, by decide +kernel⟩
  simp

/-- Sixty-four `f32` values at pane 2, as `macc` writes them. -/
def maccCmd : Cmd := exampleCmd .drain 0

/-- A token behind a routine not yet ended. -/
def someToken (c : Option (List Word)) : Token := ⟨0, 41, 1, c, maccCmd⟩

/-- Sixteen bytes at pane 2. -/
def bytesGeo : Vec := BitVec.ofNat 512 0xb000000000000000000000000002000000000000000000000000010000000000000000000000000000000000000000100000000000000000000000000000000

theorem witness_MatrixLoadsComplete :
    ((matrixTile {}).tile 0).landing? = false ∧ ((onTile { preempt := some .saved }).tile 0).landing? = true ∧ ((matrixTile {}).tile 0).still = false ∧
    ((matrixTile {}).tile 0).mx.tokens = [] ∧ ((matrixTile { tokens := [someToken (some [])] }).tile 0).mx.tokens = [someToken (some [])] ∧
    (someToken none).cells = none ∧ (someToken none).cmd.frozen = false ∧ (someToken none).cmd.resend = [] ∧
    (({ running := some someRoutine, started := 1 } : Matrix).tokenFree (someToken none) = false) ∧ (({ started := 2 } : Matrix).tokenFree (someToken none) = true) ∧
    (∀ own ∈ [true, false], let s : State := if own then matrixTile {} else onTile {}
      let f := s.formAll 0 maccCmd 1 0 [7]
      (match (f.1.performFrom 0 f.2.1 f.2.1.due).2 with
        | (c, .ok _) => own && decide (c.unacked = [])
        | (_, .stop e _) => !own && decide (e = 0x0a)
        | _ => false) = true) ∧
    ((matrixTile {}).fetch 0 false wordsGeo (gAddr wordsGeo 0) 4).2 = .ok [0, 0, 0, 0] ∧
    ((onTile {}).fetch 0 false wordsGeo (gAddr wordsGeo 0) 4).2 = .stop 0x0a none ∧ gCount wordsGeo = 4 ∧
    (matrixTile {}).mepiFault 0 wordsGeo = true ∧ (matrixTile {}).mepiFault 0 bytesGeo = false ∧ gCount bytesGeo = 16 ∧
    epiFault (wordsOf128 (List.replicate 16 0)) = some 0 ∧ decodeMicro ((matrixTile {}).mx 0 |>.store.get 0 4) = none ∧
    someRoutine.gang = none ∧ someRoutine.atEnd = false := by
  refine ⟨rfl, rfl, rfl, rfl, rfl, rfl, rfl, rfl, ?_, ?_, ?_, ?_, ?_, ?_, ?_, ?_, ?_, ?_, ?_, rfl, rfl⟩
  all_goals decide +kernel

/-- A die whose group 12 has members 4, 5 and 6, as in the example of R331, with an instance open or not. -/
def gangState (g : KMap Gang) (m : Matrix) : State :=
  { tiles := [(4, { seq := { run := .running }, mx := m })], focus := .tile 4, ctx := { va := 0x2c0c }
    dies := [(0, { groups := [(12, 0x8000000000000000000000000000000000000000000000000000000000000070)], gangs := g })] }

theorem witness_GangsRunTogether :
    (let s := gangState [] { table := [(5, 0x8004)] }
     s.ctx.va.toNat % 2 ^ 64 / 2 ^ 19 = 0 ∧ s.ctx.va.toNat % 256 = 12 ∧ s.inGroup 4 12 = true ∧ s.inGroup 4 13 = false ∧
       ((s.tile 4).mx.table.get 0 5).getLsbD 15 = true ∧ (s.die 0).gangs.get? 12 = none ∧ (s.tile 4).mx.running = none ∧
       (s.tile 4).mx.mups = [] ∧ (s.tile 4).mx.mepis = [] ∧ ((gangState [] { running := some someRoutine }).tile 4).mx.running ≠ none) ∧
    (let s := gangState [(12, ⟨5, 44, 0, [0, 1], []⟩)] {}
     (s.die 0).gangs.get? 12 = some ⟨5, 44, 0, [0, 1], []⟩ ∧ s.ctx.va.toNat / 256 % 2048 = 44 ∧ (⟨5, 44, 0, [0, 1], []⟩ : Gang).deadline ≤ s.cycle ∧
       s.groupTiles 0 12 = [4, 5, 6] ∧
       (List.range (s.groupTiles 0 12).length).find? (fun j => !([0, 1] : List Nat).contains j) = some 2 ∧
       (∀ k, k < (s.groupTiles 0 12).length → k ∈ [0, 1, 2] ∧ s.stagedOk (((s.groupTiles 0 12)[k]?).getD 0) = true)) := by
  decide +kernel

/-! ### Witnesses: barriers, control registers, landings and tasks -/

/-- Tile 0 with a `bar.wait b7` at the head of slot V. -/
def waiting (b : Barrier) (begun : Bool) : State :=
  onTile { seq := { run := .running, bars := [(7, b)], queues := [(7, [{ word := 0x04000e00, begun := begun }])] } }
    { word := 0x04000e00, begun := begun }

theorem witness_BarrierWords :
    (waiting {} false).ctx.slot = .v ∧ (7 : BitVec 11) ≠ 0 ∧ ((waiting {} false).cur.bar 7).init = false ∧
    ((waiting { init := true } false).cur.bar 7).init = true ∧
    (waiting { init := true } false).cur.queues.get [] 7 = (waiting { init := true } false).ctx :: [] ∧
    ((waiting { init := true, waits := [(0, .pending)] } true).cur.bar 7).waits.get? 0 = some .pending ∧
    ((waiting { init := true, waits := [(0, .released 0 0 none)] } true).cur.bar 7).waits.get? 0 = some (.released 0 0 none) ∧
    ((waiting { init := true, waits := [(0, .released 0x1a 0x1302 none)] } true).cur.bar 7).waits.get? 0 = some (.released 0x1a 0x1302 none) :=
  ⟨rfl, by decide, rfl, rfl, rfl, rfl, rfl, rfl⟩

/-- Tile 0 with pane 1 its spill carve-out. -/
def carved (x : Streams) : State := onTile { seq := { run := .running, ctl := { spillbase := 1, spillpanes := 1 } }, str := x }

theorem witness_OwnFenceSwait :
    (∃ p ∈ (List.range ((0 : BitVec 8).toNat + 1)).map (· + (1 : BitVec 8).toNat), ((carved {}).tile 0).seq.ctl.inCarve p = true) ∧
    (∀ p ∈ (List.range ((1 : BitVec 8).toNat + 1)).map (· + (2 : BitVec 8).toNat), ((carved {}).tile 0).seq.ctl.inCarve p = false) ∧
    (let s := commanded {} (exampleCmd .copy 0)
     (s.tile 0).reaching (4096 * 2) (4096 * 3) = true ∧ (s.tile 0).reaching (4096 * 4) (4096 * 5) = false ∧
       (∀ k ∈ (s.tile 0).str.cmds, s.castTouches 0 k.2 (4096 * 4) (4096 * 5) = false) ∧ s.fenceHeld 0 4 = true ∧
       ((s.tile 0).str.cmds.get? 2).isSome) ∧
    (∀ r ∈ (carved {}).cur.allReqs, r.val ≠ none) ∧ (carved {}).fenceHeld 0 4 = false ∧
    (∃ r ∈ (requesting .add none).cur.allReqs, r.val = none) ∧ 1 ≤ (1 : BitVec 3).toNat ∧
    ((carved {}).tile 0).str.cmds.get? 2 = none ∧ ((carved {}).tile 0).str.faults.get? 2 = none ∧
    ((carved { faults := [(2, ⟨0x0a, 5⟩)] }).tile 0).str.faults.get? 2 = some ⟨0x0a, 5⟩ := by
  refine ⟨⟨1, by decide, by decide⟩, by decide, by decide +kernel, nofun, by decide, ⟨_, List.mem_singleton.mpr rfl, rfl⟩, by decide, rfl, rfl, rfl⟩

theorem witness_ControlReads :
    (onTile {}).focus = .tile 0 ∧ (onGrove {}).focus = .seq 0 ∧ ((onGrove { events := [⟨1, 2⟩] }).grove 0).events = ⟨1, 2⟩ :: [] ∧
    (0xfff : BitVec 12).toNat ∉ [0x000, 0x001, 0x002, 0x010, 0x011, 0x020, 0x021, 0x022, 0x023, 0x030, 0x031, 0x032, 0x040, 0x041, 0x050,
      0x051, 0x052, 0x053, 0x060, 0x061, 0x070, 0x080, 0x100, 0x101] := by
  exact ⟨rfl, rfl, rfl, by decide⟩

theorem witness_ControlWrites :
    ((onGrove {}).grove 0).waiting = [] ∧ ((onGrove {}).grove 0).migration = none ∧
    ((onGrove { migration := some ⟨1, 1, 16, 1⟩ }).grove 0).migration ≠ none ∧
    ((onGrove {}).grove 0).place.setWidth 64 = (31 : Word) ∧ (16 : Word).toNat ≤ 30 ∧ 32 ≤ (32 : Word).toNat := by
  exact ⟨rfl, rfl, nofun, by decide, by decide, by decide⟩

/-- Tile 0 with a pre-emption requested at cycle 0. -/
def preempting (x : Tile) : State := onTile { x with seq := { x.seq with run := .running, boundary := true }, preempt := some (.requested 0) }

/-- Tile 0 with a kill pending for its task. -/
def killing (x : Tile) : State := onTile { x with seq := { x.seq with run := .running, boundary := true }, task := some { killPending := true } }

/-- Tile 0 at a landing. -/
def landed (x : Tile) : State := onTile { x with seq := { x.seq with run := .running }, preempt := some (.landing none true [] []) }

theorem witness_LandingsAndSaves_points :
    ((onTile {}).tile 0).preempt = none ∧ ((onTile {}).tile 0).killDue = false ∧
    ((preempting {}).tile 0).preempt = some (.requested 0) ∧ ((preempting {}).tile 0).killDue = false ∧ (preempting {}).cur.holds ⟨0, 0, 0⟩ = true ∧
    ((preempting {}).tile 0).landingOpen false = true ∧ ((preempting {}).tile 0).landingOpen true = true ∧
    ((preempting {}).tile 0).seq.boundary = true ∧ (preempting {}).ckptAt (.tile 0) = none ∧
    (beforeBundle .v [1, 0, 0, 0x0f]).ckptAt (.tile 0) = some 1 ∧
    (preempting {}).cycle < 0 + ((preempting {}).tile 0).seq.ctl.pmax.toNat ∧
    0 + ((preempting { seq := { ctl := { pmax := 0 } } }).tile 0).seq.ctl.pmax.toNat ≤ (preempting {}).cycle ∧
    (let x := (killing {}).tile 0
     x.killDue = true ∧ x.inGang = false ∧ x.preempt ≠ some .saved ∧ x.seq.handlers = [] ∧ x.seq.prefixes = [] ∧ x.seq.noTrap = false ∧
       (killing {}).cur.holds ⟨0, 0, 0⟩ = true ∧ x.seq.boundary = true ∧ x.landing? = false ∧ x.drains? = true) ∧
    (let x := (killing { freeze := some ⟨0x19, 256, [], true, false, 0, false, 0⟩ }).tile 0
     x.freeze.isSome ∧ x.drains? = false) ∧
    (arrayTile [] []).fab.draining = false ∧ ((arrayTile [] []).image.inPort 0).isSome ∧ (arrayTile [] []).portBroken 0 = false ∧
    ((onGrove { preempt := some (.requested 0) }).grove 0).preempt = some (.requested 0) := by
  refine ⟨rfl, rfl, rfl, rfl, by decide, by decide, by decide, rfl, by decide +kernel, by decide +kernel, by decide, by decide, by decide, by decide, rfl,
    by decide, by decide, rfl⟩

theorem witness_LandingsAndSaves_saves :
    ((onTile { preempt := some .saved }).tile 0).preempt = some .saved ∧ ((onTile {}).tile 0).fab.draining = false ∧
    (let s := landed {}
     (s.tile 0).preempt = some (.landing none true [] []) ∧ (s.tile 0).saveBad = false ∧ (s.tile 0).killDue = false ∧ s.regionTiles (dieOf (groveOf 0)) (s.regionOf 0) = [0] ∧
       (s.tile 0).drained = true ∧ (s.tile 0).performed = true ∧ (s.tile 0).parityBad = false ∧ (s.tile 0).freeze = none) ∧
    ((landed { seq := { reqs := [loading .add none] } }).tile 0).performed = false ∧
    ((landed { fab := { edges := [(0, [⟨0, 1, 1⟩])] } }).tile 0).saveBad = true ∧
    ((landed { fab := { slots := [(2, { exampleImage with bad := [300] })] } }).tile 0).saveBad = true ∧
    ((onTile { preempt := some (.killing none), fab := { draining := true, fed := [3] } }).tile 0).drained = false ∧
    ((onTile { preempt := some (.killing none) }).tile 0).drained = true ∧
    (let e : BitVec 128 := BitVec.twoPow 128 127
     e.getLsbD 127 = true ∧ (e.extractLsb' 116 11).toNat = 0) := by
  refine ⟨rfl, rfl, ?_, ?_, ?_, ?_, ?_, ?_, ?_⟩
  all_goals decide +kernel

/-- A load of slot 1 under way. -/
def someLoad : CfgLoad := ⟨{ g0 := wordsGeo }, 1, 44⟩

theorem witness_ConfigurationsLoadAndRun :
    ((onTile { fab := { loads := [(1, someLoad)] } }).tile 0).fab.loads.get? 1 = some someLoad ∧
    ((onTile {}).tile 0).fab.loads.get? 1 = none ∧ 2 < gSpace tokGeo ∧ gSpace wordsGeo ≤ 2 ∧
    (onTile { fab := { loads := [(1, someLoad)] } }).cur.handlers = [] ∧
    ((onTile { fab := { loads := [(1, someLoad)] } }).loadImage 0 someLoad).2.isSome ∧ someLoad.bar ≠ 0 ∧ ({ someLoad with bar := 0 } : CfgLoad).bar = 0 ∧
    (let s := onTile { fab := { slots := [(1, exampleImage)] } }
     s.cur.holds .plain = true ∧ s.cur.reqs = [] ∧ s.cur.lands = [] ∧ (s.tile 0).task = none ∧ (s.tile 0).fab.decision = none ∧
       ((s.tile 0).fab.slots.get? 1).isSome ∧ (s.tile 0).fab.loads.get? 1 = none ∧ (s.tile 0).still = false) ∧
    (let s := gangState [] {}
     let f : State := { s with dies := [(0, { s.die 0 with frontier := [(12, 5000)] })], tiles := [(4, { task := some { seen := 3 }, seq := { ctl := { tgroup := 12 } } })] }
     s.inGroup 4 12 = true ∧ (s.die 0).frontier.get? 12 = none ∧ (f.die 0).frontier.get? 12 = some 5000 ∧ 7 * 256 + 4 ≤ 5000 ∧
       f.groupTasks 0 12 = [(.tile 4, { seen := 3 })]) ∧
    (let s := onTile { task := some { rerunning := true, slot := 1 }, fab := { slots := [(1, exampleImage)] } }
     (s.tile 0).task = some { rerunning := true, slot := 1 } ∧ (s.tile 0).seq.ctl.tended = false ∧ ((s.tile 0).fab.slots.get? 1).isSome) := by
  refine ⟨rfl, rfl, by decide +kernel, by decide +kernel, rfl, by decide +kernel, by decide, rfl, by decide, by decide +kernel, rfl, rfl, rfl⟩

/-- Tile 0 with a task open. -/
def tasked (k : Task) (c : Ctl) : State := onTile { seq := { run := .running, ctl := { c with topen := true } }, task := some k }

/-- A join of two members at the scratchpad of grove 0. -/
def someJoin : Join :=
  { grove := 0, group := 12, q := 1, fill := 0, op := 0, deadline := some 100, pages := [(0, 0)], tlen := 64, subPages := [], weights := [1, 1] }

/-- A task of tile 4 in group 12 whose join 3 has its target at address 0 of HBM. -/
def joining (k : Task) : State :=
  { tiles := [(4, { seq := { run := .running, ctl := { topen := true, tgroup := 12 } }, task := some k })], focus := .tile 4
    dies := [(0, { groups := [(12, 0x8000000000000000000000000000000000000000000000000000000000000070)], joins := [(3, someJoin)]
                   commits := [⟨4, 12, 0, 0⟩] })] }

theorem witness_TasksEndAndCommit :
    ((onTile {}).tile 0).task = none ∧ ((tasked {} { tended := true }).tile 0).seq.ctl.tended = true ∧
    ((tasked {} { tended := true }).tile 0).seq.ctl.tcause ≠ 0x1f ∧ ((tasked {} { tended := true, tstat := .fault, tcause := 0x1f }).tile 0).seq.ctl.tcause = 0x1f ∧
    ((tasked { committed := true } {}).tile 0).task = some { committed := true } ∧
    ((tasked { committed := true, acks := true } {}).tile 0).task = some { committed := true, acks := true } ∧
    ((tasked {} {}).tile 0).taskDone = true ∧ (tasked {} {}).partial? 0 {} = false ∧ ((tasked { killPending := true } {}).tile 0).taskDone = true ∧
    ((arrayTile [⟨0, 0, 0⟩] []).taskDone = false) ∧ ((joining { part := [8] }).tile 4).taskDone = true ∧ (joining { part := [8] }).partial? 4 { part := [8] } = true ∧
    (onTile {}).nextCommit 0 = none ∧
    (let s : State := { tasked { requested := true, log := [(5, 7)] } {} with dies := [(0, { commits := [⟨0, 0, 0, 0⟩] })] }
     s.nextCommit 0 = some ⟨0, 0, 0, 0⟩ ∧ KMap.sorted [(5, (7 : Byte))] = true) ∧
    (let s : State := { tasked { requested := true, present := [gspAddr 0 64] } {} with
       groves := [(0, { chans := [(3, channelWord)] })], dies := [(0, { commits := [⟨0, 0, 0, 0⟩] })], mem := { present := [gspAddr 0 64] } }
     s.nextCommit 0 = some ⟨0, 0, 0, 0⟩ ∧ s.taken { requested := true, present := [gspAddr 0 64] } = true) ∧
    (let k : Task := { requested := true, log := [(8, 7)] }
     let s : State := { joining k with mem := { poison := [0] } }
     s.nextCommit 0 = some ⟨4, 12, 0, 0⟩ ∧ (s.tile 4).task = some k ∧ s.taken k = false ∧ s.targetBad 4 k = true) ∧
    (let k : Task := { requested := true, part := [8] }
     (joining k).nextCommit 0 = some ⟨4, 12, 0, 0⟩ ∧ (joining k).taken k = false ∧ (joining k).targetBad 4 k = false ∧ (joining k).partial? 4 k = true) := by
  refine ⟨rfl, rfl, ?_, rfl, rfl, rfl, ?_, ?_, ?_, ?_, ?_, ?_, ?_, ⟨?_, ?_⟩, ?_, ?_, ?_⟩
  all_goals decide +kernel

/-- Two tiles of group 12: tile 4 asks for commit with a granule written and a peer word to send, and tile 5's later task has read that
granule. -/
def committing : State :=
  { joining {} with
    tiles := [(4, { seq := { run := .running, ctl := { topen := true, tgroup := 12 } }, task := some
                      { requested := true, key := 4, log := [(5, 7)], remote := [.peer 1 0 0 0], present := [gspAddr 0 64] } }),
              (5, { seq := { run := .running, ctl := { topen := true, tgroup := 12 } }, task := some { key := 5, signature := signKey 0 (granuleKey 0) } })]
    groves := [(0, { chans := [(3, channelWord)] })]
    dies := [(0, { (joining {}).die 0 with joins := [], commits := [⟨4, 12, 4, 0⟩, ⟨5, 12, 5, 0⟩], committed := some 9 })] }

theorem witness_TasksEndAndCommit_order :
    (let s := committing
     s.nextCommit 0 = some ⟨4, 12, 4, 0⟩ ∧ (s.die 0).committed ≠ some s.cycle ∧ s.joinOf 4 12 = none ∧
       (s.tile 4).task.all (fun k => !s.taken k && KMap.sorted k.log && decide (k.seen = 0)) = true ∧
       (s.die 0).frontier.get? 12 = none ∧ ((s.grove 0).channelOf 64).isSome ∧ KMap.sorted s.tiles = true ∧
       (s.tile 4).task.all (fun k => (s.tile 5).task.all (fun k' => k.before k' && sigHas k'.signature (granuleKey (5 / 256 * 256)))) = true ∧
       (s.tile 5).seq.ctl.tended = false ∧ s.dieTile 5 < 160) ∧
    (({ committing with cycle := 9 } : State).die 0).committed = some 9 ∧
    (({ seen := 3 } : Task).before { key := 0 } = true ∧ ({ seen := 4 } : Task).before { seen := 3 } = true ∧ ({ key := 3 } : Task).before { key := 4 } = true) ∧
    (let x : Remote := .peer 1 0 0 0
     let y : Remote := .store 0 1 64 []
     byDest [x, y, x] = [x, x, y]) := by
  decide +kernel

/-- The commit point of that group: the byte and the channel word are visible, the peer word goes out, and the later task runs again. -/
theorem test_commit_conflict :
    nextHas (exec (.commitPoint 0) committing) (fun t => t.mem.bytes.read 5 == 7 && t.present (gspAddr 0 64) &&
      (t.die 0).writeback.map (·.items) == [[.peer 1 0 0 0]] && decide ((t.tile 5).seq.ctl.tstat = .conflict) &&
      (t.die 0).commits.isEmpty && (t.die 0).frontier.get? 12 == some 4) = true := by decide +kernel

theorem witness_JoinsCloseAndLogsGoOut :
    (({ onTile {} with dies := [(0, { joins := [(3, someJoin)] })] } : State).die 0).joins.get? 3 = some someJoin ∧
    someJoin.released = false ∧ someJoin.deadline = some 100 ∧ 0 < 100 ∧
    ({ someJoin with deadline := none } : Join).deadline = none ∧ ({ someJoin with released := true } : Join).filled = false ∧
    (∀ (x : List Remote), let o : Outgoing := ⟨0, x, 0, none, false⟩
      (({ onTile {} with dies := [(0, { writeback := [o] })] } : State).die (dieOf (groveOf 0))).writeback = o :: [] ∧ o.awaited = 0) ∧
    (let o : Outgoing := ⟨0, [.peer 1 0 0 0], 1, some 0, false⟩
     o.awaited ≠ 0 ∧ o.told = false ∧ o.since = some 0 ∧ 5 - 0 < ((onTile {}).grove (groveOf 0)).replylimit.toNat ∧
       ((onTile {}).grove (groveOf 0)).replylimit.toNat ≤ 0x100000 - 0) ∧
    ({ driveDown := [(2, 0)] } : Hub).driveDown.get? 2 = some 0 ∧ ({} : Hub).driveDown.get? 2 = none ∧ someJoin.fill = 0 ∧
    ({ someJoin with fill := 1, released := true } : Join).factor = none ∧
    ({ someJoin with fill := 1, released := true, weights := [0x3f800000, 0x3f800000], arrived := [1] } : Join).factor = some 0x40000000 := by
  refine ⟨rfl, rfl, rfl, by decide, rfl, rfl, fun x => ⟨rfl, rfl⟩, by decide, rfl, rfl, rfl, by decide +kernel, by decide +kernel⟩

/-- A join of group 12 with weights 2 and 1 whose target is one word at HBM address 256, with substitutes at 512. -/
def oneWordJoin : Join := { someJoin with q := 2, fill := 2, op := 0, pages := [(0, 256)], tlen := 4, subPages := [(0, 512)], weights := [0x40000000, 0x3f800000, 0x3f800000] }

/-- Tile 4 asks for commit with 3.0 logged at the target, which holds 1.0; the second member's substitute is 5.0. -/
def contributing (j : Join) : State :=
  let k : Task := { requested := true, log := [(256, 0), (257, 0), (258, 0x40), (259, 0x40)] }
  { joining k with
    dies := [(0, { (joining k).die 0 with joins := [(3, j)] })]
    mem := { bytes := [(258, 0x80), (259, 0x3f), (518, 0xa0), (519, 0x40)] } }

theorem witness_JoinsCloseAndLogsGoOut_fills :
    (let s := contributing oneWordJoin
     s.nextCommit 0 = some ⟨4, 12, 0, 0⟩ ∧ (s.die 0).committed ≠ some s.cycle ∧ s.joinOf 4 12 = some (3, oneWordJoin, 0) ∧
       oneWordJoin.pages = [(0, 256)] ∧ oneWordJoin.tlen % 4 = 0 ∧
       (s.tile 4).task.all (fun k => !s.taken k && !s.targetBad 4 k && !s.partial? 4 k && KMap.sorted k.log) = true) ∧
    (let j := { oneWordJoin with released := true, arrived := [0] }
     let s := contributing j
     (s.die 0).joins.get? 3 = some j ∧ j.filled = false ∧ s.mem.poison = [] ∧ j.subPages = [(0, 512)] ∧ 256 + j.tlen ≤ 512) := by
  decide +kernel

/-- The contribution 2 · 3.0 combines with 1.0 to 7.0 (R340), and the fill adds the substitutes 5.0 and 0 of the members that have not
arrived to 1.0 (R342). -/
theorem test_join_combines :
    nextHas (exec (.commitPoint 0) (contributing oneWordJoin)) (fun t => t.readNat 256 4 == 0x40e00000 &&
      ((t.die 0).joins.get? 3).map (·.arrived) == some [0]) = true ∧
    nextHas (exec (.quorumFill 0 3) (contributing { oneWordJoin with released := true, arrived := [0] })) (fun t => t.readNat 256 4 == 0x40a00000 + 0x200000) = true := by
  decide +kernel

theorem witness_TasksAreRerunOrAborted :
    (∀ m ∈ (onTile {}).regionMates 0, ((onTile {}).die (dieOf (groveOf m))).gangs = []) ∧ (onTile {}).regionMates 0 = [0] ∧ ((onTile {}).tile 0).task = none ∧
    ((tasked {} {}).tile 0).inTask = true ∧ ((tasked { committed := true } {}).tile 0).inTask = false ∧ ((tasked { committed := true } {}).tile 0).task ≠ none ∧
    ((tasked { soft := 3 } {}).tile 0).task = some { soft := 3 } ∧ 3 < ((tasked {} {}).tile 0).seq.ctl.trerun.toNat ∧
    ((tasked {} {}).tile 0).seq.ctl.trerun.toNat ≤ 4 ∧ ({ killPending := true } : Task).killPending = true ∧ ((tasked {} {}).tile 0).seq.ctl.tended = false ∧
    ((tasked {} {}).tile 0).freeze = none ∧ ((onTile {}).tile 0).seq.run = .idle ∧ ((tasked {} {}).tile 0).seq.run ≠ .idle ∧
    ((tasked {} { tended := true }).tile 0).seq.ctl.tended = true :=
  ⟨by decide, by decide, rfl, by decide, by decide, nofun, rfl, by decide, by decide, rfl, rfl, rfl, rfl, by decide, rfl⟩

/-! ### Witnesses: words of a grove sequencer -/

/-- Grove 0 with a kernel record at address 64 of its scratchpad: entry 0, bounds 0 to 2048. -/
def recordState (x : Tile) : State :=
  { tiles := [(0, x)], groves := [(0, { seq := { run := .running } })], focus := .seq 0, ctx := { va := 1, vb := 64 }
    mem := { bytes := [(gspAddr 0 69, 8)] } }

theorem witness_KernelAndTaskWords :
    (onTile {}).focus = .tile 0 ∧ (recordState {}).focus = .seq 0 ∧ 2 ^ 16 ≤ (0x10000 : Word).toNat ∧ (0xffff : Word).toNat < 2 ^ 16 ∧
    2 ^ 24 ≤ (0x1000000 : Addr).toNat ∧ (0xffffc1 : Addr).toNat % 64 ≠ 0 ∧ (recordState {}).ctx.vb.toNat % 64 = 0 ∧
    ((recordState {}).grove 0).channelOf 64 = none ∧ (recordState {}).mem.poisoned (gspAddr 0 64) 64 = false ∧
    kernelOk ((recordState {}).mem.bytes.readList (gspAddr 0 64) 64) = true ∧ kernelOk ((onGrove {}).mem.bytes.readList (gspAddr 0 64) 64) = false ∧
    (recordState {}).ctx.va.setWidth 64 ≠ (0 : Word) ∧ ((recordState {}).tile ((recordState {}).physOf 0 0)).seq.run ≠ .running ∧
    ((recordState (withSeq { run := .running })).tile 0).seq.run = .running ∧ ((recordState {}).grove 0).migration = none ∧
    ((recordState { preempt := some .saved }).tile 0).preempt = some .saved ∧ ((recordState (withSeq { run := .escalated })).tile 0).seq.run = .escalated ∧
    ((recordState {}).tile 0).freeze = none := by
  refine ⟨rfl, rfl, ?_, ?_, ?_, ?_, ?_, ?_, ?_, ?_, ?_, ?_, ?_, rfl, rfl, rfl, rfl, rfl⟩
  all_goals decide +kernel

/-- Grove 0 with a descriptor at address 64: group 12 of tiles 4 to 6, one arrival, fill zero, four bytes at address 0. -/
def joinState (js : KMap Join) : State :=
  { groves := [(0, { seq := { run := .running } })], focus := .seq 0, ctx := { va := 64 }
    dies := [(0, { groups := [(12, 0x8000000000000000000000000000000000000000000000000000000000000070)], joins := js })]
    mem := { bytes := [(gspAddr 0 64, 12), (gspAddr 0 65, 1), (gspAddr 0 67, 1), (gspAddr 0 81, 1), (gspAddr 0 84, 4)] } }

theorem witness_JoinWords :
    (let s := joinState []
     let b := s.mem.bytes.readList (gspAddr 0 64) 64
     (s.gspReady 0 64 64 = true ∧ s.mem.poisoned (gspAddr 0 64) 64 = false) ∧ s.descriptorOk 0 3 b = true ∧
       s.descriptorOk 0 3 [] = false ∧ (s.gspReady 0 128 12 = true ∧ s.mem.poisoned (gspAddr 0 128) 12 = false) ∧ bytesAt b 17 1 = 1 ∧
       bytesAt b 2 1 % 4 ≠ 2 ∧ bytesAt b 8 9 + bytesAt b 20 4 ≤ 2 ^ 24 ∧ (s.die 0).joins.get? 3 = none) ∧
    (let s := joinState [(3, someJoin)]
     (s.die 0).joins.get? 3 = some someJoin ∧ someJoin.filled = false ∧ someJoin.released = false ∧ someJoin.fill = 0) ∧
    (let j := { someJoin with filled := true, released := true, arrived := [1, 0] }
     ((joinState [(3, j)]).die 0).joins.get? 3 = some j ∧ j.filled = true ∧ j.arrived.Nodup ∧ j.released = true) := by
  refine ⟨⟨⟨?_, ?_⟩, ?_, ?_, ⟨?_, ?_⟩, ?_, ?_, ?_, rfl⟩, ⟨rfl, rfl, rfl, rfl⟩, rfl, rfl, ?_, rfl⟩
  all_goals decide +kernel

/-- Grove 0 whose partition has its first page of virtual addresses in its TLB, with an image of one group there. -/
def groupState (f : BitVec 256) : State :=
  { groves := [(0, { seq := { run := .running } })], focus := .seq 0, ctx := { va := 0 }
    dies := [(0, { tlb := [(0, [⟨0, false, 0, true, true, 0⟩])], groups := [(7, f)] })]
    mem := { bytes := [(0, 1), (8, 12), (48 - 1, 0x80)] } }

/-- Grove 0 with its tile 0 frozen and scanned out, its array as given. -/
def frozenState (x : Fabric) : State :=
  { onGrove {} with tiles := [(0, { fab := x, freeze := some { reason := 0x10, region := 256, faults := [], taskOpen := false, scanned := true } })] }

theorem witness_GroupRegionAndChannelWords :
    (match (recordState {}).seqRead 0 0 8 with | (_, .error c) => decide (c = 0x10) | _ => false) = true ∧
    (match (groupState 0).seqRead 0 0 8 with | (_, .ok b) => decide (bytesAt b 0 2 = 1) && zeroAt b 2 6 | _ => false) = true ∧
    (match (groupState 0).seqRead 0 8 40 with | (_, .ok x) => zeroAt x 1 7 | _ => false) = true ∧
    (512 ≤ (512 : Word).toNat) ∧ (onGrove {}).regionNamed 0 256 = [0] ∧ groveOf 0 = 0 ∧
    ((frozenState {}).tile 0).freeze = some { reason := 0x10, region := 256, faults := [], taskOpen := false, scanned := true } ∧
    (frozenState {}).regionNamed 0 256 = [0] ∧ (frozenState {}).slotAltered 0 = false ∧ ((frozenState {}).tile 0).parityBad = false ∧
    ([0].find? (fun m => ((frozenState { elems := [(0, { accBad := 1 })] }).tile m).parityBad) = some 0) ∧
    (let v : Word := 0x1
     v.getLsbD 63 = false ∧ v.extractLsb' 42 20 = 0 ∧ v.extractLsb' 18 6 = 0 ∧ v.extractLsb' 0 18 ≠ 0 ∧ chanBase v + chanSize v ≤ 2 ^ 18) ∧
    (let v : Word := 0x3ffff03ffff
     2 ^ 18 < chanBase v + chanSize v) ∧
    (((onGrove {}).grove 0).chans.get 0 3).getLsbD 63 = false ∧ (((onGrove { chans := [(3, channelWord)] }).grove 0).chans.get 0 3).getLsbD 63 = true ∧
    (∀ u ∈ groveUnits 0, ((onGrove {}).seqOf u).reqs = []) ∧ (∀ p, p < 17 → ((onGrove {}).tile (tileAt 0 p)).str.cmds = []) := by
  refine ⟨by decide +kernel, by decide +kernel, by decide +kernel, by decide, by decide +kernel, by decide, rfl, by decide +kernel, by decide +kernel,
    by decide, by decide, by decide, by decide, rfl, rfl, by decide, by decide⟩

/-! ### Witnesses: the array -/

theorem witness_ElementsFire :
    (0x10, Instr.iadd) ∈ elementOps ∧
    (let x := arrayTile [⟨0, 7, 0⟩] []
     x.inTask = true ∧ x.still = false ∧ cOp (x.image.elem 19) = 0x10 ∧ x.image.group (cGroup (x.image.elem 19)) = [19] ∧
       (x.ready x.image [19] = .data ∧ x.mayFire x.image [19] = true ∧ x.roomData x.image [19] = true ∧ x.firingBad x.image [19] = false)) ∧
    (arrayTile [⟨0, 7, 1⟩] []).firingBad exampleImage [19] = true ∧ (arrayTile [] []).ready exampleImage [19] = .wait ∧
    (let x := { arrayTile [] [] with fab := { (arrayTile [] []).fab with elems := [(19, { pipe := [⟨1, [(1, ⟨0, 12, 0⟩)], [], []⟩] })] } }
     (x.elemAt 19).pipe = ⟨1, [(1, ⟨0, 12, 0⟩)], [], []⟩ :: []) ∧
    (arrayTile [⟨0, 7, 0⟩] (List.replicate 4 ⟨0, 1, 0⟩)).roomData exampleImage [19] = false ∧
    (arrayTile [⟨3, 7, 0⟩] []).ready exampleImage [19] = .fault 0x14 19 ∧ (arrayTile [⟨1, 7, 0⟩] []).ready exampleImage [19] = .header ∧
    (exampleImage.boundary [19] = [(19, 0, 0, 0x300130C680000000)] ∧ exampleImage.outs 19 0 = [(1, 0x04cd10c680000000)] ∧
      exampleImage.carriesIn 19 = [] ∧ exampleImage.carriesOut 19 = [] ∧ exampleImage.tokenSource 19 = 0 ∧ cEmit (exampleImage.elem 19) = 0) := by
  refine ⟨by simp [elementOps], by decide +kernel, by decide +kernel, by decide +kernel, rfl, by decide +kernel, by decide +kernel, by decide +kernel,
    by decide +kernel⟩

theorem witness_IntegerLaneResults :
    let x := (arrayTile [⟨0, 7, 0⟩] []).opCtx exampleImage [] 19
    isInt x.ty = true ∧ x.a.fmt = x.ty ∧ x.b.fmt = x.ty ∧ x.c.fmt = x.ty ∧ x.a.num = none ∧ x.b.num = none ∧ x.c.num = none ∧
      15 < laneCount x.ty ∧ cOp x.w = 0x10 ∧ cSat x.w = false := by
  decide +kernel

/-- An operation on `f32` lanes, or on those of another type, with a word of equal lanes at each input. -/
def opOn (op ty mod : Nat) (a b c : Nat) : OpCtx :=
  { w := .ofNat 128 (op * 2 ^ 120 + ty * 2 ^ 116 + mod * 2 ^ 108)
    a := { word := packLanes ty (fun _ => a), fmt := ty }, b := { word := packLanes ty (fun _ => b), fmt := ty }, c := { word := packLanes ty (fun _ => c), fmt := ty } }

theorem witness_LaneResults_floating :
    (let x := opOn 0x40 1 0 0x3f800000 0x40000000 0
     isFloat x.ty = true ∧ 15 < laneCount x.ty ∧ x.a.num = none ∧ isFloat x.a.fmt = true ∧ cOp x.w = 0x40 ∧ x.va 3 = (decodeType 1 0x3f800000).scale 0) ∧
    (∀ o ∈ [0x51, 0x52], (opOn o 1 0 0x3f800000 0 0).ty = 1 ∧ cOp (opOn o 1 0 0x3f800000 0 0).w = o) ∧
    (let x := opOn 0x73 9 3 5 0 0
     isInt x.ty = true ∧ x.a.fmt = x.ty ∧ 15 < laneCount x.ty ∧ cMod x.w = 3) ∧
    (let x := opOn 0x80 1 1 0x3f800000 0 0
     x.acc = none ∧ ({ x with acc := some 7 } : OpCtx).acc = some 7) ∧
    (let x := { opOn 0x17 9 0 0 0 1 with a := { word := 0x04030201, fmt := 7 }, b := { word := 0xff020202, fmt := 11 } }
     x.ty = 9 ∧ (x.a.fmt = 7 ∨ x.a.fmt = 11) ∧ (x.b.fmt = 7 ∨ x.b.fmt = 11)) ∧
    (opOn 0x4a 1 0 0x7fc00000 0 0).va 0 = .nan ∧ (opOn 0x4d 1 0 0 0 0).va 0 = decodeType 1 0 ∧ (opOn 0x4e 1 0 0xff800000 0 0).va 0 = .inf true := by
  decide +kernel

/-- Lanes of floating operations: 1 + 2, −1 · 2 + 5 of `fnma`, the smaller of −0 and +0, `fcmp` of 1 and 2 for a < b, four byte products of
`idot4` with 1 (2 + 4 + 6 + 4 · 255), and the bitwise and of all lanes. -/
theorem test_lane_results :
    lanePat 1 (opOn 0x40 1 0 0x3f800000 0x40000000 0).results.1 3 = 0x40400000 ∧
    lanePat 1 (opOn 0x44 1 0 0x3f800000 0x40000000 0x40a00000).results.1 15 = 0x40400000 ∧
    lanePat 1 (opOn 0x45 1 0 0x80000000 0 0).results.1 0 = 0x80000000 ∧
    lanePat 1 (opOn 0x49 1 2 0x3f800000 0x40000000 0).results.1 0 = 0xffffffff ∧
    lanePat 9 ({ opOn 0x17 9 0 0 0 1 with a := { word := 0x04030201, fmt := 7 }, b := { word := 0xff020202, fmt := 11 } } : OpCtx).results.1 0 = 1033 ∧
    lanePat 9 (opOn 0x73 9 3 5 0 0).results.1 15 = 5 ∧ lanePat 1 (opOn 0x74 1 0 0x3f800000 0 0).results.1 4 = 0x40a00000 ∧
    lanePat 1 (opOn 0x4f 1 0 0 0 0).results.1 0 = 0x3f000000 := by decide +kernel

theorem witness_HeadersAndFirebreaksPass :
    (let x := arrayTile [⟨1, 0x9000202000000000000000000000000000000000000000000000000000000000000000000000000000000000000000000000000000000000000000000000, 0⟩] []
     x.inTask = true ∧ x.still = false ∧ cOp (x.image.elem 19) ≠ 0 ∧ x.image.group (cGroup (x.image.elem 19)) = [19] ∧
       x.image.boundary [19] = [(19, 0, 0, 0x300130C680000000)] ∧ x.image.bad = [] ∧ x.image.outs 19 0 = [(1, 0x04cd10c680000000)] ∧
       (x.elemAt 19).frozen = false ∧ (x.elemAt 19).mayFire (x.image.elem 19) = true ∧ (x.elemAt 19).pipe = [] ∧ x.edgeRoom 1 0x04cd10c680000000 = true ∧ cOp (x.image.elem 19) ≠ 0x84) ∧
    classHas (eClass 0x300130C680000000) 9 = true ∧ headerAgrees (exampleImage.elem 19) 0 9 = true ∧
    classHas (eClass 0x300130C680000000) 1 = false ∧ (arrayTile [⟨2, 0, 0⟩] []).headOf 0 = some ⟨2, 0, 0⟩ ∧ exampleImage.outs 19 2 = [] := by
  decide +kernel

/-- A `steer` at node 64 with edges to its inputs and outputs. -/
def steerImage (op : BitVec 64) : CfgImage :=
  { routers := [(64, op * 0x1000000000000000)]
    edges := [0x3004000080000000, 0x70040c0080000000, 0x100d000080000000, 0x101d100080000000] }

theorem witness_OperatorsAct :
    (1, Instr.opSteer, steerStep) ∈ [(1, Instr.opSteer, steerStep), (2, Instr.opMerge, mergeStep)] ∧
    (∀ op : BitVec 3, op ≠ 0 → op ≠ 7 → (steerImage (op.setWidth 64)).opCode 64 = op.toNat) ∧
    (let x : Tile := { arrayTile [] [] with fab := { slots := [(0, steerImage 1)], active := some 0, edges := [(0, [⟨0, 5, 0⟩]), (1, [⟨0, 1, 0⟩])] } }
     x.inTask = true ∧ x.still = false ∧ (x.opAt 64).frozen = false ∧ x.opHead x.image 64 0 = some ⟨0, 5, 0⟩ ∧ x.opHead x.image 64 3 = some ⟨0, 1, 0⟩ ∧
       x.opRoom x.image 64 0 = true ∧ (x.opAt 64).looping = false ∧ (x.opAt 64).held = none ∧ x.breakAt x.image 64 3 = false ∧
       x.operBad x.image 64 = false ∧ (x.opEdge x.image 64 0).isSome = true ∧
       (match steerStep x x.image 64 with | .step _ => true | _ => false) = true) ∧
    (let x : Tile := { arrayTile [] [] with fab := { slots := [(0, steerImage 1)], active := some 0, edges := [(0, [⟨0, 5, 1⟩]), (1, [⟨2, 0, 0⟩])] } }
     x.operBad x.image 64 = true ∧ (match steerStep x x.image 64 with | .mismatch => true | _ => false) = true) := by
  refine ⟨.head _, by decide +kernel, by decide +kernel, by decide +kernel⟩

/-! ### Witnesses: the die and its memories -/

/-- A command that reads 16 elements of HBM, and one of peer edge 1. -/
def hbmCmd : Cmd := { kind := .feed, entry := {}, geo := BitVec.ofNat 512 0x29000000000000000000000000000000000000000000000000000010000000000000000000000000000000000000000400000000000000000000000000000000 }
def peerCmd : Cmd := { kind := .feed, entry := {}, geo := BitVec.ofNat 512 0x39000000000000000000000000000000000000000000000000000010000000000000000000000000000000000000000400010000000000000000000000000000 }

/-- Tile 0 with a page of virtual address 0 in its TLB: readable, or not. -/
def mapped (r : Bool) (c : Cmd) : State := commanded { tlb := [⟨0, false, 0, r, true, 0⟩] } c

/-- A translation ends at a physical address, or with a cause. -/
def endsAt (x : State × Trans) : Nat ⊕ BitVec 8 :=
  match x.2 with
  | .ok a => .inl a
  | .fault c => .inr c

theorem witness_DieEngines_walks :
    (mapped true hbmCmd).cmd? 0 2 = some hbmCmd ∧ hbmCmd.active = true ∧ ((mapped true hbmCmd).tile 0).still = false ∧
    (mapped true hbmCmd).walksAt 0 hbmCmd = (gAddr hbmCmd.geo 0, true, 0) :: [] ∧ (mapped true hbmCmd).faultsToo 0 = false ∧
    ({ mapped true hbmCmd with tiles := [(0, { freeze := some ⟨0x10, 256, [(3, 0)], false, false, 0, false, 0⟩ })] } : State).faultsToo 0 = true ∧
    endsAt ((mapped true hbmCmd).translate 0 0 0 true false) = .inl 0 ∧ endsAt ((commanded {} hbmCmd).translate 0 0 0 true false) = .inr 0x10 ∧
    endsAt ((mapped false hbmCmd).translate 0 0 0 true false) = .inr 0x11 ∧
    hbmCmd.cause = 0 ∧ hbmCmd.awaitsReply = false ∧ peerCmd.awaitsReply = true ∧ ({ peerCmd with asked := some 0 } : Cmd).asked ≠ none ∧ peerCmd.frozen = false ∧ hbmCmd.unacked = [] ∧
    ((onTile {}).grove (groveOf 0)).replylimit.toNat ≤ 0x100000 - 0 ∧ (onTile {}).storeWaits 0 hbmCmd = none ∧
    (let c : Cmd := { kind := .feed, entry := {}, geo := BitVec.ofNat 512 (0x49 * 2 ^ 504 + 16 * 2 ^ 288) }
     ({ onTile {} with hub := { parts := [(0, 0x8000000000000001000000000000000100000000000000000000000000000000)], spaces := [(0, ⟨0, 1, 512⟩)], driveDown := [(0, 7)] } } : State).storeWaits 0 c = some (7, 0) ∧ c.awaitsReply = false) := by
  refine ⟨rfl, rfl, rfl, by decide +kernel, by decide, by decide, by decide +kernel, by decide +kernel, by decide +kernel, rfl, by decide +kernel,
    by decide +kernel, nofun, rfl, rfl, by decide, by decide +kernel, by decide +kernel⟩

/-- Tables of partition 0, whose root is at 0: the four levels of virtual address 0, the last a leaf that permits reads of page 5, or an
entry of the second level that is malformed. -/
def walked (e2 : Byte) : State :=
  { onTile {} with
    hub := { parts := [(0, 0x8000000000000001000000000000000100000000000000000000000000000000)] }
    mem := { bytes := [(0, 1), (2, 1), (0x10000, 1), (0x10001, e2), (0x10002, 2), (0x20000, 1), (0x20002, 4), (0x40000, 7), (0x40002, 5)] } }

theorem witness_DieEngines_tables :
    (let s := walked 0
     s.rootOf 1 = some 0 ∧ s.mem.poison = [] ∧ (s.tile 0).tlb = [] ∧ (s.die (dieOf (groveOf 0))).tlb = [] ∧ s.readNat 0 8 = 0x10001 ∧ s.readNat 0x10000 8 = 0x20001 ∧
       s.readNat 0x20000 8 = 0x40001 ∧ s.readNat 0x40000 8 = 0x50007) ∧
    (walked 0).rootOf 2 = none ∧ ({ poison := [0] } : Mem).poisoned 0 8 = true ∧
    ((mapped true hbmCmd).tile 0).tlb.find? (fun k => k.hits 0 0) = some ⟨0, false, 0, true, true, 0⟩ := by
  decide +kernel

/-- A walk ends at the page of its leaf, which permits reads alone; a reserved bit of a table's entry faults with 0x11 (R365, R366). -/
theorem test_walks :
    endsAt ((walked 0).translate 0 1 0x123 true false) = .inl 0x50123 ∧ endsAt ((walked 0).translate 0 1 0x123 false true) = .inr 0x11 ∧
    endsAt ((walked 1).translate 0 1 0x123 true false) = .inr 0x11 ∧ endsAt ((walked 0).translate 0 1 0x10000 true false) = .inr 0x10 := by
  decide +kernel

theorem witness_DieEngines_regions :
    ((onTile {}).regionNamed 0 256 = [0] ∧ ((onTile {}).tile 0).freeze = none) ∧
    (let f : Freeze := { reason := 0x10, region := 256, faults := [(2, 0x10000)] }
     let s := onTile { freeze := some f }
     s.regionNamed 0 256 = [0] ∧ dieOf (groveOf 0) = 0 ∧ (s.tile 0).freeze = some f ∧ f.scanned = false ∧ f.ending = false ∧ f.reason = 0x10 ∧
       f.faults = [(2, 0x10000)] ∧ s.partOf (groveOf 0) = none ∧ (s.tile 0).parityBad = false) ∧
    (let s : State := { commanded {} peerCmd with dies := [(0, { still := [(256, 0x01000000)] })] }
     s.regionNamed 0 256 = [0] ∧ s.stillLimit [0] ≠ 0 ∧ s.watched [0] = true ∧ s.stillLimit [0] ≤ (s.die 0).still.get 0 256 ∧
       (s.die 0).still.get 0 257 < s.stillLimit [0]) := by decide +kernel

theorem witness_DieRegistersAndMemoryErrors :
    ((0x7f60000000 : Word) &&& 0x00003ffff0000000).toNat + 160 * 2 ^ 24 ≤ 2 ^ 39 ∧
    2 ^ 39 < ((0x7f70000000 : Word) &&& 0x00003ffff0000000).toNat + 160 * 2 ^ 24 ∧
    ((0x7ffec00000 : Word) &&& 0x00003fffffc00000).toNat + 160 * 2 ^ 17 ≤ 2 ^ 39 ∧
    2 ^ 39 < ((0x7fff000000 : Word) &&& 0x00003fffffc00000).toNat + 160 * 2 ^ 17 ∧
    ((onTile {}).die 0).dshoot = none ∧ (({ onTile {} with dies := [(0, { dshoot := some (3, 5), shootWaiting := [4] })] } : State).die 0).dshoot = some (3, 5) ∧
    (∀ j ∈ ((onTile {}).die 0).joins, j.2.filled = true) ∧ 2 ^ 39 - 1 < 2 ^ 39 ∧ (onTile {}).mem.retired.get? 3 = none ∧ ({ retired := [(3, 1)] } : Mem).retired.get? 3 = some 1 ∧
    hbmChannel (256 * (3 * 2 ^ 28)) ≠ hbmChannel (256 * (3 * 2 ^ 28 + 1)) ∧
    partValid (BitVec.twoPow 256 255) = true ∧ (onTile {}).mapsStack 0 3 0 = false ∧
    ({ mem := { bytes := [(0, 3), (0x10000, 3)] } } : State).mapsStack 0 0 0 = true := by
  refine ⟨by decide, by decide, by decide, by decide, rfl, rfl, nofun, by decide, rfl, rfl, by decide, by decide, by decide +kernel, by decide +kernel⟩

theorem witness_GroveRegistersAndPower :
    (({ groves := [(0, {})] } : State).groves.get? 0 = some {}) ∧ (∀ e ∈ (onTile {}).tiles, e.2.flowBad = false ∧ e.2.parityDue = false) ∧
    (onTile {}).tiles.get? 0 = some {} ∧ (2400 : Nat) < 2 ^ 16 ∧
    ({ cycle := 65536 } : State).hub.interval < ({ cycle := 65536 } : State).cycle / 2 ^ 16 ∧
    State.reset.cycle / 2 ^ 16 ≤ State.reset.hub.interval ∧ ((onGrove {}).grove 0).waiting = [] ∧
    ((onGrove { events := [⟨1, 1⟩], waiting := [⟨2, 2⟩] }).grove 0).waiting = ⟨2, 2⟩ :: [] ∧
    ((onGrove {}).grove 0).migration = none ∧ ((onGrove {}).grove 0).place = 31 ∧ ((onGrove {}).tile (tileAt 0 15)).seq.run ≠ .running ∧
    ((onGrove {}).tile (tileAt 0 15)).preempt = none ∧ (onGrove {}).mem.bytes.wf = true ∧
    ((onGrove { migration := some ⟨1, 1, 16, 1⟩ }).grove 0).migration = some ⟨1, 1, 16, 1⟩ ∧ (1 : Nat) ≠ 16 ∧ groveOf 1 = 0 ∧
    ((onTile {}).tile 1).seq.run ≠ .running ∧ ((onTile {}).tile 1).preempt = none ∧
    (let s : State := { tiles := [(1, { seq := { run := .running }, preempt := some .saved })], groves := [(0, { migration := some ⟨1, 1, 16, 1⟩ })]
                        hub := { parts := [(0, 0x8000000000000001000000000000000100000000000000000000000000000000)], partRuns := [(0, { waiting := some ⟨0, 0, 0, 0⟩ })] } }
     (s.tile 1).seq.run = .running ∧ (s.tile 1).preempt = some .saved ∧ s.preempted 0 = true) :=
  ⟨rfl, by decide, rfl, by decide, by decide, by decide, rfl, rfl, rfl, rfl, by decide, rfl, rfl, rfl, by decide, by decide, by decide, rfl, by decide +kernel⟩

/-! ### Witnesses: the hub and the fabric -/

/-- The open window, with partition 0 holding grove 0 under ASID 1 and semaphores of port 1. -/
def hubState : State :=
  { window := { isOpen := true }
    hub := { parts := [(0, 0x8000000000000001000000000000000100000000000000000000000000000000)], sems := [(0, 1), (5, 0)]
             queues := [(3, { cfg := 0x8000000000000004, tail := 16, head := 0 })] } }

theorem witness_HostWindowWrites :
    State.reset.window.isOpen = false ∧ hubState.window.isOpen = true ∧ hubState.hub.linkDown.get? 1 = none ∧
    ((hubState.queue 3).owner = 0) ∧ ((hubState.queue 3).owner ≠ 1) ∧
    ((16 : BitVec 32) - (hubState.queue 3).head).toNat ≤ 2 ^ ((hubState.queue 3).cfg.toNat % 32) ∧
    2 ^ ((hubState.queue 3).cfg.toNat % 32) < ((17 : BitVec 32) - (hubState.queue 3).head).toNat ∧
    ((0x8000000000000010 : Word).getLsbD 63 = true ∧ (0x8000000000000010 : Word).toNat % 32 ≤ 16) ∧
    ((0x8000000000000003 : Word).getLsbD 63 = true ∧ (0x8000000000000003 : Word).toNat % 32 < 4) ∧
    hubState.hub.sems.get? 7 = none ∧ hubState.hub.sems.get? 5 = some 0 ∧ hubState.hub.sems.get? 0 = some (.ofNat 1 1) ∧
    hubState.partRefused 1 0 = true ∧ hubState.partRefused 0 0x8000000000000001000000000000000100000000000000000000000000000000 = false ∧
    (∀ k, hubState.hub.semTurn = some k → k.cycle ≠ hubState.cycle) ∧
    ({ hubState with hub := { hubState.hub with semTurn := some ⟨0, [], [(2, none)]⟩ } } : State).hub.semTurn = some ⟨0, [], [(2, none)]⟩ ∧
    (hubState.hub.imgs.get {} 2).running = false ∧ (({ imgs := [(2, { running := true })] } : Hub).imgs.get {} 2).running = true := by
  refine ⟨rfl, rfl, rfl, by decide, by decide, by decide, by decide, by decide, by decide, rfl, rfl, by decide, by decide +kernel,
    by decide +kernel, nofun, rfl, rfl, rfl⟩

/-- Port 1 reads a free semaphore first, and port 0 in the same cycle has it all the same (R390). -/
theorem test_semaphore_port0 :
    nextHas (exec (.semRead 0 2) (nextOf (exec (.semRead 1 2) hubState))) (fun t =>
      t.hub.sems.get? 2 == some 0 && t.window.reads.get? 0 == some 0 && t.window.reads.get? 1 == some 1) = true := by decide +kernel

theorem witness_HubEvents :
    hubState.hub.linkDown.get? 0 = none ∧ ({ linkDown := [(0, 5)] } : Hub).linkDown.get? 0 = some 5 ∧ 5 + 110000000 ≤ 110000005 ∧
    (∀ e ∈ ({} : Hub).lost, e.1 ≠ 0) ∧ ({ lost := [(1, 7), (0, 5)] } : Hub).lost.find? (fun k => k.1 = 0) = some (0, 5) ∧ (({} : Hub).imgs.get {} 2).running = false ∧
    (({ imgs := [(2, { running := true })] } : Hub).imgs.get {} 2).again = [] ∧ hubState.space 0 5 = none ∧
    ({ hub := { spaces := [(5, ⟨0, 1, 512⟩)] } } : State).space 0 5 = some ⟨0, 1, 512⟩ ∧
    ({ hubState with hub := { hubState.hub with spaces := [(0, ⟨0, 1, 512⟩)] } } : State).imageSpace {} = some ⟨0, 1, 512⟩ ∧
    hubState.imageSpace {} = none ∧ (1 : Word).toNat % 65536 ≠ 0 := by
  refine ⟨rfl, rfl, by decide, nofun, rfl, rfl, rfl, rfl, rfl, by decide +kernel, by decide +kernel, by decide⟩

/-- A request of a code under way, its block at address 64 of HBM. -/
def requested (code : BitVec 8) : State :=
  { hubState with hub := { hubState.hub with request := some ⟨1, code, 64⟩, keys := [(0, [1])] } }

theorem witness_FirmwareRequests :
    hubState.linkUp 1 = true ∧ hubState.hub.request = none ∧ (0x0200000000000040 : Word).toNat / 2 ^ 46 % 2 ^ 10 = 0 ∧
    (0x0200000000000040 : Word).toNat % 64 = 0 ∧ (0x0200000000000040 : Word).toNat / 2 ^ 56 = 2 ∧ hubState.hub.sems.get? 2 ≠ some (.ofNat 1 1) ∧
    ({ hub := { sems := [(2, 1)] } } : State).hub.sems.get? 2 = some (.ofNat 1 1) ∧
    (requested 2).hub.request = some ⟨1, .ofNat 8 2, (0x0200000000000040 : Word).toNat % 2 ^ 46⟩ ∧ 64 + 1328 ≤ 2 ^ 39 ∧
    (requested 6).mem.poisoned 64 1328 = false ∧ ({ poison := [64] } : Mem).poisoned 64 24 = true ∧
    bytesAt (List.replicate 1328 0) 8 1 ≤ 15 ∧ zeroAt (List.replicate 1328 0) 9 7 = true ∧ 15 < bytesAt (List.replicate 1328 16) 8 1 ∧
    hubState.loadBlockOk (List.replicate 128 0) = false ∧
    hubState.loadBlockOk (List.replicate 40 0 ++ 1 :: List.replicate 87 0) = true ∧ objectOk [] 0 = false ∧
    bytesAt (List.replicate 1328 0) 40 1 < 64 ∧ 64 ≤ bytesAt (List.replicate 1328 64) 40 1 ∧
    partValid (hubState.hub.parts.get 0 0) = true ∧ partValid (hubState.hub.parts.get 0 1) = false := by
  refine ⟨?_, rfl, ?_, ?_, ?_, ?_, rfl, ?_⟩
  all_goals and_intros <;> decide +kernel

/-- Queue 0 with one record at address 0: partition 0, no dependences. -/
def launching (r : PartRun) (v : BitVec 256) : State :=
  { hub := { parts := [(0, v)], partRuns := [(0, r)], queues := [(0, { cfg := 0x8000000000000004, tail := 1 })] }
    mem := { bytes := (List.range 16).map (fun i => (4 + i, 0xff)) } }

/-- Partition 0 with grove 0 and with pre-emption allowed. -/
def partEntry : BitVec 256 := 0xc000000000000001000000000000000100000000000000000000000000000000

theorem witness_LaunchesRun :
    State.reset.heads = [] ∧ (launching {} partEntry).heads = [0] ∧ (launching {} partEntry).headOutside = false ∧
    (launching {} partEntry).headBad 0 = none ∧ (launching {} partEntry).eligibleHead 0 = true ∧ (launching {} 0).headBad 0 = some (0x14, 0) ∧
    ((launching {} 0).queue 0).pending = 1 ∧
    ({ hub := { queues := [(0, { base := BitVec.ofNat 46 (2 ^ 39), cfg := 0x8000000000000004, tail := 1 })] } } : State).headOutside = true ∧
    (launching {} partEntry).takes 0 1 0 = true ∧ (launching { running := some ⟨1, 0, 0, 0⟩ } partEntry).takes 0 1 0 = true ∧
    (launching { running := some ⟨1, 0, 0, 0⟩, resumed := some 7 } partEntry).takes 0 1 7 = false ∧
    (launching { running := some ⟨1, 0, 0, 0⟩, resumed := some 7 } partEntry).takes 0 1 8 = true ∧
    (({} : Hub).partRuns.get {} 0).running = none ∧ (launching { running := some ⟨1, 0, 0, 0⟩ } partEntry).launchDone 0 = false ∧
    ({ launching { running := some ⟨1, 0, 0, 0⟩ } partEntry with groves := [(0, { seq := { run := .halted } })] } : State).launchDone 0 = true ∧
    (∀ g ∈ (launching {} partEntry).partGroveList 0, (launching {} partEntry).groveSaved g = true) ∧
    ({ launching {} partEntry with groves := [(0, { seq := { run := .running } })] } : State).groveSaved 0 = false := by
  refine ⟨?_, ?_, ?_, ?_, ?_, ?_, ?_⟩
  all_goals and_intros <;> decide +kernel

/-- A port whose entry 0 forwards, delivers or reduces words of source 0, with words held. -/
def routing (e : BitVec 256) (ws : List FabricWord) (x : Port) : State :=
  { hubState with ports := [(0, { x with routes := [(0, e)], held := [(0, ws)] })] }

def forwards : BitVec 256 := 0x8001000000000000000000000000000000000000000000000000100100000000
def delivers : BitVec 256 := 0x8001000000000000000000000000000000000000000000000200180000000000
def reduces : BitVec 256 := 0x8001000000000000000000000000000000000000000000000400180006000000

/-- A context that adds `f32` of two contributions. -/
def sums : Word := 0x8204000000000000

theorem witness_FabricTables :
    (11 : Nat) < 12 ∧ ((hubState.port 0).spare = none) ∧ ({ spare := some 1 } : Port).spare ≠ none ∧ hubState.routeBad 0 forwards = false ∧
    (forwards ||| BitVec.twoPow 256 249).extractLsb' 249 2 ≠ 0 ∧ (forwards.extractLsb' 253 2).toNat < 1 ∧
    (BitVec.twoPow 256 60).extractLsb' 60 60 ≠ 0 ∧ ((0 : BitVec 256).extractLsb' 0 60).extractLsb' 44 13 = 0 ∧ ccBad sums = false ∧
    (hubState.port 0).named 3 = false ∧ ({ routes := [(0, 0x8001000000000000000000000000000000000000000000000400180006000000)] } : Port).named 3 = true ∧
    10 ≤ ((0x0000000001540000 : BitVec 60).extractLsb' 17 4).toNat ∧ (0x0000000001540000 : BitVec 60).extractLsb' 23 2 ≠ 0 ∧ (0 : Word).extractLsb' 49 8 = 0 ∧ ((0x0b00000000000000 : Word).extractLsb' 56 4).toNat < 12 ∧
    12 ≤ ((0x0c00000000000000 : Word).extractLsb' 56 4).toNat := by
  refine ⟨by decide, rfl, nofun, by decide +kernel, by decide +kernel, by decide +kernel, by decide +kernel, by decide, by decide +kernel, rfl,
    by decide +kernel, by decide, by decide, by decide, by decide, by decide⟩

/-- A data word, and a header of three words of `f32` with tag 5. -/
def dataWord : FabricWord := { kind := 0, addr := 0, data := 7 }
def headerWord : FabricWord := { kind := 1, addr := 0, data := 0x10003000500000000000000000000000000000000000000000000000000000000000000000000000000000000000000000000000000000000000000000000000 }

theorem witness_RoutedWords :
    (hubState.port 0).held.get [] 0 = [] ∧ hubState.routeLive 0 = false ∧
    [forwards, delivers, reduces].all (fun e => let s := routing e [dataWord] {}
      decide ((s.port 0).held.get [] 0 = dataWord :: []) && s.routeLive (s.route 0 0) && (setIn (curSet (s.route 0 0))).getLsbD 0 &&
        !((s.port 0).marked.get 0 0).getLsbD 0 && s.routeOpen 0 (curSet (s.route 0 0))) = true ∧
    (setAct (curSet forwards) = 0 ∧ bits13 (setOut (curSet forwards)) = [1] ∧ setAct (curSet delivers) = 1 ∧ setCnt (curSet delivers) ≠ 1 ∧
      setAct (curSet reduces) = 2 ∧ setCc (curSet reduces) = 3 ∧ bits13 (setOut (curSet reduces)) = [12]) ∧
    (ccOp sums ≠ 3 ∧ ccValid sums = true ∧ 1 < ccCount sums) ∧
    (isFloat (hFmt headerWord.data).toNat = true ∧ hLen headerWord.data = 3 ∧ (hTag headerWord.data).toNat = 5) ∧
    (match (routing delivers [dataWord] {}).wordPages 0 1 0 false true with | (_, .error c) => decide (c ≠ 0) | _ => false) = true ∧
    (match ({ routing delivers [dataWord] {} with dies := [(0, { tlb := [(0, [⟨1, false, 0, true, true, 0⟩])] })] } : State).wordPages 0 1 0 false true with
      | (_, .ok l) => decide (l = [(0, 64)])
      | _ => false) = true ∧
    (let s := routing forwards [] { marked := [(0, 1)] }
     (s.port 0).marked.get 0 0 &&& setIn (curSet (s.route 0 0)) = setIn (curSet (s.route 0 0)) ∧ setIn (curSet (s.route 0 0)) ≠ 0 ∧
       setAct (curSet (s.route 0 0)) ≠ 2) := by
  refine ⟨rfl, ?_, ?_, ?_, ?_, ?_, ?_, ?_, ?_⟩
  all_goals decide +kernel

/-- Forwarding to the links of ports 1 and 2, and a delivery that counts its packets at counter 4 of tile 0. -/
def forwardsTwo : BitVec 256 := 0x8001000000000000000000000000000000000000000000000000100300000000
def counts : BitVec 256 := 0x8001000000000000000000000000000000000000000000000200180000800200

/-- Tables of address 0 for the partition of ASID 1 in die 0. -/
def pageState (s : State) : State := { s with dies := [(0, { tlb := [(0, [⟨1, false, 0, true, true, 0⟩])] })] }

theorem witness_RoutedWords_several :
    (let s := routing forwardsTwo [{ dataWord with senders := [(0, 1, 5)] }] {}
     s.routeLive (s.route 0 0) = true ∧ (setIn (curSet (s.route 0 0))).getLsbD 0 = true ∧ s.routeOpen 0 (curSet (s.route 0 0)) = true ∧
       setAct (curSet (s.route 0 0)) = 0 ∧ bits13 (setOut (curSet (s.route 0 0))) = [1, 2]) ∧
    (let s := pageState (routing counts [{ dataWord with senders := [(0, 1, 5)] }] { arriving := [(0, { num := 3, left := [(3, 1)] })] })
     let r := curSet (s.route 0 0)
     s.routeLive (s.route 0 0) = true ∧ s.routeOpen 0 r = true ∧ setAct r = 1 ∧ setCnt r = 1 ∧ (s.port 0).landing = [] ∧ (s.port 0).refused = [] ∧
       (s.port 0).counts = [] ∧ ((s.port 0).arriving.get {} 0).left.get? ((s.port 0).arriving.get {} 0).num = some 1 ∧
       (s.grove (groveOf (s.physOf (rGrove r) (rTile r)))).savedTiles = [] ∧
       (match (s.wordPages 0 (rAsid (s.route 0 0)) 0 false true).2 with | .ok l => decide (l = [(0, 64)]) | _ => false) = true) ∧
    ({ dataWord with back := some 3 } : FabricWord).senders = [] := by
  decide +kernel

/-- The last word of a packet is in memory, its sender answered and the packet counted at counter 4 (R434, R439). -/
theorem test_delivery_counts :
    nextHas (exec (.routeDeliver 0 0) (pageState (routing counts [{ dataWord with senders := [(0, 1, 5)] }] { arriving := [(0, { num := 3, left := [(3, 1)] })] })))
      (fun t => t.mem.bytes.read 0 == 7 && (t.tile 0).ac.get 0 4 == 1 && (t.tile 0).str.responses == [⟨1, 5, 0, none⟩]) = true := by decide +kernel

/-- A port whose entry 0 reduces into context 3, with words held from source 0 and packets open. -/
def reducing (ws : List FabricWord) (x : Port) : State := routing reduces ws { x with contexts := [(3, sums)] }

/-- The packet of `headerWord`, its header gone on, with one contribution to position 0. -/
def openPacket (q : KMap Partial) : OpenPacket := { num := 0, header := headerWord.data, out := headerWord, begun := true, words := q }

theorem witness_RoutedWords_reduced :
    (let s := reducing [headerWord] {}
     let r := curSet (s.route 0 0)
     s.routeLive (s.route 0 0) = true ∧ (setIn r).getLsbD 0 = true ∧ s.routeOpen 0 r = true ∧ setAct r = 2 ∧ setCc r = 3 ∧ ccOp sums ≠ 3 ∧
       ccValid sums = true ∧ 3 ∉ (s.port 0).stopped ∧ 3 ∈ ({ stopped := [3] } : Port).stopped ∧ 0 ∉ bits13 (setOut r) ∧
       isFloat (hFmt headerWord.data).toNat = true ∧ (s.port 0).packets.get [] 3 = []) ∧
    ccValid 0 = false ∧
    (let q : Partial := ⟨0, [], 1, false, []⟩
     let x : Port := { current := [(0, (headerWord.data, 0))], packets := [(3, [(5, openPacket [(0, q)])])] }
     (∀ y ∈ [x, { x with packets := [(3, [(5, openPacket [])])] }], ((reducing [dataWord] y).port 0).current.get? 0 = some (headerWord.data, 0) ∧
       y.partials < 4096) ∧ (hTag headerWord.data).toNat = 5 ∧ 0 < hLen (openPacket []).header ∧ hLen (openPacket []).header ≤ 3 ∧
       (openPacket []).words.get? 0 = none ∧ (openPacket [(0, q)]).words.get? 0 = some q ∧ q.addr = dataWord.addr ∧ q.count + 1 = ccCount sums ∧
       1 < ccCount sums ∧ q.addr ≠ (64 : Addr)) := by
  decide +kernel

/-- Two contributions of 1.0 and 2.0 in `f32` give 3.0 (R440). -/
theorem test_contributions_add :
    combineLane 0 (decodeType 1 0x3f800000) (decodeType 1 0x40000000) = decodeType 1 0x40400000 := by decide +kernel

/-- Tile 0 with a read of peer edge 1, which port 0 reaches, and a response and a reply for its command. -/
def peerState (e : BitVec 256) (r : Response) (x : List PeerReply := []) (c : Cmd := peerCmd) (w : List FabricWord := []) : State :=
  { routing e [] { reads := [(0, w)] } with
    tiles := [(0, { str := { cmds := [(2, c)], responses := [r], replies := x } })], focus := .tile 0
    dies := [(0, { edges := [(1, 0xe000000800000000)], tlb := [(0, [⟨1, false, 0, true, true, 0⟩])] })] }

theorem witness_RepliesReachTheirSenders :
    (let s := peerState delivers ⟨1, 0, 0, none⟩
     s.cmd? 0 5 = none ∧ s.cmd? 0 2 = some peerCmd ∧ peerCmd.active = true ∧ (s.tile 0).still = false ∧ peerCmd.awaitsReply = true ∧
       (s.tile 0).str.replies = [] ∧ peerCmd.asked ≠ some peerCmd.readAt ∧ peerCmd.indexed = false ∧ peerCmd.single = false ∧
       gId peerCmd.readGeo % 4096 = 1 ∧ (match (s.rowOf 0 peerCmd peerCmd.readAt).2 with | .ok _ => true | _ => false) = true) ∧
    (∀ k ∈ [(0 : BitVec 8), 0x10, 0x13], let c := { peerCmd with asked := some 0 }
      let s := peerState delivers ⟨1, 0, 0, none⟩ [⟨1, 0, k, 0, []⟩] c
      s.cmd? 0 2 = some c ∧ (s.tile 0).str.replies = [⟨1, 0, k, 0, []⟩] ∧ c.num + 1 = 1 ∧ c.done = false) ∧
    (∀ e : BitVec 256, let w : FabricWord := { kind := 3, addr := 0, data := 0, senders := [(0, 1, 0)] }
      ((peerState e ⟨1, 0, 0, none⟩ [] peerCmd [w]).port 0).reads.get [] 0 = [w]) ∧
    (match ((peerState delivers ⟨1, 0, 0, none⟩).wordPages 0 1 0 true false).2 with | .ok l => decide (l = [(0, 64)]) | _ => false) = true ∧
    (match ((peerState delivers ⟨1, 0, 0, none⟩).wordPages 0 1 0x10000 true false).2 with | .error c => decide (c = 0x10) | _ => false) = true ∧
    ((peerState delivers ⟨1, 0, 0, none⟩).tile 0).str.responses = [⟨1, 0, 0, none⟩] ∧ ((peerState delivers ⟨1, 0, 0, none⟩).tile 0).freeze = none ∧
    peerCmd.cause = 0 ∧ ((peerState delivers ⟨1, 0, 0, none⟩).mx 0).tokens = [] ∧
    (⟨1, 3, 0x12, none⟩ : Response).cause ≠ 0 ∧ ((peerState delivers ⟨0, 0, 0, none⟩).die (dieOf (groveOf 0))).writeback = [] := by
  refine ⟨by decide +kernel, by decide +kernel, fun _ => rfl, by decide +kernel, by decide +kernel, rfl, rfl, rfl, rfl, by decide, rfl⟩

/-! ### Witnesses: invariants -/

theorem witness_MemoryFormIsKept : State.reset.memOk ∧ ∃ t, step State.reset = .next t := ⟨by unfold State.memOk; decide, _, rfl⟩

/-! ### Ill-formed instructions are refused (R139, R143, R146, R151, R248) -/

theorem test_wellFormed_refuses :
    (Instr.add ⟨0, 0, 1⟩ 3 1 2).wf = false ∧ (Instr.add .plain 48 1 2).wf = false ∧ (Instr.add .plain 3 54 2).wf = false ∧
    (Instr.add .plain 3 1 55).wf = false ∧ (Instr.sext .plain 3 1 3).wf = false ∧ (Instr.zext .plain 3 1 3).wf = false ∧
    (Instr.muLoop 1 0 1).wf = false ∧ (Instr.fence .plain 5).wf = false := by decide

theorem test_decode_refuses :
    decodeSlot false .a 0 = .error .voidWord ∧ decodeSlot false .a 0x0210C108 = .error .illegalOpcode ∧
    decodeSlot false .a 0x020C0108 = .error .illegalOpcode ∧ decodeSlot false .a 0x02003608 = .error .illegalOpcode ∧
    decodeSlot false .a 0x0200C109 = .error .illegalOpcode ∧ decodeSlot true .a 0x30024330 = .error .illegalOpcode ∧
    decodeSlot false .v 0x2702E300 = .error .privilege ∧ decodeMicro 0x26000001 = none := by decide

/-- Words whose bits the spec prints: R163, R208, R238, R328 and R441. -/
theorem test_decode_printed :
    decodeIn .a 0x0200C108 = some (.add ⟨0, 0, 0⟩ 3 1 2) ∧ decodeIn .d 0x03010910 = some (.ssAffPort ⟨0, 0, 0⟩ 4 2 1) ∧
    decodeIn .c 0x10014C20 = some (.sResOut ⟨0, 0, 0⟩ 5 3 2) ∧ decodeIn .c 0x0E000001 = some (.sKillAll ⟨0, 0, 0⟩) ∧
    decodeIn .m 0x02060700 = some (.mset ⟨0, 0, 0⟩ 3 7) ∧ decodeIn .m 0x04014028 = some (.mcall ⟨0, 0, 0⟩ 5 40) ∧
    decodeIn .m 0x06086029 = some (.macc ⟨0, 0, 0⟩ 1 6 41) ∧ decodeIn .m 0x05014600 = some (.mgang ⟨0, 0, 0⟩ 5 6) ∧
    decodeIn .v 0x2200E200 = some (.qOpen ⟨0, 0, 0⟩ 3 2) ∧ decodeIn .v 0x2901C009 = some (.tkStat ⟨0, 0, 0⟩ 7 9) ∧
    decodeIn .n 0x08014004 = some (.cntWait ⟨0, 0, 0⟩ 5 4) := by decide

/-! ### Steps of words -/

/-- Tile 0 with values in `s1` and `s2`. -/
def scalars (a b : Word) : State := onTile (withSeq { run := .running, s := [(1, a), (2, b)] })

/-- The value a word schedules. -/
def result (i : Instr) (s : State) : Option Nat := ((nextOf (exec i s)).cur.lands.head?).map (fun p => p.val.toNat)

theorem test_alu_wraps :
    result (.add .plain 3 1 2) (scalars 0xffffffffffffffff 2) = some 1 ∧ result (.sub .plain 3 1 2) (scalars 0 1) = some 0xffffffffffffffff ∧
    result (.mulh .plain 3 1 2) (scalars 0xffffffffffffffff 2) = some 0xffffffffffffffff ∧
    result (.mulhn .plain 3 1 2) (scalars 0xffffffffffffffff 2) = some 1 ∧ result (.mul .plain 3 1 2) (scalars 0x8000000000000001 2) = some 2 := by
  decide +kernel

theorem test_alu_shifts :
    result (.shl .plain 3 1 2) (scalars 3 64) = some 3 ∧ result (.shr .plain 3 1 2) (scalars 0x8000000000000000 63) = some 1 ∧
    result (.sra .plain 3 1 2) (scalars 0x8000000000000000 63) = some 0xffffffffffffffff ∧
    result (.min .plain 3 1 2) (scalars 0xffffffffffffffff 1) = some 0xffffffffffffffff ∧
    result (.minn .plain 3 1 2) (scalars 0xffffffffffffffff 1) = some 1 ∧ result (.clz .plain 3 1) (scalars 0 0) = some 64 ∧
    result (.sext .plain 3 1 0) (scalars 0x80 0) = some 0xffffffffffffff80 ∧ result (.zext .plain 3 1 0) (scalars 0x180 0) = some 0x80 := by
  decide +kernel

/-- A load of a byte at `a1`, sign- and zero-extended (R166). -/
theorem test_loads_extend :
    let s : State := { onTile (withSeq { run := .running, a := [(1, 16)] }) with mem := { bytes := [(tspAddr 0 17, 0x80)] } }
    result (.ld .plain 3 1 0 1) s = some 0xffffffffffffff80 ∧ result (.ldn .plain 3 1 0 1) s = some 0x80 := by decide +kernel

/-- A store writes the low bytes, least significant first (R166). -/
theorem test_store_bytes :
    nextHas (exec (.st .plain 1 0 1 2) (scalars 0x11223344 0)) (fun t =>
      t.mem.bytes.readList (tspAddr 0 0) 8 == [0, 0, 0, 0, 0x44, 0x33, 0, 0]) = true := by decide +kernel

/-- An atomic add of 32 bits leaves its sum in memory and gives its old value to its register, at its turn at the bank (R169). -/
theorem test_amo_add :
    nextHas (exec (.scoreboardReply 0) (nextOf (exec (.amoAdd .plain 3 0 0 1) { scalars 2 0 with mem := { bytes := [(gspAddr 0 0, 0xff)] } }))) (fun t =>
      t.mem.bytes.readList (gspAddr 0 0) 4 == [1, 1, 0, 0] && t.cur.readS 3 == 0xff && t.cur.reqs.isEmpty) = true := by decide +kernel

/-- The last bundle of a loop of two trips goes back once (R172, R173). -/
theorem test_loop_ends :
    ((onTile (withSeq { loops := [⟨5, 9, 2, 0⟩] })).advance 9 []).cur.pc = 5 ∧ ((onTile (withSeq { loops := [⟨5, 9, 2, 1⟩] })).advance 9 []).cur.pc = 10 := by
  decide +kernel

/-- `call` leaves the next bundle's index in `s30` (R170). -/
theorem test_call_links :
    nextHas (exec (.call .plain 4) (onTile {} { pc := 10 })) (fun t => t.cur.branch == some 14 && (t.cur.lands.head?).map (fun p => p.val) == some 11) = true := by
  decide +kernel

/-- The wait of R183's example: status 0x1A and info 0x1302 at barrier 40 leave `0x0400_5000_0140_9817`. -/
theorem test_barrier_report :
    let e : Entry := { word := 0x04005000, begun := true }
    let s := onTile { seq := { run := .running, bars := [(40, { init := true, waits := [(0, .released 0x1a 0x1302 none)] })], queues := [(7, [e])] } } e
    nextHas (exec (.barWait .plain 40) s) (fun t => (t.cur.traps.head?).map (fun x => (x.cause, x.info)) == some (0x1a, 0x0400500001409817)) = true := by
  decide +kernel

/-- A trap handler is entered with the pc and cause saved (R261). -/
theorem test_trap_entry :
    let s := (trapped 7).takeTrap (.tile 0) 0x0e 3 5
    s.cur.pc = 7 ∧ s.cur.ctl.trappc = 3 ∧ s.cur.ctl.trapcause = 0x0e ∧ s.cur.ctl.trapinfo = 5 ∧ s.cur.handlers.length = 1 := by decide +kernel

/-- A counter wait is signed, so that 3 - 4 waits and 4 - 4 does not (R441). -/
theorem test_cnt_wait :
    nextHas (exec (.cntWait .plain 5 4) (counting 3)) (fun t => t.cur.queues.get [] 6 ≠ []) = true ∧
    nextHas (exec (.cntWait .plain 5 4) (counting 4)) (fun t => t.cur.queues.get [] 6 == []) = true := by decide +kernel

/-- The header of the stream commands' example: `fmt` 1, `len` 2, tag 0x0300, axis 1. -/
theorem test_feed_header :
    nextHas (exec (.streamWordDeliver 0 2) (commanded (arrayTile [] []) (exampleCmd .feed 0))) (fun t =>
      ((t.tile 0).fab.edges.get [] 0).map (fun w => (w.kind, w.data.extractLsb' 448 64)) == [(1, 0x1000203000000004)]) = true := by decide +kernel

/-! ### Steps of the array -/

/-- An element of another configuration word in the example's image. -/
def elementTile (c : BitVec 128) (v : Vec) : State :=
  onTile { arrayTile [⟨0, v, 0⟩] [] with fab := { (arrayTile [⟨0, v, 0⟩] []).fab with slots := [(0, { exampleImage with elems := [(19, c)] })] } }

/-- Lane 0 of the result that enters an element's pipeline. -/
def lane0 (r : Result) : Option (BitVec 32) :=
  ((((nextOf r).tile 0).elemAt 19).pipe.head?.bind (fun p => p.sends.head?)).map (fun w => w.2.data.extractLsb' 0 32)

/-- The examples of R86: `iadd` of 0x7FFF_FFFF and 1 with `saturate` 0 and 1, `iadds`, and `ineg` of 5 in `n32`. -/
theorem test_integer_examples :
    lane0 (exec (.iadd 0 19) (elementTile 0x109001249c5000000000000000000001 0x7fffffff)) = some 0x80000000 ∧
    lane0 (exec (.iadd 0 19) (elementTile 0x109201249c5000000000000000000001 0x7fffffff)) = some 0x7fffffff ∧
    lane0 (exec (.iadds 0 19) (elementTile 0x129001249c5000000000000000000001 0x7fffffff)) = some 0x7fffffff ∧
    lane0 (exec (.ineg 0 19) (elementTile 0x1bd001279c5000000000000000000000 5)) = some 0xfffffffb ∧
    lane0 (exec (.ineg 0 19) (elementTile 0x1bd201279c5000000000000000000000 5)) = some 0 := by decide +kernel

/-- The example of R103: `fexp2` of 2.5 in `f32`. -/
theorem test_fexp2_example : lane0 (exec (.fexp2 0 19) (elementTile 0x4c1001279c5000000000000000000000 0x40200000)) = some 0x40b504f3 := by
  decide +kernel

/-! ### Reset and the package -/

theorem test_reset_words :
    decodeTableWord 32 0x0200C108 = some (.add ⟨0, 0, 0⟩ 3 1 2) ∧
    nextHas (step (State.reset.withFetchWord 32 0x0200C108)) (fun t => t.cur.pc == 1) = true ∧
    nextHas (step (State.reset.withFetchWord 32 0x2A000000)) (fun t => t.focus.isGrove) = true := by decide +kernel

/-- A semaphore read takes a free semaphore, and then shows its holder (R390). -/
theorem test_semaphore :
    nextHas (exec (.semRead 1 9) hubState) (fun t => t.hub.sems.get? 9 == some 1 && t.window.reads.get? 1 == some 0) = true ∧
    nextHas (exec (.semRead 0 0) hubState) (fun t => t.window.reads.get? 0 == some 3) = true := by decide +kernel


end Sys2Proof.Tests
end

/-!
SUPPORT and PROOFS. What the words of slots A, B and L that only compute leave: the scalar words, the predicates, the
addresses, and the words whose predicate is false.
-/
namespace Sys2Proof.Proofs
open Sys2Proof.Machine

/-! ### Where a result lands -/

/-- A predicate result lands at its register, and one for `q0` is dropped (R109). -/
theorem result_predicate (s : State) (t : BitVec 3) (v : Vec) (l : Nat) :
    s.result (.q t.toNat) v l = if t = 0 then s else s.landing (.q t.toNat) v l := by
  by_cases ht : t = 0
  · subst ht; rfl
  · have hn : t.toNat ≠ 0 := fun e => ht (BitVec.eq_of_toNat_eq e)
    rw [if_neg ht, result_eq _ _ _ _ (by simp [hn])]

/-- A result for the scalar of a five-bit field lands there, and one for `s0` is dropped (R109). -/
theorem result_scalar (s : State) (n : BitVec 5) (v : Vec) (l : Nat) :
    s.result (.s n.toNat) v l = if n = 0 then s else s.landing (.s n.toNat) v l := by
  by_cases hn : n = 0
  · subst hn; rfl
  · have h0 : n.toNat ≠ 0 := fun e => hn (BitVec.eq_of_toNat_eq e)
    rw [if_neg hn, result_eq _ _ _ _ (by simp [h0])]

/-- A result for an address register is always scheduled. -/
theorem resultA_eq (s : State) (d : BitVec 4) (v : Addr) : s.resultA d v = s.landing (.a d.toNat) (v.setWidth 512) 1 :=
  result_eq _ _ _ _ (by simp)

/-! ### The forms of words -/

section Forms
variable {s : State} {i : Instr} {h : Hdr}

/-- A word that acts at dispatch and computes a scalar schedules it for d. -/
theorem atDispatch_lands {d : BitVec 6} {l : Nat} {f : State → Word} {v : Word} (hh : s.cur.holds h = true)
    (hf : dispatchFault s i = none) (hv : f s = v) :
    atDispatch i h s (fun s => s.result64 d (f s) l) = .next (if d = 0 then s else s.landing (destOf d) (v.setWidth 512) l) := by
  rw [atDispatch_acts hh hf, hv, result64_eq]

/-- A three-register word schedules its function of both operands. -/
theorem aluR3_lands {d a b : BitVec 6} {l : Nat} {f : Word → Word → Word} {v : Word} (hh : s.cur.holds h = true)
    (hf : dispatchFault s i = none) (hv : f (s.cur.opnd a) (s.cur.opnd b) = v) :
    aluR3 i h d a b l f s = .next (if d = 0 then s else s.landing (destOf d) (v.setWidth 512) l) :=
  atDispatch_lands hh hf hv

/-- A word of one register operand schedules its function of it, for the next bundle time. -/
theorem aluR2_lands {d a : BitVec 6} {f : Word → Word} {v : Word} (hh : s.cur.holds h = true)
    (hf : dispatchFault s i = none) (hv : f (s.cur.opnd a) = v) :
    aluR2 i h d a f s = .next (if d = 0 then s else s.landing (destOf d) (v.setWidth 512) 1) :=
  atDispatch_lands hh hf hv

theorem setWidth_pred (z : Bool) : (pred z).setWidth 512 = (if z then 1 else 0 : Vec) := by
  cases z <;> simp [pred]

/-- A predicate word schedules its truth value for the next bundle time. -/
theorem aluPred_lands {t : BitVec 3} {f : State → BitVec 1} {z : Bool} (hh : s.cur.holds h = true)
    (hf : dispatchFault s i = none) (hv : f s = pred z) :
    aluPred i h t f s = .next (if t = 0 then s else s.landing (.q t.toNat) (if z then 1 else 0) 1) := by
  unfold aluPred
  rw [atDispatch_acts hh hf, hv, setWidth_pred, result_predicate]

/-- An address word schedules its sum for the next bundle time. -/
theorem atDispatch_landsA {d : BitVec 4} {f : State → Addr} {v : Addr} (hh : s.cur.holds h = true)
    (hf : dispatchFault s i = none) (hv : f s = v) :
    atDispatch i h s (fun s => s.resultA d (f s)) = .next (s.landing (.a d.toNat) (v.setWidth 512) 1) := by
  rw [atDispatch_acts hh hf, hv, resultA_eq]

end Forms

/-! ### Values of the ALU words (R163) -/

/-- The upper half of a 128-bit pattern is the quotient by 2^64 of the number it stands for. -/
theorem extractLsb'_ofInt (p : Int) : (BitVec.ofInt 128 p).extractLsb' 64 64 = .ofInt 64 (p / 2 ^ 64) := by
  apply BitVec.eq_of_toNat_eq
  simp only [BitVec.extractLsb'_toNat, BitVec.toNat_ofInt, Nat.shiftRight_eq_div_pow]
  omega

theorem mulHighSigned_eq (x y : Word) : mulHighSigned x y = (x.signExtend 128 * y.signExtend 128).extractLsb' 64 64 := by
  rw [BitVec.signExtend, BitVec.signExtend, ← BitVec.ofInt_mul, extractLsb'_ofInt, mulHighSigned]

theorem mulHighUnsigned_eq (x y : Word) :
    mulHighUnsigned x y = (x.setWidth 128 * y.setWidth 128).extractLsb' 64 64 := by
  have hx := x.isLt
  have hy := y.isLt
  have hxy : x.toNat * y.toNat < 2 ^ 128 := by nlinarith
  apply BitVec.eq_of_toNat_eq
  simp only [mulHighUnsigned, BitVec.toNat_ofNat, BitVec.extractLsb'_toNat, BitVec.toNat_mul, BitVec.toNat_setWidth,
    Nat.shiftRight_eq_div_pow]
  rw [Nat.mod_eq_of_lt (a := x.toNat) (by omega), Nat.mod_eq_of_lt (a := y.toNat) (by omega), Nat.mod_eq_of_lt hxy]

theorem shiftLeft_eq_ofNat (x : Word) (n : Nat) : x <<< n = .ofNat 64 (x.toNat * 2 ^ n) := by
  apply BitVec.eq_of_toNat_eq
  rw [BitVec.toNat_shiftLeft, BitVec.toNat_ofNat, Nat.shiftLeft_eq]

theorem ushiftRight_eq_ofNat (x : Word) (n : Nat) : x >>> n = .ofNat 64 (x.toNat / 2 ^ n) := by
  rw [← Nat.shiftRight_eq_div_pow, ← BitVec.toNat_ushiftRight, BitVec.ofNat_toNat, BitVec.setWidth_eq]

theorem sshiftRight_eq_ofInt (x : Word) (n : Nat) : x.sshiftRight n = .ofInt 64 (x.toInt / 2 ^ n) := by
  rw [BitVec.sshiftRight, Int.shiftRight_eq_div_pow]
  norm_cast

theorem ite_slt_eq_min (x y : Word) : (if y.slt x then y else x) = .ofInt 64 (min x.toInt y.toInt) := by
  simp only [BitVec.slt_iff_toInt_lt, min_comm x.toInt, min_def_lt, apply_ite (BitVec.ofInt 64), BitVec.ofInt_toInt]

theorem ite_slt_eq_max (x y : Word) : (if x.slt y then y else x) = .ofInt 64 (max x.toInt y.toInt) := by
  simp only [BitVec.slt_iff_toInt_lt, max_def_lt, apply_ite (BitVec.ofInt 64), BitVec.ofInt_toInt]

theorem ite_ult_eq_min (x y : Word) : (if y.ult x then y else x) = .ofNat 64 (min x.toNat y.toNat) := by
  simp only [BitVec.ult_iff_toNat_lt, min_comm x.toNat, min_def_lt, apply_ite (BitVec.ofNat 64), BitVec.ofNat_toNat,
    BitVec.setWidth_eq]

theorem ite_ult_eq_max (x y : Word) : (if x.ult y then y else x) = .ofNat 64 (max x.toNat y.toNat) := by
  simp only [BitVec.ult_iff_toNat_lt, max_def_lt, apply_ite (BitVec.ofNat 64), BitVec.ofNat_toNat, BitVec.setWidth_eq]

theorem add_ofInt_eq (x : Word) (k : Int) : x + .ofInt 64 k = .ofInt 64 (x.toInt + k) := by
  rw [BitVec.ofInt_add, BitVec.ofInt_toInt]

/-- The count of leading zeros of a number: no bit is set above it, and the next one is, unless all 64 are zeros. -/
theorem countLeadingZeros_spec (x : Word) : ∃ c : Nat, countLeadingZeros x = .ofNat 64 c ∧ c ≤ 64 ∧ x.toNat < 2 ^ (64 - c) ∧
    (c = 64 ∨ 2 ^ (63 - c) ≤ x.toNat) := by
  unfold countLeadingZeros
  by_cases hx : x = 0
  · subst hx
    exact ⟨64, by decide⟩
  · have hn : x.toNat ≠ 0 := fun e => hx (BitVec.eq_of_toNat_eq e)
    have hlog : x.toNat.log2 < 64 := (Nat.log2_lt hn).mpr x.isLt
    refine ⟨63 - x.toNat.log2, if_neg hx, by omega, ?_, .inr ?_⟩
    · rw [show 64 - (63 - x.toNat.log2) = x.toNat.log2 + 1 by omega]
      exact Nat.lt_log2_self
    · rw [show 63 - (63 - x.toNat.log2) = x.toNat.log2 by omega]
      exact Nat.log2_self_le hn

theorem countOnes_eq (x : Word) : countOnes x = .ofNat 64 ((List.range 64).countP (fun j => x.toNat / 2 ^ j % 2 = 1)) := by
  have hbit (j : Nat) : x.getLsbD j = decide (x.toNat / 2 ^ j % 2 = 1) := Nat.testBit_eq_decide_div_mod_eq
  simp only [countOnes, hbit, List.countP_eq_length_filter]

theorem signExtendLow_eq (x : Word) (e : BitVec 2) :
    signExtendLow x e = .ofInt 64 (Int.bmod (x.toNat : Int) (2 ^ (8 * 2 ^ e.toNat))) := by
  rw [signExtendLow, BitVec.signExtend, BitVec.toInt_setWidth, extBits]

theorem zeroExtendLow_eq (x : Word) (e : BitVec 2) : zeroExtendLow x e = .ofNat 64 (x.toNat % 2 ^ (8 * 2 ^ e.toNat)) := by
  apply BitVec.eq_of_toNat_eq
  rw [zeroExtendLow, BitVec.toNat_setWidth, BitVec.toNat_setWidth, BitVec.toNat_ofNat, extBits]

/-! ### Values of the predicate words (R164) -/

theorem condition_eq (x y : Word) : condition 0 x y = decide (x = y) := rfl

theorem condition_ne (x y : Word) : condition 1 x y = decide (x ≠ y) := by
  simp [condition, bne, Bool.beq_eq_decide_eq]

theorem condition_slt (x y : Word) : condition 2 x y = decide (x.toInt < y.toInt) := rfl

theorem condition_ult (x y : Word) : condition 3 x y = decide (x.toNat < y.toNat) := rfl

theorem predOp_and (u v : BitVec 1) : predOp 0 u v = pred (decide (u = 1) && decide (v = 1)) := by revert u v; decide

theorem predOp_or (u v : BitVec 1) : predOp 1 u v = pred (decide (u = 1) || decide (v = 1)) := by revert u v; decide

theorem predOp_xor (u v : BitVec 1) : predOp 2 u v = pred (decide (u = 1) != decide (v = 1)) := by revert u v; decide

theorem predOp_andNot (u v : BitVec 1) : predOp 3 u v = pred (decide (u = 1) && !decide (v = 1)) := by revert u v; decide

/-! ### Values of the address words (R175) -/

/-- An address sum reads an address register whole and sign-extends any other operand. -/
theorem addrOpnd_eq (q : Seq) (c : BitVec 6) :
    q.addrOpnd c = if 32 ≤ c.toNat ∧ c.toNat < 48 then q.readA (c.toNat - 32) else (q.opnd c).signExtend 72 := by
  unfold Seq.addrOpnd
  split
  next hc => rw [Seq.readSrc, if_neg (by omega), if_pos hc.2]
  next => rfl

/-- Bits 63 to 0 of an address, as `aget` reads them. -/
theorem setWidth_64_512_eq (r : Addr) : (r.setWidth 64).setWidth 512 = BitVec.ofNat 512 (r.toNat % 2 ^ 64) := by
  apply BitVec.eq_of_toNat_eq
  rw [BitVec.toNat_setWidth, BitVec.toNat_setWidth, BitVec.toNat_ofNat]

/-- Bits 71 to 64 of an address replaced, as `ahi` does. -/
theorem append_setWidth_64_eq (k : BitVec 8) (r : Addr) :
    k ++ r.setWidth 64 = BitVec.ofNat 72 (k.toNat * 2 ^ 64 + r.toNat % 2 ^ 64) := by
  have hk := k.isLt
  apply BitVec.eq_of_toNat_eq
  rw [BitVec.toNat_append, BitVec.toNat_setWidth, BitVec.toNat_ofNat, Nat.shiftLeft_eq, mul_comm,
    ← Nat.two_pow_add_eq_or_of_lt (Nat.mod_lt _ (by decide))]
  omega

/-! ### Words whose predicate is false (R139) -/

/-- What a decoder answers, if anything, changes nothing where the predicate of a header is false. -/
def HeedsPredicate (h : Hdr) (o : Option Instr) : Prop :=
  ∀ i, o = some i → ∀ s : State, s.cur.holds h = false → exec i s = .next s

namespace HeedsPredicate
variable {h : Hdr} {i : Instr} {x y : Option Instr}

theorem of_none : HeedsPredicate h none := fun _ e => nomatch e

theorem of_some (he : ∀ s : State, s.cur.holds h = false → exec i s = .next s) : HeedsPredicate h (some i) :=
  fun _ e => Option.some.inj e ▸ he

theorem of_ite {c : Prop} [Decidable c] (hx : HeedsPredicate h x) (hy : HeedsPredicate h y) :
    HeedsPredicate h (if c then x else y) := by
  split
  · exact hx
  · exact hy

theorem of_orElse (hx : HeedsPredicate h x) (hy : HeedsPredicate h y) : HeedsPredicate h (orElse x y) := by
  cases x with
  | none => exact hy
  | some _ => exact hx

/-- A row of a map whose word acts at dispatch under the header. -/
theorem row (he : ∃ act, ∀ s, exec i s = atDispatch i h s act) : HeedsPredicate h (checked i) :=
  .of_ite (.of_some fun s hh => by obtain ⟨act, e⟩ := he; rw [e, atDispatch_idle hh]) .of_none

/-- A row of a map that requires some bits of the word to be fixed. -/
theorem fixedRow {c : Prop} [Decidable c] (he : ∃ act, ∀ s, exec i s = atDispatch i h s act) :
    HeedsPredicate h (if c then checked i else none) :=
  .of_ite (.row he) .of_none

end HeedsPredicate

/-- `nop`, `nop.y` and `ext` do nothing under any predicate. -/
theorem decodeAny_heeds (h : Hdr) (w : BitVec 32) : HeedsPredicate h (decodeAny w) :=
  .of_ite (.of_some fun _ _ => rfl) (.of_ite (.of_some fun _ _ => rfl) (.of_ite (.of_some fun _ _ => rfl) .of_none))

/-! Every row of the maps of slots A, B and L reads its header with `hdrOf` and acts at dispatch under it; what is left is
the codes without a row. -/

theorem decodeAlu_heeds (w : BitVec 32) : HeedsPredicate (hdrOf w) (decodeAlu w) := by
  unfold decodeAlu
  split
  any_goals exact .fixedRow ⟨_, fun _ => rfl⟩
  any_goals exact .row ⟨_, fun _ => rfl⟩
  exact .of_none

theorem decodeOnlyA_heeds (w : BitVec 32) : HeedsPredicate (hdrOf w) (decodeOnlyA w) := by
  unfold decodeOnlyA
  split
  any_goals exact .fixedRow ⟨_, fun _ => rfl⟩
  any_goals exact .row ⟨_, fun _ => rfl⟩
  exact .of_none

theorem decodeOnlyB_heeds (w : BitVec 32) : HeedsPredicate (hdrOf w) (decodeOnlyB w) := by
  unfold decodeOnlyB
  split
  any_goals exact .fixedRow ⟨_, fun _ => rfl⟩
  any_goals exact .row ⟨_, fun _ => rfl⟩
  exact .of_none

theorem decodeL_heeds (w : BitVec 32) : HeedsPredicate (hdrOf w) (decodeL w) := by
  unfold decodeL
  split
  any_goals exact .fixedRow ⟨_, fun _ => rfl⟩
  exact .of_none

theorem decodeIn_heeds {sl : Slot} (hsl : sl = .a ∨ sl = .b ∨ sl = .l) (w : BitVec 32) :
    HeedsPredicate (hdrOf w) (decodeIn sl w) := by
  refine .of_orElse (decodeAny_heeds _ w) ?_
  rcases hsl with rfl | rfl | rfl
  · exact .of_orElse (decodeAlu_heeds w) (decodeOnlyA_heeds w)
  · exact .of_orElse (decodeAlu_heeds w) (decodeOnlyB_heeds w)
  · exact decodeL_heeds w

/-! ### The statements -/

/-- Settles O6: each word's form schedules its function of the operands, and the values are those of R163. -/
theorem aluResults : Obligations.AluResults := by
  unfold Obligations.AluResults
  constructor
  · intro s h d a b hh
    change execAdd h d a b s = _ ∧ execSub h d a b s = _ ∧ execMul h d a b s = _ ∧ execMulh h d a b s = _ ∧
      execMulhn h d a b s = _ ∧ execAnd h d a b s = _ ∧ execOr h d a b s = _ ∧ execXor h d a b s = _ ∧
      execAndn h d a b s = _ ∧ execShl h d a b s = _ ∧ execShr h d a b s = _ ∧ execSra h d a b s = _ ∧
      execMin h d a b s = _ ∧ execMax h d a b s = _ ∧ execMinn h d a b s = _ ∧ execMaxn h d a b s = _
    exact ⟨aluR3_lands hh rfl rfl, aluR3_lands hh rfl rfl, aluR3_lands hh rfl rfl,
      aluR3_lands hh rfl (mulHighSigned_eq _ _), aluR3_lands hh rfl (mulHighUnsigned_eq _ _), aluR3_lands hh rfl rfl,
      aluR3_lands hh rfl rfl, aluR3_lands hh rfl rfl, aluR3_lands hh rfl rfl,
      aluR3_lands hh rfl (shiftLeft_eq_ofNat _ _), aluR3_lands hh rfl (ushiftRight_eq_ofNat _ _),
      aluR3_lands hh rfl (sshiftRight_eq_ofInt _ _), aluR3_lands hh rfl (ite_slt_eq_min _ _),
      aluR3_lands hh rfl (ite_slt_eq_max _ _), aluR3_lands hh rfl (ite_ult_eq_min _ _),
      aluR3_lands hh rfl (ite_ult_eq_max _ _)⟩
  · intro s h d a k n hh x imm lands
    have himm : immSigned s.ctx.ext k = imm := rfl
    obtain ⟨c, hc, hcount⟩ := countLeadingZeros_spec x
    change execAddi h d a k s = _ ∧ execLi h d k s = _ ∧ execMov h d a s = _ ∧ execShli h d a n s = _ ∧
      execShri h d a n s = _ ∧ execSrai h d a n s = _ ∧ (∃ c, execClz h d a s = .next (lands (.ofNat 64 c)) ∧ _) ∧
      execPopc h d a s = _ ∧ ∀ e : BitVec 2, e ≠ 3 → execSext h d a e s = _ ∧ execZext h d a e s = _
    refine ⟨aluR2_lands hh rfl ?_, atDispatch_lands hh rfl ?_, aluR2_lands hh rfl rfl,
      aluR2_lands hh rfl (shiftLeft_eq_ofNat _ _), aluR2_lands hh rfl (ushiftRight_eq_ofNat _ _),
      aluR2_lands hh rfl (sshiftRight_eq_ofInt _ _), ⟨c, aluR2_lands hh rfl hc, hcount⟩,
      aluR2_lands hh rfl (countOnes_eq _), fun e _ =>
        ⟨aluR2_lands hh rfl (signExtendLow_eq _ _), aluR2_lands hh rfl (zeroExtendLow_eq _ _)⟩⟩
    · rw [himm, add_ofInt_eq]
    · rw [himm]

/-- Settles O7: a predicate word schedules its truth value, and every row of the maps of slots A, B and L acts only under the
predicate of its header. -/
theorem predicatesAndIdleWords : Obligations.PredicatesAndIdleWords := by
  unfold Obligations.PredicatesAndIdleWords
  refine ⟨?_, fun _ _ => ⟨rfl, rfl, rfl⟩, fun s sl w i hsl hw hh => decodeIn_heeds hsl w i hw s hh⟩
  intro s h t u v c d a b y5 k hh
  change execCmp h t 0 a b s = _ ∧ execCmp h t 1 a b s = _ ∧ execCmp h t 2 a b s = _ ∧ execCmp h t 3 a b s = _ ∧
    execCmpi h t 0 a k s = _ ∧ execCmpi h t 1 a k s = _ ∧ execCmpi h t 2 a k s = _ ∧ execCmpi h t 3 a k s = _ ∧
    execQop h t u v 0 s = _ ∧ execQop h t u v 1 s = _ ∧ execQop h t u v 2 s = _ ∧ execQop h t u v 3 s = _ ∧
    execSel h d a y5 c s = _
  exact ⟨aluPred_lands hh rfl (congrArg pred (condition_eq _ _)), aluPred_lands hh rfl (congrArg pred (condition_ne _ _)),
    aluPred_lands hh rfl (congrArg pred (condition_slt _ _)), aluPred_lands hh rfl (congrArg pred (condition_ult _ _)),
    aluPred_lands hh rfl (congrArg pred (condition_eq _ _)), aluPred_lands hh rfl (congrArg pred (condition_ne _ _)),
    aluPred_lands hh rfl (congrArg pred (condition_slt _ _)), aluPred_lands hh rfl (congrArg pred (condition_ult _ _)),
    aluPred_lands hh rfl (predOp_and _ _), aluPred_lands hh rfl (predOp_or _ _), aluPred_lands hh rfl (predOp_xor _ _),
    aluPred_lands hh rfl (predOp_andNot _ _), atDispatch_lands hh rfl (by simp)⟩

/-- Settles O11: each word's form schedules its value, which is that of R175. -/
theorem addressResults : Obligations.AddressResults := by
  unfold Obligations.AddressResults
  intro s h d a x y n k hh whole landsA r
  have hwhole (c : BitVec 6) : s.cur.addrOpnd c = whole c := addrOpnd_eq _ _
  change execAadd h d x y s = _ ∧ execAaddi h d x k s = _ ∧ execAmov h d a s = _ ∧ execAset h d x s = _ ∧
    execAget h n a s = _ ∧ execAhi h d a k s = _
  refine ⟨atDispatch_landsA hh rfl ?_, atDispatch_landsA hh rfl ?_, atDispatch_landsA hh rfl rfl,
    atDispatch_landsA hh rfl rfl, ?_, atDispatch_landsA hh rfl (append_setWidth_64_eq _ _)⟩
  · rw [hwhole, hwhole]
  · rw [hwhole]
  · rw [execAget, atDispatch_acts hh rfl, result_scalar, setWidth_64_512_eq]

end Sys2Proof.Proofs
